-- ==== Sys2Proof/Word.lean ====
section
/-! DEFINITION. The machine words of the Stolyn SX8 and their plainest arithmetic (spec 00 R1-R4). -/

namespace Sys2Proof

/-- A 64-bit general register value, address or argument word (R20). -/
abbrev Word := BitVec 64

/-- A 32-bit slot word, X word or vector lane (R71, R126). -/
abbrev Half := BitVec 32

/-- One byte. -/
abbrev Byte := BitVec 8

/-- The 64-bit word of a number, modulo 2^64. -/
def Word.ofNat (n : Nat) : Word := BitVec.ofNat 64 n

/-- The 64-bit word of an integer, modulo 2^64. -/
def Word.ofInt (n : Int) : Word := BitVec.ofInt 64 n

/-- sext(x, n): the low `n` bits of a word read as two's complement (R4). -/
def sextN (n : Nat) (x : Nat) : Int :=
  let y := x % 2 ^ n
  if n = 0 then 0 else if 2 ^ (n - 1) ≤ y then (y : Int) - (2 ^ n : Nat) else y

/-- clamp(x, lo, hi) on integers (R4). -/
def clampI (x lo hi : Int) : Int := if x < lo then lo else if hi < x then hi else x

end Sys2Proof
end

