-- ==== Sys2Proof/Config.lean ====
section
/-! DEFINITION. What the spec leaves free: constants without a body, applied to the counter of free values taken
(notes/assumptions 6, 10-13, 20, 21, 23, 30). Nothing in Lean can evaluate one or prove a value of it. -/

namespace Sys2Proof.Config

/-- A duration or an arrival time that the spec does not bound (log entry 10). -/
opaque delay : Nat → Nat

/-- The withheld beats W the power controller chooses, taken modulo 65,536 (R400, log entry 11). -/
opaque withheld : Nat → Nat

/-- Read noise of one ADC code, in units of 2^-269 code (R278, log entry 12). -/
opaque readNoise : Nat → Int

/-- How far one step moves a cell in its polarity, in units of 2^-64 nu (R284, log entry 12). -/
opaque cellStep : Nat → Nat

/-- A measured parameter or calibration value (R321, log entry 13). -/
opaque measured : Nat → BitVec 16

/-- Content the spec does not give: signatures, certificates, sensor readings, nonces (log entries 20, 30). -/
opaque answer : Nat → Nat

/-- One less than the pairs of a die that the firmware lets array-engine commands hold at once (R293, R304, log entry
13). -/
opaque engineCap : Nat

/-- One less than the flits a virtual channel of a link may hold at its far end (R412, log entry 23). -/
opaque credits : Nat

/-- How atomics of two homes on one word come out: 0 both, 1 or 2 one of them alone, taken modulo 3 (R255, log entry 68). -/
opaque homeOrder : Nat → Nat

/-- Where the firmware keeps context frames, in units of 1 MiB (R385, log entry 21). -/
opaque frameAt : Nat

/-- The queue of each die on which the firmware submits calibration slices (R441, log entry 6). -/
opaque calQueue : Nat → Nat

/-- The signature bytes of the geometry record in flash slot A (R439, log entry 4). -/
opaque flashByte : Nat → Nat

/-- The boot step at which the hardware fails, if it is one of 3 to 5 (R440, log entry 20). -/
opaque bootFailure : Nat → Nat

/-- The mask ROM's code and the digest of the firmware key's public half in it, and the device's certificate: fixed for the
module (R439, R442, log entry 20). -/
opaque romCode : List (BitVec 8)
opaque keyDigest : List (BitVec 8)
opaque certificate : List (BitVec 8)

/-- Where the firmware keeps its tables (log entry 6). -/
opaque table : Nat → Nat

end Sys2Proof.Config
end

