-- ==== Sys2Proof/Machine/Fp.lean ====
section
/-! DEFINITION. Binary floating point: exact values, the rounding modes and the flags (spec 03 R48-R58, R67, R68). -/

namespace Sys2Proof.Machine

/-- The five rounding modes of R51. -/
inductive Rnd | rne | rz | rd | ru | rs
  deriving DecidableEq, Repr

/-- The rounding mode of a 3-bit code; codes 5-7 never pass decoding (R51). -/
def Rnd.ofCode (c : Nat) : Rnd :=
  match c with
  | 1 => .rz | 2 => .rd | 3 => .ru | 4 => .rs | _ => .rne

/-- The two binary formats of R48. -/
inductive Fmt | bf16 | fp32
  deriving DecidableEq, Repr

/-- Significand bits p of R52. -/
def Fmt.p : Fmt → Nat
  | .bf16 => 8 | .fp32 => 24

/-- The FSTAT flags NV, DZ, OF, UF, NX, SKIPNV as bits 0 to 5 (R22). -/
abbrev Flags := BitVec 6

def fNV : Flags := 0x01#6
def fDZ : Flags := 0x02#6
def fOF : Flags := 0x04#6
def fUF : Flags := 0x08#6
def fNX : Flags := 0x10#6
def fSKIP : Flags := 0x20#6

/-- `f` when the condition holds, no flag otherwise. -/
def flagIf (c : Bool) (f : Flags) : Flags := if c then f else 0

/-- An exact value: a NaN (signalling or quiet), an infinity, or ±m × 2^e with m = 0 a signed zero. A value
known only to lie strictly between two multiples of 2^(e+1) carries an odd `m` (a sticky bit). -/
inductive Ex where
  | nan (signalling : Bool)
  | inf (neg : Bool)
  | fin (neg : Bool) (m : Nat) (e : Int)
  deriving DecidableEq, Repr

def Ex.isNan : Ex → Bool
  | .nan _ => true | _ => false

def Ex.isSig : Ex → Bool
  | .nan s => s | _ => false

def Ex.isInf : Ex → Bool
  | .inf _ => true | _ => false

def Ex.isZero : Ex → Bool
  | .fin _ 0 _ => true | _ => false

def Ex.sign : Ex → Bool
  | .nan _ => false | .inf n => n | .fin n _ _ => n

/-- The value a bit pattern of the format encodes (R48, R49). -/
def Ex.ofBits (F : Fmt) (w : Nat) : Ex :=
  let fb := F.p - 1
  let f := w % 2 ^ fb
  let e := (w / 2 ^ fb) % 256
  let neg := (w / 2 ^ (fb + 8)) % 2 = 1
  if e = 255 then
    if f = 0 then .inf neg else .nan (f < 2 ^ (fb - 1))
  else if e = 0 then .fin neg f (-126 - fb)
  else .fin neg (f + 2 ^ fb) (e - 127 - fb)

/-- The canonical quiet NaN of the format (R49). -/
def nanBits : Fmt → Nat
  | .bf16 => 0x7FC0 | .fp32 => 0x7FC00000

/-- The sign bit's weight when set. -/
def signBits (F : Fmt) (neg : Bool) : Nat := if neg then 2 ^ (F.p + 7) else 0

/-- The encoding of ±∞. -/
def infBits (F : Fmt) (neg : Bool) : Nat := signBits F neg + 255 * 2 ^ (F.p - 1)

/-- The encoding of the largest finite magnitude with a sign. -/
def maxBits (F : Fmt) (neg : Bool) : Nat := infBits F neg - 1

/-- m × 2^k rounded down, with what is left over: 0 nothing, 1 below a half, 2 a half, 3 above a half. -/
def scaleDown (m : Nat) (k : Int) : Nat × Nat :=
  if 0 ≤ k then (m * 2 ^ k.toNat, 0)
  else
    let s := (-k).toNat
    let lo := m / 2 ^ s
    let r := m % 2 ^ s
    (lo, if r = 0 then 0 else if r * 2 < 2 ^ s then 1 else if r * 2 = 2 ^ s then 2 else 3)

/-- Whether a deterministic mode takes the larger of the two neighbours (R52). -/
def roundsUp (mode : Rnd) (neg : Bool) (lo rest : Nat) : Bool :=
  match mode with
  | .rne => rest = 3 || (rest = 2 && lo % 2 = 1)
  | .ru => rest ≠ 0 && !neg
  | .rd => rest ≠ 0 && neg
  | _ => false

/-- floor(log2 |x|) of a non-zero m × 2^e. -/
def floorLog (m : Nat) (e : Int) : Int := (Nat.log2 m : Int) + e

/-- round(x, F, mode) of R52 on a deterministic mode: the encoding and the flags it raises. -/
def roundEx (F : Fmt) (mode : Rnd) : Ex → Nat × Flags
  | .nan s => (nanBits F, flagIf s fNV)
  | .inf n => (infBits F n, 0)
  | .fin neg 0 _ => (signBits F neg, 0)
  | .fin neg (m + 1) e =>
    let l := floorLog (m + 1) e
    let ee := max l (-126)
    let qe := ee - F.p + 1
    let (lo, rest) := scaleDown (m + 1) (e - qe)
    let y := if roundsUp mode neg lo rest then lo + 1 else lo
    if qe > 128 - (F.p : Int) ∨ (qe = 128 - (F.p : Int) ∧ 2 ^ F.p ≤ y) then
      let toInf := match mode with
        | .rne => true | .ru => !neg | .rd => neg | _ => false
      (if toInf then infBits F neg else maxBits F neg, fOF ||| fNX)
    else
      (signBits F neg + (ee + 126).toNat * 2 ^ (F.p - 1) + y,
        flagIf (rest ≠ 0) fNX ||| flagIf (rest ≠ 0 && l < -126) fUF)

/-- round_rs of R53 with the draw's low sixteen bits given. -/
def roundRs (rbits : Nat) : Ex → Nat × Flags
  | .fin neg (m + 1) e =>
    let l := floorLog (m + 1) e
    let ee := max l (-126)
    let qe := ee - 8 + 1
    let (n, rest) := scaleDown (m + 1) (e - qe + 16)
    let big := qe > 120 ∨ (qe = 120 ∧ 256 * 65536 ≤ n)
    let lo := if big then 255 else n / 65536
    let k := if big then 65536 else n % 65536
    let up := rbits < k
    let y := if up then lo + 1 else lo
    let ye := if big then (127 : Int) else ee
    let r := signBits .bf16 neg + (ye + 126).toNat * 128 + y
    let ovf := up && r % 32768 = 0x7F80
    let inexact := rest ≠ 0 || k ≠ 0 || big || up
    (r, flagIf inexact fNX ||| flagIf (inexact && l < -126) fUF ||| flagIf ovf fOF)
  | x => roundEx .bf16 .rne x

/-- Round in the encoded mode; the stochastic mode uses the given draw bits. -/
def roundWith (F : Fmt) (mode : Rnd) (rbits : Nat) (x : Ex) : Nat × Flags :=
  match mode with
  | .rs => roundRs rbits x
  | _ => roundEx F mode x

/-- The integer ±m scaled to exponent `f ≤ e`. -/
def signedAt (neg : Bool) (m : Nat) (e f : Int) : Int :=
  let v : Int := (m * 2 ^ (e - f).toNat : Nat)
  if neg then -v else v

def Ex.neg : Ex → Ex
  | .nan s => .nan s | .inf n => .inf (!n) | .fin n m e => .fin (!n) m e

/-- Exact sum, with the exact-zero signs of R58, and NV where R50 gives it. R58 names no sign for `.rs`, which gives +0 here
(log entry 57). -/
def Ex.add (mode : Rnd) : Ex → Ex → Ex × Flags
  | .nan a, b => (.nan false, flagIf (a || b.isSig) fNV)
  | a, .nan b => (.nan false, flagIf (b || a.isSig) fNV)
  | .inf a, .inf b => if a = b then (.inf a, 0) else (.nan false, fNV)
  | .inf a, .fin _ _ _ => (.inf a, 0)
  | .fin _ _ _, .inf b => (.inf b, 0)
  | .fin na ma ea, .fin nb mb eb =>
    let f := min ea eb
    let t := signedAt na ma ea f + signedAt nb mb eb f
    if t = 0 then
      (.fin (if ma = 0 ∧ mb = 0 ∧ na = nb then na else mode = .rd) 0 f, 0)
    else (.fin (t < 0) t.natAbs f, 0)

/-- Exact product (R58). -/
def Ex.mul : Ex → Ex → Ex × Flags
  | .nan a, b => (.nan false, flagIf (a || b.isSig) fNV)
  | a, .nan b => (.nan false, flagIf (b || a.isSig) fNV)
  | .inf a, b => if b.isZero then (.nan false, fNV) else (.inf (a != b.sign), 0)
  | a, .inf b => if a.isZero then (.nan false, fNV) else (.inf (b != a.sign), 0)
  | .fin na ma ea, .fin nb mb eb => (.fin (na != nb) (ma * mb) (ea + eb), 0)

/-- a × b + c with a single rounding to follow; 0 × ∞ is NV whatever c is (R58). -/
def Ex.fma (mode : Rnd) (a b c : Ex) : Ex × Flags :=
  let (p, f) := Ex.mul a b
  let (r, g) := Ex.add mode p c
  (r, f ||| g)

/-- Quotient with a sticky bit, exact to 128 bits and rounded once afterwards (R58). -/
def Ex.div : Ex → Ex → Ex × Flags
  | .nan a, b => (.nan false, flagIf (a || b.isSig) fNV)
  | a, .nan b => (.nan false, flagIf (b || a.isSig) fNV)
  | .inf _, .inf _ => (.nan false, fNV)
  | .inf a, .fin b _ _ => (.inf (a != b), 0)
  | .fin a _ _, .inf b => (.fin (a != b) 0 0, 0)
  | .fin na ma ea, .fin nb mb eb =>
    if mb = 0 then
      if ma = 0 then (.nan false, fNV) else (.inf (na != nb), fDZ)
    else if ma = 0 then (.fin (na != nb) 0 0, 0)
    else
      let n := ma * 2 ^ 192
      let q := n / mb
      (.fin (na != nb) (2 * q + (if n % mb = 0 then 0 else 1)) (ea - eb - 193), 0)

/-- The largest `r` below 2^k with r × r ≤ n, added bit by bit to `acc`. -/
def isqrtBits : Nat → Nat → Nat → Nat
  | 0, _, acc => acc
  | k + 1, n, acc =>
    let t := acc + 2 ^ k
    isqrtBits k n (if t * t ≤ n then t else acc)

/-- floor(√n). -/
def isqrt (n : Nat) : Nat := isqrtBits (Nat.log2 n / 2 + 1) n 0

/-- Square root with a sticky bit (R58, R109). -/
def Ex.sqrt : Ex → Ex × Flags
  | .nan s => (.nan false, flagIf s fNV)
  | .inf false => (.inf false, 0)
  | .inf true => (.nan false, fNV)
  | .fin n 0 _ => (.fin n 0 0, 0)
  | .fin true (_ + 1) _ => (.nan false, fNV)
  | .fin false (m + 1) e =>
    let e2 := if e % 2 = 0 then e else e - 1
    let m2 := if e % 2 = 0 then m + 1 else 2 * (m + 1)
    let n := m2 * 2 ^ 192
    let r := isqrt n
    (.fin false (2 * r + (if r * r = n then 0 else 1)) (e2 / 2 - 97), 0)

/-- Comparison of two non-NaN values. -/
def Ex.lt : Ex → Ex → Bool
  | .inf a, .inf b => a && !b
  | .inf a, .fin _ _ _ => a
  | .fin _ _ _, .inf b => !b
  | .fin na ma ea, .fin nb mb eb =>
    let f := min ea eb
    signedAt na ma ea f < signedAt nb mb eb f
  | _, _ => false

/-- Equality of two non-NaN values; −0 equals +0 (R58). -/
def Ex.eqv : Ex → Ex → Bool
  | .nan _, _ => false
  | _, .nan _ => false
  | a, b => !(Ex.lt a b) && !(Ex.lt b a)

/-- Minimum and maximum of R58, the operand's own encoding or the canonical NaN. -/
def fpMinMax (isMax : Bool) (F : Fmt) (a b : Nat) : Nat × Flags :=
  let x := Ex.ofBits F a
  let y := Ex.ofBits F b
  if x.isNan || y.isNan then (nanBits F, flagIf (x.isSig || y.isSig) fNV)
  else if x.isZero && y.isZero then
    (signBits F (if isMax then x.sign && y.sign else x.sign || y.sign), 0)
  else if isMax then (if Ex.lt x y then b else a, 0)
  else (if Ex.lt y x then b else a, 0)

/-- One rounded operation on two encoded operands. -/
def fpBin (op : Rnd → Ex → Ex → Ex × Flags) (F : Fmt) (mode : Rnd) (rbits a b : Nat) : Nat × Flags :=
  let (x, f) := op mode (Ex.ofBits F a) (Ex.ofBits F b)
  let (r, g) := roundWith F mode rbits x
  (r, f ||| g)

def fpAdd := fpBin Ex.add
def fpSub := fpBin fun m a b => Ex.add m a b.neg
def fpMul := fpBin fun _ a b => Ex.mul a b
def fpDiv := fpBin fun _ a b => Ex.div a b

/-- Rounded square root. -/
def fpSqrt (F : Fmt) (mode : Rnd) (rbits a : Nat) : Nat × Flags :=
  let (x, f) := Ex.sqrt (Ex.ofBits F a)
  let (r, g) := roundWith F mode rbits x
  (r, f ||| g)

/-- Rounded fused multiply-add a × b + c. -/
def fpFma (F : Fmt) (mode : Rnd) (rbits a b c : Nat) : Nat × Flags :=
  let (x, f) := Ex.fma mode (Ex.ofBits F a) (Ex.ofBits F b) (Ex.ofBits F c)
  let (r, g) := roundWith F mode rbits x
  (r, f ||| g)

/-- bf16_from_fp32 of R55. -/
def bf16OfFp32 (mode : Rnd) (rbits a : Nat) : Nat × Flags :=
  roundWith .bf16 mode rbits (Ex.ofBits .fp32 a)

/-- fp32_from_bf16 of R55: exact, a NaN canonical. -/
def fp32OfBf16 (a : Nat) : Nat × Flags := roundEx .fp32 .rne (Ex.ofBits .bf16 a)

/-- The integer nearest ±m × 2^e in a deterministic mode, and whether it is exact. -/
def roundInt (mode : Rnd) (neg : Bool) (m : Nat) (e : Int) : Int × Bool :=
  let (lo, rest) := scaleDown m e
  let y : Int := if roundsUp mode neg lo rest then lo + 1 else lo
  (if neg then -y else y, rest = 0)

/-- ri of R61: nearest, ties to even, of a non-negative m × 2^e. -/
def riNat (m : Nat) (e : Int) : Nat :=
  let (lo, rest) := scaleDown m e
  if roundsUp .rne false lo rest then lo + 1 else lo

/-- Range of an integer format of R46 by its 3-bit code: low and high limit. -/
def intRange (code : Nat) : Int × Int :=
  let n := 8 * 2 ^ (code % 4)
  if code < 4 then (-(2 ^ (n - 1) : Nat), (2 ^ (n - 1) : Nat) - 1) else (0, (2 ^ n : Nat) - 1)

/-- Float to integer of R56. -/
def intOfEx (code : Nat) (mode : Rnd) (x : Ex) : Int × Flags :=
  let (lo, hi) := intRange code
  match x with
  | .nan _ => (0, fNV)
  | .inf n => (if n then lo else hi, fNV)
  | .fin n m e =>
    let (y, exact) := roundInt mode n m e
    if y < lo then (lo, fNV) else if hi < y then (hi, fNV)
    else (y, flagIf (!exact) fNX)

/-- An integer as an exact value. -/
def Ex.ofInt (i : Int) : Ex := .fin (i < 0) i.natAbs 0

/-- Integer to float of R57. -/
def floatOfInt (F : Fmt) (mode : Rnd) (rbits : Nat) (i : Int) : Nat × Flags :=
  roundWith F mode rbits (Ex.ofInt i)

/-- The result of a compare condition of R110 on two values, and NV. -/
def fpCmp (cc : Nat) (a b : Ex) : Bool × Flags :=
  let un := a.isNan || b.isNan
  let sig := a.isSig || b.isSig
  match cc with
  | 0 => (Ex.eqv a b, flagIf sig fNV)
  | 1 => (!(Ex.eqv a b), flagIf sig fNV)
  | 2 => (!un && Ex.lt a b, flagIf un fNV)
  | 3 => (!un && !(Ex.lt b a), flagIf un fNV)
  | 4 => (!un && Ex.lt b a, flagIf un fNV)
  | 5 => (!un && !(Ex.lt a b), flagIf un fNV)
  | 6 => (un, flagIf sig fNV)
  | _ => (!un, flagIf sig fNV)

/-- One tree node of R67 and R68: an FP32 sum rounded to nearest even. -/
def nodeAdd (a b : Ex) : Ex × Flags :=
  let (x, f) := Ex.add .rne a b
  let (r, g) := roundEx .fp32 .rne x
  (Ex.ofBits .fp32 r, f ||| g)

/-- One level of a pairwise tree over exact or FP32 values, flags gathered. -/
def treeLevel (node : Ex → Ex → Ex × Flags) : List Ex → List Ex × Flags
  | a :: b :: r =>
    let (s, f) := node a b
    let (t, g) := treeLevel node r
    (s :: t, f ||| g)
  | r => (r, 0)

/-- `k` levels of the tree, so a list of 2^k values becomes one. -/
def treeLevels (node : Ex → Ex → Ex × Flags) : Nat → List Ex → List Ex × Flags
  | 0, s => (s, 0)
  | k + 1, s =>
    let (t, f) := treeLevel node s
    let (u, g) := treeLevels node k t
    (u, f ||| g)

/-- Positive zero. -/
def Ex.zero : Ex := .fin false 0 0

/-- The first value of a list, +0 for none. -/
def exHead : List Ex → Ex
  | [] => .zero
  | a :: _ => a

/-- tree_sum32 of R68 on 32 exact products and an FP32 accumulator. -/
def treeSum32 (p : List Ex) (acc : Ex) : Nat × Flags :=
  let (s, f) := treeLevels nodeAdd 5 p
  let (x, g) := Ex.add .rne acc (exHead s)
  let (r, h) := roundEx .fp32 .rne x
  (r, f ||| g ||| h)

end Sys2Proof.Machine
end

