-- ==== Sys2Proof/Machine/Block.lean ====
section
/-! DEFINITION. The block formats DXB8 and MXFP8: values, quantisation and the packed block of a cluster (spec 03
R59-R66, 07 R161). -/

namespace Sys2Proof.Machine

/-- dxb8_value of R59. -/
def dxb8Value (byte eh el : Nat) : Ex :=
  if eh = 0xFF ∨ el = 0xFF then .nan false
  else .fin (byte / 128 % 2 = 1) (byte % 64) ((if byte / 64 % 2 = 0 then eh else el : Nat) - 132)

/-- The largest floor(log2) among the non-zero finite values; none when all are zero. -/
def maxLog : List Ex → Option Int
  | [] => none
  | .fin _ (m + 1) e :: r =>
    match maxLog r with
    | none => some (floorLog (m + 1) e)
    | some l => some (max l (floorLog (m + 1) e))
  | _ :: r => maxLog r

/-- One element of dxb8_quantise: its byte and flags (R61). -/
def dxb8Elem (eh el : Nat) : Ex → Nat × Flags
  | .nan _ => (0, 0)
  | .inf n => (63 + (if n then 128 else 0), fOF ||| fNX)
  | .fin n m e =>
    let ml := riNat m (e + 132 - el)
    let low := ml ≤ 63
    let v := if low then ml else min (riNat m (e + 132 - eh)) 63
    let x : Nat := if low then el else eh
    let exact := Ex.eqv (.fin false v ((x : Int) - 132)) (.fin false m e)
    (if v = 0 then 0 else v + (if low then 64 else 0) + (if n then 128 else 0),
      flagIf (!exact) fNX ||| flagIf (m ≠ 0 && v = 0) fUF)

/-- A quantised block: scale bytes EH/SB and EL, the 32 element bytes, flags. -/
structure Quant where
  hi : Nat
  lo : Nat
  bytes : List Nat
  flags : Flags
  deriving DecidableEq, Repr

/-- dxb8_quantise of R61 with exponent distance `d`. -/
def dxb8Quantise (v : List Ex) (d : Nat) : Quant :=
  if v.any Ex.isNan then ⟨0xFF, 0xFF, List.replicate 32 0, fNV⟩
  else
    let go (eh : Nat) : Quant :=
      let el := eh - d
      let es := v.map (dxb8Elem eh el)
      ⟨eh, el, es.map (·.1), es.foldl (fun f x => f ||| x.2) 0⟩
    if v.any Ex.isInf then go 254
    else match maxLog v with
      | none => ⟨0, 0, List.replicate 32 0, 0⟩
      | some l => go (clampI (l + 127) 1 254).toNat

/-- Exponent distance of the 5-bit field: 0 selects 6 (R60). -/
def dxbDist (f : Nat) : Nat := if f = 0 then 6 else f

/-- Mantissa bits, bias, encoding of the largest finite magnitude of an MXFP8 element type; true for E5M2 (R62). -/
def mxShape (e5 : Bool) : Nat × Nat × Nat := if e5 then (2, 15, 0x7B) else (3, 7, 0x7E)

/-- Element value of a byte in its type, before the scale (R62, R63). -/
def mxElem (e5 : Bool) (byte : Nat) : Ex :=
  let (mb, bias, _) := mxShape e5
  let n := byte / 128 % 2 = 1
  let mag := byte % 128
  if e5 && mag = 0x7C then .inf n
  else if (e5 && 0x7C < mag) || (!e5 && mag = 0x7F) then .nan false
  else
    let ex := mag / 2 ^ mb
    let fr := mag % 2 ^ mb
    if ex = 0 then .fin n fr (1 - (bias : Int) - mb)
    else .fin n (fr + 2 ^ mb) ((ex : Int) - bias - mb)

/-- mx8_value of R63. -/
def mx8Value (e5 : Bool) (byte sb : Nat) : Ex :=
  if sb = 0xFF then .nan false
  else match mxElem e5 byte with
    | .fin n m e => .fin n m (e + (sb : Int) - 127)
    | x => x

/-- One element of mx8_quantise (R64). -/
def mx8Quant1 (e5 : Bool) (sb : Nat) : Ex → Nat × Flags
  | .nan _ => (0, 0)
  | .inf n => ((mxShape e5).2.2 + (if n then 128 else 0), fOF ||| fNX)
  | .fin _ 0 _ => (0, 0)
  | .fin n (m + 1) e =>
    let (mb, bias, top) := mxShape e5
    let f := e + 127 - sb
    let ee := max (floorLog (m + 1) f) (1 - (bias : Int))
    let k := riNat (m + 1) (f - (ee - mb))
    let enc := min ((ee + bias - 1).toNat * 2 ^ mb + k) top
    let exact := Ex.eqv (mx8Value e5 enc sb) (.fin false (m + 1) e)
    (if enc = 0 then 0 else enc + (if n then 128 else 0), flagIf (!exact) fNX ||| flagIf (enc = 0) fUF)

/-- mx8_quantise of R64. -/
def mx8Quantise (v : List Ex) (e5 : Bool) : Quant :=
  if v.any Ex.isNan then ⟨0xFF, 0, List.replicate 32 0, fNV⟩
  else
    let go (sb : Nat) : Quant :=
      let es := v.map (mx8Quant1 e5 sb)
      ⟨sb, 0, es.map (·.1), es.foldl (fun f x => f ||| x.2) 0⟩
    if v.any Ex.isInf then go 0xFE
    else match maxLog v with
      | none => ⟨0, 0, List.replicate 32 0, 0⟩
      | some l => go (clampI (l - (if e5 then 15 else 8) + 127) 0 254).toNat

/-- Four bytes to a lane, byte 0 lowest. -/
def packLane : List Nat → Half
  | a :: b :: c :: d :: _ => BitVec.ofNat 32 (a + 256 * b + 65536 * c + 16777216 * d)
  | _ => 0

/-- Eight lanes of four bytes each. -/
def packLanes : Nat → List Nat → List Half
  | 0, _ => []
  | k + 1, bs => packLane bs :: packLanes k (bs.drop 4)

/-- The sixteen lanes of a packed block (R161). -/
def Quant.lanes (q : Quant) : List Half :=
  packLanes 8 q.bytes ++ [BitVec.ofNat 32 (q.hi + 256 * q.lo)] ++ List.replicate 7 0

/-- Payload byte `i` of a packed block's lanes (R161). -/
def packedByte (ls : List Half) (i : Nat) : Nat := (ls.getD (i / 4) 0).toNat / 256 ^ (i % 4) % 256

/-- Scale bytes of a packed block: EH or SB, then EL (R161). -/
def packedHi (ls : List Half) : Nat := (ls.getD 8 0).toNat % 256
def packedLo (ls : List Half) : Nat := (ls.getD 8 0).toNat / 256 % 256

end Sys2Proof.Machine
end

