-- ==== Sys2Proof/Syntax.lean ====
section
/-! DEFINITION. The instructions and events of the machine: one constructor per row of the opcode table. -/

namespace Sys2Proof

/-- An immediate of the immediate layout: the slot word's own bits, or the owned X word (R78, R80). -/
inductive Imm (n : Nat) where
  | short (v : BitVec n)
  | ext (v : Half)
  deriving DecidableEq, Repr

/-- The instruction set. Slot words carry their encoded fields (guard `g`, then the fields of R77 as the
row uses them, then the X word they own). Events have no word: what one concerns stands in the state's event
operands when it happens. -/
inductive Instr where
  /-- R100: Adds two general registers under the arithmetic modifier. -/
  | add (g : BitVec 4) (d : BitVec 6) (a : BitVec 6) (b : BitVec 6) (m : BitVec 3)
  /-- R100: Subtracts two general registers under the arithmetic modifier. -/
  | sub (g : BitVec 4) (d : BitVec 6) (a : BitVec 6) (b : BitVec 6) (m : BitVec 3)
  /-- R100: Bitwise AND of two general registers. -/
  | and (g : BitVec 4) (d : BitVec 6) (a : BitVec 6) (b : BitVec 6)
  /-- R100: Bitwise OR of two general registers. -/
  | or (g : BitVec 4) (d : BitVec 6) (a : BitVec 6) (b : BitVec 6)
  /-- R100: Bitwise XOR of two general registers. -/
  | xor (g : BitVec 4) (d : BitVec 6) (a : BitVec 6) (b : BitVec 6)
  /-- R100: ga AND NOT gb. -/
  | andn (g : BitVec 4) (d : BitVec 6) (a : BitVec 6) (b : BitVec 6)
  /-- R100: Logical left shift by gb[5:0]. -/
  | shl (g : BitVec 4) (d : BitVec 6) (a : BitVec 6) (b : BitVec 6)
  /-- R100: Logical right shift by gb[5:0]. -/
  | shr (g : BitVec 4) (d : BitVec 6) (a : BitVec 6) (b : BitVec 6)
  /-- R100: Arithmetic right shift by gb[5:0]. -/
  | sar (g : BitVec 4) (d : BitVec 6) (a : BitVec 6) (b : BitVec 6)
  /-- R100: Rotate left by gb[5:0]. -/
  | rotl (g : BitVec 4) (d : BitVec 6) (a : BitVec 6) (b : BitVec 6)
  /-- R100: Signed minimum of two general registers. -/
  | min (g : BitVec 4) (d : BitVec 6) (a : BitVec 6) (b : BitVec 6)
  /-- R100: Signed maximum of two general registers. -/
  | max (g : BitVec 4) (d : BitVec 6) (a : BitVec 6) (b : BitVec 6)
  /-- R100: Unsigned minimum of two general registers. -/
  | minn (g : BitVec 4) (d : BitVec 6) (a : BitVec 6) (b : BitVec 6)
  /-- R100: Unsigned maximum of two general registers. -/
  | maxn (g : BitVec 4) (d : BitVec 6) (a : BitVec 6) (b : BitVec 6)
  /-- R100: Selects ga or gb by predicate p0–p7. -/
  | sel (g : BitVec 4) (d : BitVec 6) (a : BitVec 6) (b : BitVec 6) (p : BitVec 3)
  /-- R100: Counts the 1 bits of ga. -/
  | popc (g : BitVec 4) (d : BitVec 6) (a : BitVec 6)
  /-- R101: Adds an imm9 or X immediate to ga. -/
  | addi (g : BitVec 4) (d : BitVec 6) (a : BitVec 6) (i : Imm 9)
  /-- R101: ANDs ga with a sign-extended immediate. -/
  | andi (g : BitVec 4) (d : BitVec 6) (a : BitVec 6) (i : Imm 9)
  /-- R101: ORs ga with a sign-extended immediate. -/
  | ori (g : BitVec 4) (d : BitVec 6) (a : BitVec 6) (i : Imm 9)
  /-- R101: XORs ga with a sign-extended immediate. -/
  | xori (g : BitVec 4) (d : BitVec 6) (a : BitVec 6) (i : Imm 9)
  /-- R101: Logical left shift by an unsigned immediate 0–63. -/
  | shli (g : BitVec 4) (d : BitVec 6) (a : BitVec 6) (i : BitVec 9)
  /-- R101: Logical right shift by an immediate. -/
  | shri (g : BitVec 4) (d : BitVec 6) (a : BitVec 6) (i : BitVec 9)
  /-- R101: Arithmetic right shift by an immediate. -/
  | sari (g : BitVec 4) (d : BitVec 6) (a : BitVec 6) (i : BitVec 9)
  /-- R101: Rotate left by an immediate. -/
  | rotli (g : BitVec 4) (d : BitVec 6) (a : BitVec 6) (i : BitVec 9)
  /-- R102: Loads a sign-extended immediate into gd. -/
  | movi (g : BitVec 4) (d : BitVec 6) (i : Imm 9)
  /-- R102: Lands cat(X, ga[31:0]) in gd. -/
  | movhi (g : BitVec 4) (d : BitVec 6) (a : BitVec 6) (x : Half)
  /-- R102: Counts leading zeros of ga. -/
  | clz (g : BitVec 4) (d : BitVec 6) (a : BitVec 6)
  /-- R102: Counts trailing zeros of ga. -/
  | ctz (g : BitVec 4) (d : BitVec 6) (a : BitVec 6)
  /-- R103: Extracts a bit field of ga described by gb, optionally sign-extended. -/
  | bext (g : BitVec 4) (d : BitVec 6) (a : BitVec 6) (b : BitVec 6) (u : BitVec 1)
  /-- R103: Inserts ga into a bit field of gd described by gb. -/
  | bins (g : BitVec 4) (d : BitVec 6) (a : BitVec 6) (b : BitVec 6)
  /-- R102: Sign-extends ga from 8, 16 or 32 bits. -/
  | sxt (g : BitVec 4) (d : BitVec 6) (a : BitVec 6) (w : BitVec 3)
  /-- R102: Zero-extends ga from 8, 16 or 32 bits. -/
  | zxt (g : BitVec 4) (d : BitVec 6) (a : BitVec 6) (w : BitVec 3)
  /-- R104: Multiplies two general registers under the arithmetic modifier. -/
  | mul (g : BitVec 4) (d : BitVec 6) (a : BitVec 6) (b : BitVec 6) (m : BitVec 3)
  /-- R104: High half of the signed 128-bit product. -/
  | mulh (g : BitVec 4) (d : BitVec 6) (a : BitVec 6) (b : BitVec 6)
  /-- R104: High half of the unsigned 128-bit product. -/
  | mulhn (g : BitVec 4) (d : BitVec 6) (a : BitVec 6) (b : BitVec 6)
  /-- R104: Multiplies ga by an immediate. -/
  | muli (g : BitVec 4) (d : BitVec 6) (a : BitVec 6) (i : Imm 9)
  /-- R105: Signed quotient truncated toward zero, with fixed results for division by zero and overflow. -/
  | div (g : BitVec 4) (d : BitVec 6) (a : BitVec 6) (b : BitVec 6)
  /-- R105: Unsigned quotient. -/
  | divn (g : BitVec 4) (d : BitVec 6) (a : BitVec 6) (b : BitVec 6)
  /-- R105: Signed remainder. -/
  | rem (g : BitVec 4) (d : BitVec 6) (a : BitVec 6) (b : BitVec 6)
  /-- R105: Unsigned remainder. -/
  | remn (g : BitVec 4) (d : BitVec 6) (a : BitVec 6) (b : BitVec 6)
  /-- R106: Compares two general registers into a predicate under condition cc. -/
  | cmp (g : BitVec 4) (d : BitVec 6) (a : BitVec 6) (b : BitVec 6) (c : BitVec 3)
  /-- R107: Compares ga with an immediate into a predicate. -/
  | cmpi (g : BitVec 4) (c : BitVec 2) (p : BitVec 4) (a : BitVec 6) (i : Imm 9)
  /-- R108: pd ← pa and pb. -/
  | pand (g : BitVec 4) (d : BitVec 6) (a : BitVec 6) (b : BitVec 6)
  /-- R108: pd ← pa or pb. -/
  | por (g : BitVec 4) (d : BitVec 6) (a : BitVec 6) (b : BitVec 6)
  /-- R108: pd ← pa xor pb. -/
  | pxor (g : BitVec 4) (d : BitVec 6) (a : BitVec 6) (b : BitVec 6)
  /-- R108: pd ← pa and not pb. -/
  | pandn (g : BitVec 4) (d : BitVec 6) (a : BitVec 6) (b : BitVec 6)
  /-- R108: pd ← (ga ≠ 0). -/
  | pset (g : BitVec 4) (d : BitVec 6) (a : BitVec 6)
  /-- R108: Sets p1–p15 from the bits of ga. -/
  | psetAll (g : BitVec 4) (a : BitVec 6)
  /-- R108: gd ← 1 if pa else 0. -/
  | pget (g : BitVec 4) (d : BitVec 6) (a : BitVec 6)
  /-- R108: gd ← the whole predicate file. -/
  | pgetAll (g : BitVec 4) (d : BitVec 6)
  /-- R109: FP32 add, rounded once in the encoded mode. -/
  | fadd (g : BitVec 4) (d : BitVec 6) (a : BitVec 6) (b : BitVec 6) (r : BitVec 3)
  /-- R109: FP32 subtract. -/
  | fsub (g : BitVec 4) (d : BitVec 6) (a : BitVec 6) (b : BitVec 6) (r : BitVec 3)
  /-- R109: FP32 multiply. -/
  | fmul (g : BitVec 4) (d : BitVec 6) (a : BitVec 6) (b : BitVec 6) (r : BitVec 3)
  /-- R109: FP32 divide. -/
  | fdiv (g : BitVec 4) (d : BitVec 6) (a : BitVec 6) (b : BitVec 6) (r : BitVec 3)
  /-- R109: FP32 square root. -/
  | fsqrt (g : BitVec 4) (d : BitVec 6) (a : BitVec 6) (r : BitVec 3)
  /-- R109: FP32 fused multiply-add into gd. -/
  | fma (g : BitVec 4) (d : BitVec 6) (a : BitVec 6) (b : BitVec 6) (r : BitVec 3)
  /-- R109: FP32 minimum under R58. -/
  | fmin (g : BitVec 4) (d : BitVec 6) (a : BitVec 6) (b : BitVec 6)
  /-- R109: FP32 maximum under R58. -/
  | fmax (g : BitVec 4) (d : BitVec 6) (a : BitVec 6) (b : BitVec 6)
  /-- R110: FP32 compare into a predicate. -/
  | fcmp (g : BitVec 4) (d : BitVec 6) (a : BitVec 6) (b : BitVec 6) (c : BitVec 3)
  /-- R111: Converts FP32 to BF16 in the encoded mode. -/
  | fcvtBf16Fp32 (g : BitVec 4) (d : BitVec 6) (a : BitVec 6) (r : BitVec 3)
  /-- R111: Widens BF16 to FP32 exactly. -/
  | fcvtFp32Bf16 (g : BitVec 4) (d : BitVec 6) (a : BitVec 6)
  /-- R109: BF16 add. -/
  | faddBf16 (g : BitVec 4) (d : BitVec 6) (a : BitVec 6) (b : BitVec 6) (r : BitVec 3)
  /-- R109: BF16 subtract. -/
  | fsubBf16 (g : BitVec 4) (d : BitVec 6) (a : BitVec 6) (b : BitVec 6) (r : BitVec 3)
  /-- R109: BF16 multiply. -/
  | fmulBf16 (g : BitVec 4) (d : BitVec 6) (a : BitVec 6) (b : BitVec 6) (r : BitVec 3)
  /-- R109: BF16 divide. -/
  | fdivBf16 (g : BitVec 4) (d : BitVec 6) (a : BitVec 6) (b : BitVec 6) (r : BitVec 3)
  /-- R109: BF16 square root. -/
  | fsqrtBf16 (g : BitVec 4) (d : BitVec 6) (a : BitVec 6) (r : BitVec 3)
  /-- R109: BF16 fused multiply-add. -/
  | fmaBf16 (g : BitVec 4) (d : BitVec 6) (a : BitVec 6) (b : BitVec 6) (r : BitVec 3)
  /-- R109: BF16 minimum. -/
  | fminBf16 (g : BitVec 4) (d : BitVec 6) (a : BitVec 6) (b : BitVec 6)
  /-- R109: BF16 maximum. -/
  | fmaxBf16 (g : BitVec 4) (d : BitVec 6) (a : BitVec 6) (b : BitVec 6)
  /-- R110: BF16 compare into a predicate. -/
  | fcmpBf16 (g : BitVec 4) (d : BitVec 6) (a : BitVec 6) (b : BitVec 6) (c : BitVec 3)
  /-- R112: Branches PC-relative when the guard is true, with two delay bundles. -/
  | br (g : BitVec 4) (i : Imm 9)
  /-- R112: PC-relative branch that lands a link in gd. -/
  | brl (g : BitVec 4) (d : BitVec 6) (i : Imm 9)
  /-- R112: Branches to ga[15:0]. -/
  | brx (g : BitVec 4) (a : BitVec 6)
  /-- R112: Branches to ga[15:0] and lands a link in gd. -/
  | brlx (g : BitVec 4) (d : BitVec 6) (a : BitVec 6)
  /-- R114: Starts a zero-overhead loop with count and end offset from the X word. -/
  | loop (g : BitVec 4) (r : BitVec 1) (x : Half)
  /-- R114: Starts a zero-overhead loop counted by ga. -/
  | loopg (g : BitVec 4) (r : BitVec 1) (a : BitVec 6) (i : Imm 9)
  /-- R42: Idles until HCYC = N, or raises a timetable slip if N is already past. -/
  | pin (g : BitVec 4) (i : Imm 9)
  /-- R43: Ends the hoist, waiting for every result and store issued before it. -/
  | rdv (g : BitVec 4)
  /-- R117: Ends the slice after the rendezvous wait. -/
  | rdvfin (g : BitVec 4)
  /-- R117: Ends the hoist and acquires the completion of the triggering predecessor. -/
  | predwait (g : BitVec 4)
  /-- R118: Saves the running context in its bank and switches to the other resident context. -/
  | swapctx (g : BitVec 4)
  /-- R120: Reads a special register into gd. -/
  | mfs (g : BitVec 4) (d : BitVec 6) (u : BitVec 6)
  /-- R120: Writes ga to a special register. -/
  | mts (g : BitVec 4) (u : BitVec 6) (a : BitVec 6)
  /-- R120: Writes an immediate to a special register. -/
  | mtsi (g : BitVec 4) (u : BitVec 6) (i : Imm 9)
  /-- R111: Converts FP32 or BF16 to an integer format under R56. -/
  | ficvt (g : BitVec 4) (d : BitVec 6) (a : BitVec 6) (f : BitVec 1) (i : BitVec 3) (r : BitVec 3)
  /-- R111: Converts an integer format to FP32 or BF16 under R57. -/
  | ifcvt (g : BitVec 4) (d : BitVec 6) (a : BitVec 6) (f : BitVec 1) (i : BitVec 3) (r : BitVec 3)
  /-- R122: Releases the tile's performed writes and counts toward making the successor dispatchable. -/
  | trig (g : BitVec 4)
  /-- R123: Lands TCODE and TBEAT and freezes the gang for the command processor. -/
  | trap (g : BitVec 4) (i : BitVec 9)
  /-- R124: Folds ga into BURG at issue + 1. -/
  | sburg (g : BitVec 4) (a : BitVec 6)
  /-- R357: Rendezvous form that also waits until counter kN reaches an immediate n. -/
  | waitk (g : BitVec 4) (k : BitVec 4) (i : BitVec 9)
  /-- R357: Rendezvous form that waits until counter kN reaches ga[15:0]. -/
  | waitkReg (g : BitVec 4) (k : BitVec 4) (a : BitVec 6)
  /-- R125: Lands gen_next(0) in gd and advances DCNT. -/
  | draw (g : BitVec 4) (d : BitVec 6)
  /-- R154: 32-bit lane add. -/
  | vadd (g : BitVec 4) (d : BitVec 6) (a : BitVec 6) (b : BitVec 6) (m : BitVec 3)
  /-- R154: 32-bit lane subtract. -/
  | vsub (g : BitVec 4) (d : BitVec 6) (a : BitVec 6) (b : BitVec 6) (m : BitVec 3)
  /-- R154: 32-bit lane multiply, low half. -/
  | vmul (g : BitVec 4) (d : BitVec 6) (a : BitVec 6) (b : BitVec 6) (m : BitVec 3)
  /-- R154: Signed lane multiply, high half. -/
  | vmulh (g : BitVec 4) (d : BitVec 6) (a : BitVec 6) (b : BitVec 6) (m : BitVec 3)
  /-- R154: Unsigned lane multiply, high half. -/
  | vmulhn (g : BitVec 4) (d : BitVec 6) (a : BitVec 6) (b : BitVec 6) (m : BitVec 3)
  /-- R154: Signed lane minimum. -/
  | vmin (g : BitVec 4) (d : BitVec 6) (a : BitVec 6) (b : BitVec 6) (m : BitVec 3)
  /-- R154: Signed lane maximum. -/
  | vmax (g : BitVec 4) (d : BitVec 6) (a : BitVec 6) (b : BitVec 6) (m : BitVec 3)
  /-- R154: Unsigned lane minimum. -/
  | vminn (g : BitVec 4) (d : BitVec 6) (a : BitVec 6) (b : BitVec 6) (m : BitVec 3)
  /-- R154: Unsigned lane maximum. -/
  | vmaxn (g : BitVec 4) (d : BitVec 6) (a : BitVec 6) (b : BitVec 6) (m : BitVec 3)
  /-- R154: Lane AND. -/
  | vand (g : BitVec 4) (d : BitVec 6) (a : BitVec 6) (b : BitVec 6) (m : BitVec 3)
  /-- R154: Lane OR. -/
  | vor (g : BitVec 4) (d : BitVec 6) (a : BitVec 6) (b : BitVec 6) (m : BitVec 3)
  /-- R154: Lane XOR. -/
  | vxor (g : BitVec 4) (d : BitVec 6) (a : BitVec 6) (b : BitVec 6) (m : BitVec 3)
  /-- R154: Lane AND NOT. -/
  | vandn (g : BitVec 4) (d : BitVec 6) (a : BitVec 6) (b : BitVec 6) (m : BitVec 3)
  /-- R154: Lane logical left shift. -/
  | vshl (g : BitVec 4) (d : BitVec 6) (a : BitVec 6) (b : BitVec 6) (m : BitVec 3)
  /-- R154: Lane logical right shift. -/
  | vshr (g : BitVec 4) (d : BitVec 6) (a : BitVec 6) (b : BitVec 6) (m : BitVec 3)
  /-- R154: Lane arithmetic right shift. -/
  | vsar (g : BitVec 4) (d : BitVec 6) (a : BitVec 6) (b : BitVec 6) (m : BitVec 3)
  /-- R155: Saturating signed lane add. -/
  | vadds (g : BitVec 4) (d : BitVec 6) (a : BitVec 6) (b : BitVec 6) (m : BitVec 3)
  /-- R155: Saturating unsigned lane add. -/
  | vaddsn (g : BitVec 4) (d : BitVec 6) (a : BitVec 6) (b : BitVec 6) (m : BitVec 3)
  /-- R155: Saturating signed lane subtract. -/
  | vsubs (g : BitVec 4) (d : BitVec 6) (a : BitVec 6) (b : BitVec 6) (m : BitVec 3)
  /-- R155: Saturating unsigned lane subtract. -/
  | vsubsn (g : BitVec 4) (d : BitVec 6) (a : BitVec 6) (b : BitVec 6) (m : BitVec 3)
  /-- R155: Paired 16-bit wrapping add. -/
  | vadd16 (g : BitVec 4) (d : BitVec 6) (a : BitVec 6) (b : BitVec 6) (m : BitVec 3)
  /-- R155: Paired 16-bit wrapping subtract. -/
  | vsub16 (g : BitVec 4) (d : BitVec 6) (a : BitVec 6) (b : BitVec 6) (m : BitVec 3)
  /-- R155: Paired 16-bit saturating add. -/
  | vadds16 (g : BitVec 4) (d : BitVec 6) (a : BitVec 6) (b : BitVec 6) (m : BitVec 3)
  /-- R155: Paired 16-bit saturating subtract. -/
  | vsubs16 (g : BitVec 4) (d : BitVec 6) (a : BitVec 6) (b : BitVec 6) (m : BitVec 3)
  /-- R155: Two-element INT16 dot product into INT32. -/
  | vmul16 (g : BitVec 4) (d : BitVec 6) (a : BitVec 6) (b : BitVec 6) (m : BitVec 3)
  /-- R156: Lane absolute value of kind K. -/
  | vabs (g : BitVec 4) (d : BitVec 6) (a : BitVec 6) (k : BitVec 6) (m : BitVec 3)
  /-- R156: Lane negation of kind K. -/
  | vneg (g : BitVec 4) (d : BitVec 6) (a : BitVec 6) (k : BitVec 6) (m : BitVec 3)
  /-- R156: Selects va or vb in every lane by a mask. -/
  | vsel (g : BitVec 4) (d : BitVec 6) (a : BitVec 6) (b : BitVec 6) (m : BitVec 3)
  /-- R156: Copies va into active lanes. -/
  | vmov (g : BitVec 4) (d : BitVec 6) (a : BitVec 6) (m : BitVec 3)
  /-- R156: Broadcasts ga[31:0] into active lanes. -/
  | vmovScalar (g : BitVec 4) (d : BitVec 6) (a : BitVec 6) (m : BitVec 3)
  /-- R156: Moves an immediate into active lanes. -/
  | vmovi (g : BitVec 4) (d : BitVec 6) (i : Imm 12) (m : BitVec 3)
  /-- R156: Lane left shift by an immediate. -/
  | vshli (g : BitVec 4) (d : BitVec 6) (a : BitVec 6) (n : BitVec 5) (m : BitVec 3)
  /-- R156: Lane arithmetic right shift by an immediate. -/
  | vsari (g : BitVec 4) (d : BitVec 6) (a : BitVec 6) (n : BitVec 5) (m : BitVec 3)
  /-- R157: Lane equality compare into a mask. -/
  | vcmpeq (g : BitVec 4) (d : BitVec 3) (a : BitVec 6) (b : BitVec 6) (m : BitVec 3)
  /-- R157: Lane inequality compare into a mask. -/
  | vcmpne (g : BitVec 4) (d : BitVec 3) (a : BitVec 6) (b : BitVec 6) (m : BitVec 3)
  /-- R157: Signed less-than compare into a mask. -/
  | vcmplt (g : BitVec 4) (d : BitVec 3) (a : BitVec 6) (b : BitVec 6) (m : BitVec 3)
  /-- R157: Signed less-or-equal compare into a mask. -/
  | vcmple (g : BitVec 4) (d : BitVec 3) (a : BitVec 6) (b : BitVec 6) (m : BitVec 3)
  /-- R157: Unsigned less-than compare into a mask. -/
  | vcmpltn (g : BitVec 4) (d : BitVec 3) (a : BitVec 6) (b : BitVec 6) (m : BitVec 3)
  /-- R157: Unsigned less-or-equal compare into a mask. -/
  | vcmplen (g : BitVec 4) (d : BitVec 3) (a : BitVec 6) (b : BitVec 6) (m : BitVec 3)
  /-- R157: Floating-point equality compare into a mask. -/
  | vfcmpeq (g : BitVec 4) (f : BitVec 1) (d : BitVec 3) (a : BitVec 6) (b : BitVec 6) (m : BitVec 3)
  /-- R157: Floating-point less-than compare into a mask. -/
  | vfcmplt (g : BitVec 4) (f : BitVec 1) (d : BitVec 3) (a : BitVec 6) (b : BitVec 6) (m : BitVec 3)
  /-- R157: Floating-point less-or-equal compare into a mask. -/
  | vfcmple (g : BitVec 4) (f : BitVec 1) (d : BitVec 3) (a : BitVec 6) (b : BitVec 6) (m : BitVec 3)
  /-- R158: Mask AND. -/
  | mand (g : BitVec 4) (d : BitVec 6) (a : BitVec 6) (b : BitVec 6)
  /-- R158: Mask OR. -/
  | mor (g : BitVec 4) (d : BitVec 6) (a : BitVec 6) (b : BitVec 6)
  /-- R158: Mask XOR. -/
  | mxor (g : BitVec 4) (d : BitVec 6) (a : BitVec 6) (b : BitVec 6)
  /-- R158: Mask AND NOT. -/
  | mandn (g : BitVec 4) (d : BitVec 6) (a : BitVec 6) (b : BitVec 6)
  /-- R158: Counts set bits of a mask under the lane mask into gd. -/
  | mpop (g : BitVec 4) (d : BitVec 6) (a : BitVec 6) (m : BitVec 3)
  /-- R158: Sets a mask from ga and gb. -/
  | mset (g : BitVec 4) (d : BitVec 6) (a : BitVec 6) (b : BitVec 6)
  /-- R158: Sets mask bits in the range [ga, gb). -/
  | msetRange (g : BitVec 4) (d : BitVec 6) (a : BitVec 6) (b : BitVec 6)
  /-- R158: Sets a mask from a repeated 32-bit X pattern. -/
  | msetPat (g : BitVec 4) (d : BitVec 6) (x : Half)
  /-- R172: Folds up to 64 lane-pair words into BURG at issue + 6. -/
  | vburg (g : BitVec 4) (a : BitVec 6) (m : BitVec 3)
  /-- R159: FP32 lane add. -/
  | vfadd (g : BitVec 4) (d : BitVec 6) (a : BitVec 6) (b : BitVec 6) (m : BitVec 3)
  /-- R159: FP32 lane subtract. -/
  | vfsub (g : BitVec 4) (d : BitVec 6) (a : BitVec 6) (b : BitVec 6) (m : BitVec 3)
  /-- R159: FP32 lane multiply. -/
  | vfmul (g : BitVec 4) (d : BitVec 6) (a : BitVec 6) (b : BitVec 6) (m : BitVec 3)
  /-- R159: FP32 lane fused multiply-add into vd. -/
  | vfma (g : BitVec 4) (d : BitVec 6) (a : BitVec 6) (b : BitVec 6) (m : BitVec 3)
  /-- R159: FP32 lane minimum. -/
  | vfmin (g : BitVec 4) (d : BitVec 6) (a : BitVec 6) (b : BitVec 6) (m : BitVec 3)
  /-- R159: FP32 lane maximum. -/
  | vfmax (g : BitVec 4) (d : BitVec 6) (a : BitVec 6) (b : BitVec 6) (m : BitVec 3)
  /-- R159: BF16 lane add. -/
  | vbadd (g : BitVec 4) (d : BitVec 6) (a : BitVec 6) (b : BitVec 6) (m : BitVec 3)
  /-- R159: BF16 lane subtract. -/
  | vbsub (g : BitVec 4) (d : BitVec 6) (a : BitVec 6) (b : BitVec 6) (m : BitVec 3)
  /-- R159: BF16 lane multiply. -/
  | vbmul (g : BitVec 4) (d : BitVec 6) (a : BitVec 6) (b : BitVec 6) (m : BitVec 3)
  /-- R159: BF16 lane fused multiply-add. -/
  | vbfma (g : BitVec 4) (d : BitVec 6) (a : BitVec 6) (b : BitVec 6) (m : BitVec 3)
  /-- R159: BF16 lane fused multiply-add with stochastic rounding, drawing once. -/
  | vbfmaRs (g : BitVec 4) (d : BitVec 6) (a : BitVec 6) (b : BitVec 6) (m : BitVec 3)
  /-- R160: Lane conversion of the encoded kind and rounding mode. -/
  | vcvt (g : BitVec 4) (d : BitVec 6) (a : BitVec 6) (k : BitVec 3) (r : BitVec 3) (m : BitVec 3)
  /-- R162: Quantises a register pair to one DXB8 block per cluster. -/
  | vqdxb (g : BitVec 4) (d : BitVec 6) (a : BitVec 6) (f : BitVec 1) (z : BitVec 5) (m : BitVec 3)
  /-- R163: Dequantises half of each cluster's DXB8 block. -/
  | vdqdxb (g : BitVec 4) (d : BitVec 6) (a : BitVec 6) (f : BitVec 1) (h : BitVec 1) (m : BitVec 3)
  /-- R162: Quantises a register pair to one MXFP8 block per cluster. -/
  | vqmx (g : BitVec 4) (d : BitVec 6) (a : BitVec 6) (f : BitVec 1) (t : BitVec 1) (m : BitVec 3)
  /-- R163: Dequantises half of each cluster's MXFP8 block. -/
  | vdqmx (g : BitVec 4) (d : BitVec 6) (a : BitVec 6) (t : BitVec 1) (f : BitVec 1) (h : BitVec 1) (m : BitVec 3)
  /-- R164: Correctly rounded e^x per lane. -/
  | vexp (g : BitVec 4) (d : BitVec 6) (a : BitVec 6) (f : BitVec 1) (m : BitVec 3)
  /-- R164: Correctly rounded ln x per lane. -/
  | vlog (g : BitVec 4) (d : BitVec 6) (a : BitVec 6) (f : BitVec 1) (m : BitVec 3)
  /-- R164: Correctly rounded reciprocal per lane. -/
  | vrcp (g : BitVec 4) (d : BitVec 6) (a : BitVec 6) (f : BitVec 1) (m : BitVec 3)
  /-- R164: Correctly rounded reciprocal square root per lane. -/
  | vrsqrt (g : BitVec 4) (d : BitVec 6) (a : BitVec 6) (f : BitVec 1) (m : BitVec 3)
  /-- R164: Correctly rounded square root per lane. -/
  | vsqrt (g : BitVec 4) (d : BitVec 6) (a : BitVec 6) (f : BitVec 1) (m : BitVec 3)
  /-- R164: Correctly rounded tanh per lane. -/
  | vtanh (g : BitVec 4) (d : BitVec 6) (a : BitVec 6) (f : BitVec 1) (m : BitVec 3)
  /-- R164: Correctly rounded logistic sigmoid per lane. -/
  | vsigm (g : BitVec 4) (d : BitVec 6) (a : BitVec 6) (f : BitVec 1) (m : BitVec 3)
  /-- R164: Correctly rounded sine per lane. -/
  | vsin (g : BitVec 4) (d : BitVec 6) (a : BitVec 6) (f : BitVec 1) (m : BitVec 3)
  /-- R164: Correctly rounded cosine per lane. -/
  | vcos (g : BitVec 4) (d : BitVec 6) (a : BitVec 6) (f : BitVec 1) (m : BitVec 3)
  /-- R164: FP32 lane divide. -/
  | vfdiv (g : BitVec 4) (d : BitVec 6) (a : BitVec 6) (b : BitVec 6) (m : BitVec 3)
  /-- R307: Turns lane values and a scale into signed BF16 pulse probabilities. -/
  | xpprob (g : BitVec 4) (d : BitVec 6) (a : BitVec 6) (b : BitVec 6) (m : BitVec 3)
  /-- R169: Shifts lanes up by k clusters. -/
  | vxshl (g : BitVec 4) (d : BitVec 6) (a : BitVec 6) (k : BitVec 3) (m : BitVec 3)
  /-- R169: Shifts lanes down by k clusters. -/
  | vxshr (g : BitVec 4) (d : BitVec 6) (a : BitVec 6) (k : BitVec 3) (m : BitVec 3)
  /-- R169: Rotates lanes by k clusters. -/
  | vxrotl (g : BitVec 4) (d : BitVec 6) (a : BitVec 6) (k : BitVec 3) (m : BitVec 3)
  /-- R169: Rotates lanes by k clusters the other way. -/
  | vxrotr (g : BitVec 4) (d : BitVec 6) (a : BitVec 6) (k : BitVec 3) (m : BitVec 3)
  /-- R169: Broadcasts one cluster to all clusters. -/
  | vxbcast (g : BitVec 4) (d : BitVec 6) (a : BitVec 6) (c : BitVec 3) (m : BitVec 3)
  /-- R170: Fixed-tree floating-point sum of active lanes into gd. -/
  | vredsum (g : BitVec 4) (d : BitVec 6) (a : BitVec 6) (f : BitVec 1) (m : BitVec 3)
  /-- R170: Minimum of active lanes into gd. -/
  | vredmin (g : BitVec 4) (d : BitVec 6) (a : BitVec 6) (t : BitVec 2) (m : BitVec 3)
  /-- R170: Maximum of active lanes into gd. -/
  | vredmax (g : BitVec 4) (d : BitVec 6) (a : BitVec 6) (t : BitVec 2) (m : BitVec 3)
  /-- R170: Exact integer sum of active lanes into gd. -/
  | vredsumi (g : BitVec 4) (d : BitVec 6) (a : BitVec 6) (t : BitVec 1) (m : BitVec 3)
  /-- R171: Integer prefix sum across 128 lanes. -/
  | vscan (g : BitVec 4) (d : BitVec 6) (a : BitVec 6) (n : BitVec 1) (u : BitVec 1) (e : BitVec 1) (m : BitVec 3)
  /-- R166: In-cluster permute by index vector. -/
  | vperm (g : BitVec 4) (d : BitVec 6) (a : BitVec 6) (b : BitVec 6) (m : BitVec 3)
  /-- R166: In-cluster slide up by k lanes. -/
  | vslideup (g : BitVec 4) (d : BitVec 6) (a : BitVec 6) (k : BitVec 4) (m : BitVec 3)
  /-- R166: In-cluster slide down by k lanes. -/
  | vslidedn (g : BitVec 4) (d : BitVec 6) (a : BitVec 6) (k : BitVec 4) (m : BitVec 3)
  /-- R167: Packs active lanes of each cluster to the bottom. -/
  | vcompress (g : BitVec 4) (d : BitVec 6) (a : BitVec 6) (m : BitVec 3)
  /-- R167: Spreads source lanes over active destination lanes. -/
  | vexpand (g : BitVec 4) (d : BitVec 6) (a : BitVec 6) (m : BitVec 3)
  /-- R168: Packs the lanes of va whose values occur in vb, per cluster. -/
  | visect (g : BitVec 4) (d : BitVec 6) (a : BitVec 6) (b : BitVec 6) (m : BitVec 3)
  /-- R180: BF16 32×32×32 multiply-accumulate from q0 and q1 into zN. -/
  | mma (g : BitVec 4) (z : BitVec 3)
  /-- R180: BF16 multiply-accumulate with zero-skip. -/
  | mmaZs (g : BitVec 4) (z : BitVec 3)
  /-- R180: DXB8 multiply-accumulate, K = 64. -/
  | mmad (g : BitVec 4) (z : BitVec 3)
  /-- R180: DXB8 multiply-accumulate with zero-skip. -/
  | mmadZs (g : BitVec 4) (z : BitVec 3)
  /-- R180: MXFP8 multiply-accumulate with independent A and B types. -/
  | mmx (g : BitVec 4) (b : BitVec 1) (a : BitVec 1) (z : BitVec 3)
  /-- R180: MXFP8 multiply-accumulate with zero-skip. -/
  | mmxZs (g : BitVec 4) (b : BitVec 1) (a : BitVec 1) (z : BitVec 3)
  /-- R182: Clears all elements of zN at issue + 40. -/
  | zclr (g : BitVec 4) (z : BitVec 3)
  /-- R183: Loads an accumulator from the scratchpad. -/
  | zld (g : BitVec 4) (a : BitVec 6) (f : BitVec 1) (z : BitVec 3)
  /-- R183: Stores an accumulator as FP32 to the scratchpad. -/
  | zst (g : BitVec 4) (a : BitVec 6) (z : BitVec 3)
  /-- R183: Stores an accumulator rounded to BF16. -/
  | zstb (g : BitVec 4) (a : BitVec 6) (r : BitVec 3) (z : BitVec 3)
  /-- R184: Claims and discards n positions, or all reserved positions, of a stream FIFO. -/
  | qdrop (g : BitVec 4) (a : BitVec 6) (i : BitVec 9)
  /-- R306: Forward analog read of an array pair's window. -/
  | xfwd (g : BitVec 4) (d : BitVec 6) (a : BitVec 6) (k : BitVec 1) (f : BitVec 1) (p : BitVec 3)
  /-- R306: Transposed analog read of an array pair's window. -/
  | xbwd (g : BitVec 4) (d : BitVec 6) (a : BitVec 6) (k : BitVec 1) (f : BitVec 1) (p : BitVec 3)
  /-- R308: Rank-one pulse update of the fast array over the window. -/
  | xupd (g : BitVec 4) (l : BitVec 6) (a : BitVec 6) (k : BitVec 1) (p : BitVec 3)
  /-- R310: Transfers a line of the fast array into the slow array. -/
  | xxfer (g : BitVec 4) (l : BitVec 6) (a : BitVec 6) (k : BitVec 1) (u : BitVec 1) (w : BitVec 1) (p : BitVec 3)
  /-- R311: Writes a pair's AWIN from ga. -/
  | xwin (g : BitVec 4) (a : BitVec 6) (k : BitVec 1) (p : BitVec 3)
  /-- R311: Writes a pair's AWIN from d[3:0] and the X word. -/
  | xwinX (g : BitVec 4) (w : BitVec 4) (k : BitVec 1) (p : BitVec 3) (x : Half)
  /-- R312: Writes a pair's AGAIN. -/
  | xgain (g : BitVec 4) (a : BitVec 6) (k : BitVec 1) (p : BitVec 3)
  /-- R313: Sets a pair's XSEED and zeroes STEP. -/
  | xseed (g : BitVec 4) (a : BitVec 6) (k : BitVec 1) (p : BitVec 3)
  /-- R309: Symmetry reset train over the window of F. -/
  | xrst (g : BitVec 4) (l : BitVec 6) (k : BitVec 1) (p : BitVec 3)
  /-- R314: Reads a parameter record half, PSTATE and STEP, or XSEED into gd. -/
  | xstat (g : BitVec 4) (d : BitVec 6) (k : BitVec 1) (u : BitVec 3) (p : BitVec 3)
  /-- R221: Scratchpad scalar load. -/
  | ld (g : BitVec 4) (d : BitVec 6) (a : BitVec 6) (b : BitVec 6) (u : BitVec 3) (x : Option Half)
  /-- R221: Scratchpad scalar store. -/
  | st (g : BitVec 4) (d : BitVec 6) (a : BitVec 6) (b : BitVec 6) (u : BitVec 3) (x : Option Half)
  /-- R221: Loads a whole vector register from the scratchpad. -/
  | vld (g : BitVec 4) (d : BitVec 6) (a : BitVec 6) (b : BitVec 6) (x : Option Half)
  /-- R221: Loads 64 bytes and broadcasts them to every cluster. -/
  | vldBc (g : BitVec 4) (d : BitVec 6) (a : BitVec 6) (b : BitVec 6) (x : Option Half)
  /-- R221: Stores a whole vector register to the scratchpad. -/
  | vst (g : BitVec 4) (d : BitVec 6) (a : BitVec 6) (b : BitVec 6) (x : Option Half)
  /-- R222: Loads one packed block per cluster from payload and scale planes. -/
  | vldb (g : BitVec 4) (d : BitVec 6) (a : BitVec 6) (b : BitVec 6) (t : BitVec 1) (x : Option Half)
  /-- R222: Stores one packed block per cluster to payload and scale planes. -/
  | vstb (g : BitVec 4) (d : BitVec 6) (a : BitVec 6) (b : BitVec 6) (t : BitVec 1) (x : Option Half)
  /-- R224: Gathers 16 pool words into one cluster. -/
  | gath (g : BitVec 4) (d : BitVec 6) (a : BitVec 6) (b : BitVec 6) (c : BitVec 3)
  /-- R224: Scatters one cluster's lanes to 16 pool words. -/
  | scat (g : BitVec 4) (d : BitVec 6) (a : BitVec 6) (b : BitVec 6) (c : BitVec 3)
  /-- R237: Holds the tile until its own timetabled traffic has come to rest. -/
  | drain (g : BitVec 4)
  /-- R227: Sends one flit to a tile on the same die. -/
  | msend (g : BitVec 4) (d : BitVec 6) (a : BitVec 6) (b : BitVec 6)
  /-- R227: Multicasts one flit to a rectangle of tiles on the die. -/
  | mcast (g : BitVec 4) (d : BitVec 6) (a : BitVec 6) (b : BitVec 6)
  /-- R227: Sends one flit to a tile on another die in a granted ring slot. -/
  | dsend (g : BitVec 4) (d : BitVec 6) (a : BitVec 6) (b : BitVec 6)
  /-- R225: Fills a stream FIFO with plain entries from the pool. -/
  | qld (g : BitVec 4) (n : BitVec 5) (q : BitVec 1) (a : BitVec 6) (x : Option Half)
  /-- R225: Fills a stream FIFO with DXB8 block entries. -/
  | qldDxb8 (g : BitVec 4) (n : BitVec 5) (q : BitVec 1) (a : BitVec 6) (b : BitVec 6) (x : Option Half)
  /-- R225: Fills a stream FIFO with MXFP8 block entries. -/
  | qldMx8 (g : BitVec 4) (n : BitVec 5) (q : BitVec 1) (a : BitVec 6) (b : BitVec 6) (x : Option Half)
  /-- R231: Timetabled HBM read of n lines into the pool. -/
  | hrd (g : BitVec 4) (d : BitVec 6) (a : BitVec 6) (b : BitVec 6) (x : Option Half)
  /-- R231: Timetabled HBM read of n lines into a stream FIFO. -/
  | hrdQ (g : BitVec 4) (q : BitVec 1) (a : BitVec 6) (b : BitVec 6) (x : Option Half)
  /-- R232: Gather-on-fill HBM read into the pool by an index list. -/
  | hrdg (g : BitVec 4) (d : BitVec 6) (a : BitVec 6) (b : BitVec 6)
  /-- R232: Gather-on-fill HBM read into a stream FIFO. -/
  | hrdgQ (g : BitVec 4) (q : BitVec 1) (a : BitVec 6) (b : BitVec 6)
  /-- R233: Lands a transposed 32 × 32 tile of HBM lines into a stream FIFO. -/
  | hrdt (g : BitVec 4) (q : BitVec 1) (a : BitVec 6) (b : BitVec 6)
  /-- R234: Timetabled HBM write of n lines from the pool. -/
  | hwr (g : BitVec 4) (d : BitVec 6) (a : BitVec 6) (b : BitVec 6) (x : Option Half)
  /-- R236: Reloads a code frame from a timetabled extent. -/
  | cfill (g : BitVec 4) (f : BitVec 4) (a : BitVec 6) (b : BitVec 6)
  /-- R359: Asynchronous linear, gather or transpose copy, with optional chained CRC-32C. -/
  | acpy (g : BitVec 4) (t : BitVec 6) (a : BitVec 6) (e : BitVec 1) (k : BitVec 4)
  /-- R362: Asynchronous atomic at the word's home. -/
  | aatom (g : BitVec 4) (t : BitVec 6) (a : BitVec 6) (e : BitVec 1) (k : BitVec 4)
  /-- R363: Contributes to a registered reduction window. -/
  | ared (g : BitVec 4) (t : BitVec 6) (a : BitVec 6) (e : BitVec 1) (k : BitVec 4)
  /-- R368: Moves or regenerates one page's placement while it stays in use. -/
  | arestripe (g : BitVec 4) (t : BitVec 6) (a : BitVec 6) (e : BitVec 1) (k : BitVec 4)
  /-- R418: Window registration or a synchronising collective on a replica group. -/
  | acoll (g : BitVec 4) (t : BitVec 6) (a : BitVec 6) (e : BitVec 1) (k : BitVec 4)
  /-- R424: Multicasts a range to every other member of a group and increments each receiver's flag. -/
  | amcast (g : BitVec 4) (t : BitVec 6) (a : BitVec 6) (e : BitVec 1) (k : BitVec 4)
  /-- R319: Array-engine checkpoint read of a window to an open extent. -/
  | xckpt (g : BitVec 4) (t : BitVec 6) (a : BitVec 6) (e : BitVec 1) (k : BitVec 4)
  /-- R320: Array-engine program-and-verify of target weights into a window. -/
  | xprog (g : BitVec 4) (t : BitVec 6) (a : BitVec 6) (e : BitVec 1) (k : BitVec 4)
  /-- R321: Measures a pair's ADC calibration tables. -/
  | xcal (g : BitVec 4) (t : BitVec 6) (a : BitVec 6) (e : BitVec 1) (k : BitVec 4)
  /-- R321: Measures a pair's symmetry points and step parameters. -/
  | xsym (g : BitVec 4) (t : BitVec 6) (a : BitVec 6) (e : BitVec 1) (k : BitVec 4)
  /-- R365: Initialises a barrier object. -/
  | barinit (g : BitVec 4) (t : BitVec 6) (a : BitVec 6) (e : BitVec 1) (k : BitVec 4)
  /-- R365: Arrives at a barrier for phase p. -/
  | bararv (g : BitVec 4) (t : BitVec 6) (a : BitVec 6) (e : BitVec 1) (k : BitVec 4)
  /-- R365: Waits for a barrier to leave phase p. -/
  | barwait (g : BitVec 4) (t : BitVec 6) (a : BitVec 6) (e : BitVec 1) (k : BitVec 4)
  /-- R366: Scoped fence whose completion binds a token and counts. -/
  | fence (g : BitVec 4) (t : BitVec 6) (u : BitVec 3) (e : BitVec 1) (k : BitVec 4)
  /-- R83: The sequencer fetches the bundle at the program counter, skips padding, runs the decoding checks and issues the bundle's slots together in one cycle. -/
  | bundleFetch
  /-- R73: Template 0x80 issues as an empty bundle that idles n + 1 cycles and occupies n + 2 cycles. -/
  | emptyBundle
  /-- R140: The module halyard advances by one beat every cycle and every tile's copy changes in the same cycle. -/
  | halyardBeat
  /-- R30: A result issued at cycle c with latency L lands in its register at c + L, with its FSTAT flags and BURG folds. -/
  | resultLand
  /-- R54: DCNT advances by the draws of one bundle at issue + 1 cycle, unless a seed write resets it in that cycle. -/
  | drawCounterAdvance
  /-- R220: A scratchpad store, scatter or block store writes its chunks at its fixed perform cycles after issue. -/
  | storePerform
  /-- R35: After the two delay bundles of a taken branch the target bundle issues and loop entries whose bodies it leaves are popped. -/
  | branchTakenRedirect
  /-- R39: After the end bundle of the innermost loop, the count is decremented and the body restarts, or the entry is popped. -/
  | loopIterationStep
  /-- R149: When every member's rendezvous wait has ended, plus gather and withheld beats and frame alignment, the next hoist begins at HCYC 0. -/
  | hoistEntry
  /-- R118: 300 beats after a swapctx wait ends, the other bank's context starts or resumes on the tile. -/
  | contextSwitchStart
  /-- R141: A mesh flit passes the destination's ejection port and lands its four chunks at c + 3 + h. -/
  | meshFlitDelivery
  /-- R145: A cross-die flit crosses its boundary slots and lands at its destination at c + 64. -/
  | crossDieDelivery
  /-- R409: A ring flit or line that fails the link CRC is retried, each retry delaying it by 12 cycles. -/
  | ucieFlitRetry
  /-- R230: A timetabled HBM line is commanded at its command cycle k_l and occupies its bank for 48 cycles. -/
  | hbmLineCommand
  /-- R207: A timetabled read line lands at its destination 192 or 256 cycles after its command cycle. -/
  | hbmLineLand
  /-- R234: A timetabled write line performs in HBM at its command cycle plus 96. -/
  | hbmLinePerform
  /-- R177: A reserved stream-FIFO position lands its payload and tag at its landing cycle. -/
  | fifoPositionLand
  /-- R236: A filled code frame becomes valid again when its last line lands. -/
  | codeFrameFillComplete
  /-- R180: An MMA reads its accumulator at issue + 39 and lands the tree-summed result at issue + 40. -/
  | mmaAccumulatorLand
  /-- R278: An array read's ADC codes are scaled and its output groups are written to the pool, whole from c + 64. -/
  | arrayReadResult
  /-- R283: In each slot of an update, reset or transfer train, firing rows and columns step their coincident cells. -/
  | arrayPulseSlot
  /-- R286: After its one-hot read, a transfer computes probabilities, thresholds and signs from the read values. -/
  | transferDigitalPhase
  /-- R283: When an update, reset or transfer train ends, the pair's STEP increments and the pair is free. -/
  | trainComplete
  /-- R248: An engine command begins its accesses once all its consumed tokens' producers have completed. -/
  | engineCommandStart
  /-- R318: An array-engine command starts on its pair when tokens, pair state, earlier commands and the power plan allow, and holds the pair. -/
  | arrayEngineStart
  /-- R350: A command whose accesses have performed writes its record, completes its token and counts into its counter. -/
  | engineCommandCompletion
  /-- R416: When every rank has contributed to a window line, the root switch merges it in rank order and writes it to the home. -/
  | reductionEpochClose
  /-- R421: The plane-0 root switch compares an instance's digests and sends each member its verdict. -/
  | burgeeVerdict
  /-- R418: When a group's TMO passes without every contribution, each member completes PEER_TIMEOUT and the instance closes. -/
  | peerTimeout
  /-- R369: 65,536 beats after install the old home stops forwarding and refuses accesses with PLACEMENT_STALE. -/
  | staleForwardingExpiry
  /-- R412: A 256-byte Pennant-link flit is received, checked by LCRC and retried if bad. -/
  | fabricFlitReceive
  /-- R427: A host read or write through BAR4 accesses the mapped control-space location. -/
  | hostBar4Access
  /-- R265: A host AtomicOp to device memory executes at the word's near home on SYSA pages or is refused. -/
  | hostAtomicop
  /-- R330: A host write of a submission count to a queue's doorbell accepts a batch or overruns. -/
  | doorbellWrite
  /-- R335: A resident queue places its next submitted entries into the dispatch engine's candidate set and checks each descriptor. -/
  | candidateAdmission
  /-- R336: Every 64 beats the dispatch engines order ready slices and place each at the first fitting position. -/
  | dispatchDecision
  /-- R200: System software reports a parked slice's pages resolved and the slice returns to the ready set. -/
  | pagesResolved
  /-- R337: At beat B0 a placed slice's members start with their launch state. -/
  | sliceDispatch
  /-- R261: When every member's rdvfin wait and every engine command have ended, the slice releases its writes and completes. -/
  | sliceCompletion
  /-- R342: Submits the node's descriptor as a successor and waits for its completion or refusal. -/
  | graphKernelNode
  /-- R342: Reads the predicate word with an acquire and branches. -/
  | graphCondNode
  /-- R342: Counts an iteration and enters the body, or resets ITER and leaves. -/
  | graphLoopNode
  /-- R342: Reads the predicate word on entry and waits until it matches. -/
  | graphWaitNode
  /-- R342: Every 1,024 beats the WAIT node reads again and times out after COUNT reads. -/
  | graphWaitPoll
  /-- R342: Writes VALUE with a release and optionally sends an interrupt. -/
  | graphSignalNode
  /-- R342: A graph making 2^24 node steps without a KERNEL ends with GRAPH_INVALID. -/
  | graphStepLimit
  /-- R345: A dispatch-engine lockstep mismatch freezes dispatch, parks the die's queues and restarts the firmware. -/
  | cpLockstepMismatch
  /-- R345: After the command-processor restart the die's queues become resident again and deferred completions are recorded. -/
  | cpRestartComplete
  /-- R331: A queue becomes resident and entries accepted while parked enter in ring order. -/
  | queueUnpark
  /-- R199: The command processor invalidates translation caches by ASID and address range. -/
  | translationInvalidate
  /-- R402: A sequencer shadow mismatch is detected two cycles after issue and SEQ_LOCKSTEP is taken. -/
  | seqLockstepMismatch
  /-- R388: After outstanding items and commands complete plus 40 beats, the tiles restore the hoist-entry snapshot and replay. -/
  | rewind
  /-- R392: After a slice fault, engine commands complete, context frames and records are written and the slice completes FAILED. -/
  | sliceFailureCompletion
  /-- R393: The dispatcher requests pre-emption of a gang, reaching members after the gather beats. -/
  | preemptRequest
  /-- R393: The gang freezes at the first safe point after the request. -/
  | preemptFreeze
  /-- R299: When no safe point comes within the watchdog period, analog operations are reset and the gang freezes. -/
  | safePointWatchdogExpiry
  /-- R395: The frozen context's frame has been written and its bank is free. -/
  | contextSaveComplete
  /-- R397: A saved slice's frame is written back and the gang restarts. -/
  | contextRestore
  /-- R391: A frozen gang resumes at its saved PC and HCYC with held items on their relative cycles. -/
  | gangRestart
  /-- R401: A thermal trip freezes every gang at its next safe point. -/
  | thermalTrip
  /-- R438: When TMAX falls 10 °C below TTRIP, TRIP clears and frozen gangs restart. -/
  | thermalTripClear
  /-- R300: Firmware sets a pair to thermal hold when no running slice can be affected. -/
  | pairThermalHold
  /-- R292: Firmware retires a pair whose measured record leaves its bounds. -/
  | pairRetire
  /-- R213: Firmware begins an HBM geometry change by marking units draining. -/
  | geometryDrainBegin
  /-- R438: Writing ACK ends the drain and installs the change, or ends regeneration. -/
  | geoctlAck
  /-- R438: Writes the power limit, effective at the next rendezvous whose W is not set. -/
  | pwrlimWrite
  /-- R438: Writes the safe-point watchdog period for later pre-emption requests. -/
  | wdogWrite
  /-- R438: Writes the interval between calibration slices. -/
  | calperWrite
  /-- R426: A host write to a BAR0 register with no behaviour of its own, such as HOSTWIN or APBASE. -/
  | registerWrite
  /-- R441: Every SECS seconds firmware submits a calibration slice to each die. -/
  | calibrationTimer
  /-- R440: Module reset clears tile state and runs the boot sequence up to setting HSTAT[0]. -/
  | moduleReset
  /-- R442: SPDM request for supported versions. -/
  | getVersion
  /-- R442: SPDM request for capabilities. -/
  | getCapabilities
  /-- R442: SPDM request that settles on ML-DSA-65 and SHAKE256. -/
  | negotiateAlgorithms
  /-- R442: SPDM request for certificate chain digests. -/
  | getDigests
  /-- R442: SPDM request for the device identity certificate. -/
  | getCertificate
  /-- R442: SPDM challenge answered with a response signed over the nonce. -/
  | challenge
  /-- R442: SPDM request for the signed measurement blocks. -/
  | getMeasurements
  /-- R443: PLDM Type 0 base discovery over the side-band port. -/
  | pldmBaseDiscovery
  /-- R443: PLDM Type 2 sensor read of temperatures, voltage and current. -/
  | pldmPlatformMonitoring
  /-- R443: PLDM Type 5 stages and verifies a firmware image for activation at the next reset. -/
  | pldmFirmwareUpdate
  /-- R443: Returns fault records by sequence without changing HEAD. -/
  | readFaults
  /-- R443: Returns the geometry record in force with its signature and draining units. -/
  | readGeometry
  /-- R443: Reads or writes the housekeeping registers over the side-band port. -/
  | regAccess
  /-- R443: Restarts one die's command processors. -/
  | resetDie
  /-- R443: Resets the module; running slices are lost without records. -/
  | resetModule
  /-- R123: While a gang is frozen by trap, the command processor reads the context and writes TARG. -/
  | targWrite
  /-- R439: Loss of the 48 V supply, including during a geometry-record write, which then leaves the previous copy in force. -/
  | powerLoss
  /-- R410: Firmware brings up the fabric, assigns the module its FNUM and sets HSTAT fabric up. -/
  | fabricUp
  deriving DecidableEq, Repr

end Sys2Proof
end

