-- ==== Sys2Proof/WellFormed.lean ====
section
/-! DEFINITION. Which operand values an instruction admits (R79, R83 checks 10; the instruction chapters). -/

namespace Sys2Proof

/-- The special-register indices R121 assigns. -/
def sregAssigned (n : Nat) : Bool := n ≤ 0x0E || (0x10 ≤ n && n ≤ 0x13)

/-- The end offset of `loopg`: imm9 1-511, or X[15:0] 1-65,535 with X[31:16] zero (R114). -/
def loopEndOk : Imm 9 → Bool
  | .short v => v != 0
  | .ext v => v.extractLsb' 16 16 == 0 && v.extractLsb' 0 16 != 0

/-- The rounding codes each `vcvt` kind allows (R160). -/
def vcvtModeOk (kind mode : Nat) : Bool :=
  match kind with
  | 0 => mode ≤ 4
  | 1 => mode == 0
  | 6 => mode ≤ 4
  | _ => mode ≤ 3

/-- Operand values inside their ranges, with `acc` the accumulator count of PART (R79). Events carry no encoding
and are always admitted. -/
def Instr.wellFormed (acc : Nat) : Instr → Bool
  | .add _ d a b m => d.toNat < 32 && a.toNat < 32 && b.toNat < 32 && m != 7
  | .sub _ d a b m => d.toNat < 32 && a.toNat < 32 && b.toNat < 32 && m != 7
  | .and _ d a b => d.toNat < 32 && a.toNat < 32 && b.toNat < 32
  | .or _ d a b => d.toNat < 32 && a.toNat < 32 && b.toNat < 32
  | .xor _ d a b => d.toNat < 32 && a.toNat < 32 && b.toNat < 32
  | .andn _ d a b => d.toNat < 32 && a.toNat < 32 && b.toNat < 32
  | .shl _ d a b => d.toNat < 32 && a.toNat < 32 && b.toNat < 32
  | .shr _ d a b => d.toNat < 32 && a.toNat < 32 && b.toNat < 32
  | .sar _ d a b => d.toNat < 32 && a.toNat < 32 && b.toNat < 32
  | .rotl _ d a b => d.toNat < 32 && a.toNat < 32 && b.toNat < 32
  | .min _ d a b => d.toNat < 32 && a.toNat < 32 && b.toNat < 32
  | .max _ d a b => d.toNat < 32 && a.toNat < 32 && b.toNat < 32
  | .minn _ d a b => d.toNat < 32 && a.toNat < 32 && b.toNat < 32
  | .maxn _ d a b => d.toNat < 32 && a.toNat < 32 && b.toNat < 32
  | .sel _ d a b _ => d.toNat < 32 && a.toNat < 32 && b.toNat < 32
  | .popc _ d a => d.toNat < 32 && a.toNat < 32
  | .addi _ d a _ => d.toNat < 32 && a.toNat < 32
  | .andi _ d a _ => d.toNat < 32 && a.toNat < 32
  | .ori _ d a _ => d.toNat < 32 && a.toNat < 32
  | .xori _ d a _ => d.toNat < 32 && a.toNat < 32
  | .shli _ d a i => d.toNat < 32 && a.toNat < 32 && i.toNat ≤ 63
  | .shri _ d a i => d.toNat < 32 && a.toNat < 32 && i.toNat ≤ 63
  | .sari _ d a i => d.toNat < 32 && a.toNat < 32 && i.toNat ≤ 63
  | .rotli _ d a i => d.toNat < 32 && a.toNat < 32 && i.toNat ≤ 63
  | .movi _ d _ => d.toNat < 32
  | .movhi _ d a _ => d.toNat < 32 && a.toNat < 32
  | .clz _ d a => d.toNat < 32 && a.toNat < 32
  | .ctz _ d a => d.toNat < 32 && a.toNat < 32
  | .bext _ d a b _ => d.toNat < 32 && a.toNat < 32 && b.toNat < 32
  | .bins _ d a b => d.toNat < 32 && a.toNat < 32 && b.toNat < 32
  | .sxt _ d a w => d.toNat < 32 && a.toNat < 32 && w.toNat ≤ 2
  | .zxt _ d a w => d.toNat < 32 && a.toNat < 32 && w.toNat ≤ 2
  | .mul _ d a b m => d.toNat < 32 && a.toNat < 32 && b.toNat < 32 && m != 7
  | .mulh _ d a b => d.toNat < 32 && a.toNat < 32 && b.toNat < 32
  | .mulhn _ d a b => d.toNat < 32 && a.toNat < 32 && b.toNat < 32
  | .muli _ d a _ => d.toNat < 32 && a.toNat < 32
  | .div _ d a b => d.toNat < 32 && a.toNat < 32 && b.toNat < 32
  | .divn _ d a b => d.toNat < 32 && a.toNat < 32 && b.toNat < 32
  | .rem _ d a b => d.toNat < 32 && a.toNat < 32 && b.toNat < 32
  | .remn _ d a b => d.toNat < 32 && a.toNat < 32 && b.toNat < 32
  | .cmp _ d a b _ => d.toNat < 16 && a.toNat < 32 && b.toNat < 32
  | .cmpi _ _ _ a _ => a.toNat < 32
  | .pand _ d a b => d.toNat < 16 && a.toNat < 16 && b.toNat < 16
  | .por _ d a b => d.toNat < 16 && a.toNat < 16 && b.toNat < 16
  | .pxor _ d a b => d.toNat < 16 && a.toNat < 16 && b.toNat < 16
  | .pandn _ d a b => d.toNat < 16 && a.toNat < 16 && b.toNat < 16
  | .pset _ d a => d.toNat < 16 && a.toNat < 32
  | .psetAll _ a => a.toNat < 32
  | .pget _ d a => d.toNat < 32 && a.toNat < 16
  | .pgetAll _ d => d.toNat < 32
  | .fadd _ d a b r => d.toNat < 32 && a.toNat < 32 && b.toNat < 32 && r.toNat ≤ 3
  | .fsub _ d a b r => d.toNat < 32 && a.toNat < 32 && b.toNat < 32 && r.toNat ≤ 3
  | .fmul _ d a b r => d.toNat < 32 && a.toNat < 32 && b.toNat < 32 && r.toNat ≤ 3
  | .fdiv _ d a b r => d.toNat < 32 && a.toNat < 32 && b.toNat < 32 && r.toNat ≤ 3
  | .fsqrt _ d a r => d.toNat < 32 && a.toNat < 32 && r.toNat ≤ 3
  | .fma _ d a b r => d.toNat < 32 && a.toNat < 32 && b.toNat < 32 && r.toNat ≤ 3
  | .fmin _ d a b => d.toNat < 32 && a.toNat < 32 && b.toNat < 32
  | .fmax _ d a b => d.toNat < 32 && a.toNat < 32 && b.toNat < 32
  | .fcmp _ d a b _ => d.toNat < 16 && a.toNat < 32 && b.toNat < 32
  | .fcvtBf16Fp32 _ d a r => d.toNat < 32 && a.toNat < 32 && r.toNat ≤ 4
  | .fcvtFp32Bf16 _ d a => d.toNat < 32 && a.toNat < 32
  | .faddBf16 _ d a b r => d.toNat < 32 && a.toNat < 32 && b.toNat < 32 && r.toNat ≤ 4
  | .fsubBf16 _ d a b r => d.toNat < 32 && a.toNat < 32 && b.toNat < 32 && r.toNat ≤ 4
  | .fmulBf16 _ d a b r => d.toNat < 32 && a.toNat < 32 && b.toNat < 32 && r.toNat ≤ 4
  | .fdivBf16 _ d a b r => d.toNat < 32 && a.toNat < 32 && b.toNat < 32 && r.toNat ≤ 4
  | .fsqrtBf16 _ d a r => d.toNat < 32 && a.toNat < 32 && r.toNat ≤ 4
  | .fmaBf16 _ d a b r => d.toNat < 32 && a.toNat < 32 && b.toNat < 32 && r.toNat ≤ 4
  | .fminBf16 _ d a b => d.toNat < 32 && a.toNat < 32 && b.toNat < 32
  | .fmaxBf16 _ d a b => d.toNat < 32 && a.toNat < 32 && b.toNat < 32
  | .fcmpBf16 _ d a b _ => d.toNat < 16 && a.toNat < 32 && b.toNat < 32
  | .br _ _ => true
  | .brl _ d _ => d.toNat < 32
  | .brx _ a => a.toNat < 32
  | .brlx _ d a => d.toNat < 32 && a.toNat < 32
  | .loop _ _ x => x.extractLsb' 16 16 != 0
  | .loopg _ _ a i => a.toNat < 32 && loopEndOk i
  | .pin _ _ => true
  | .rdv _ => true
  | .rdvfin _ => true
  | .predwait _ => true
  | .swapctx _ => true
  | .mfs _ d u => d.toNat < 32 && sregAssigned u.toNat
  | .mts _ u a => a.toNat < 32 && sregAssigned u.toNat
  | .mtsi _ u _ => sregAssigned u.toNat
  | .ficvt _ d a _ _ r => d.toNat < 32 && a.toNat < 32 && r.toNat ≤ 3
  | .ifcvt _ d a f _ r => d.toNat < 32 && a.toNat < 32 && (r.toNat ≤ 3 || (r == 4 && f == 1))
  | .trig _ => true
  | .trap _ _ => true
  | .sburg _ a => a.toNat < 32
  | .waitk _ _ _ => true
  | .waitkReg _ _ a => a.toNat < 32
  | .draw _ d => d.toNat < 32
  | .vadd _ _ _ _ _ => true
  | .vsub _ _ _ _ _ => true
  | .vmul _ _ _ _ _ => true
  | .vmulh _ _ _ _ _ => true
  | .vmulhn _ _ _ _ _ => true
  | .vmin _ _ _ _ _ => true
  | .vmax _ _ _ _ _ => true
  | .vminn _ _ _ _ _ => true
  | .vmaxn _ _ _ _ _ => true
  | .vand _ _ _ _ _ => true
  | .vor _ _ _ _ _ => true
  | .vxor _ _ _ _ _ => true
  | .vandn _ _ _ _ _ => true
  | .vshl _ _ _ _ _ => true
  | .vshr _ _ _ _ _ => true
  | .vsar _ _ _ _ _ => true
  | .vadds _ _ _ _ _ => true
  | .vaddsn _ _ _ _ _ => true
  | .vsubs _ _ _ _ _ => true
  | .vsubsn _ _ _ _ _ => true
  | .vadd16 _ _ _ _ _ => true
  | .vsub16 _ _ _ _ _ => true
  | .vadds16 _ _ _ _ _ => true
  | .vsubs16 _ _ _ _ _ => true
  | .vmul16 _ _ _ _ _ => true
  | .vabs _ _ _ k _ => k.toNat ≤ 3
  | .vneg _ _ _ k _ => k.toNat ≤ 3
  | .vsel _ _ _ _ _ => true
  | .vmov _ _ _ _ => true
  | .vmovScalar _ _ a _ => a.toNat < 32
  | .vmovi _ _ _ _ => true
  | .vshli _ _ _ _ _ => true
  | .vsari _ _ _ _ _ => true
  | .vcmpeq _ _ _ _ _ => true
  | .vcmpne _ _ _ _ _ => true
  | .vcmplt _ _ _ _ _ => true
  | .vcmple _ _ _ _ _ => true
  | .vcmpltn _ _ _ _ _ => true
  | .vcmplen _ _ _ _ _ => true
  | .vfcmpeq _ _ _ _ _ _ => true
  | .vfcmplt _ _ _ _ _ _ => true
  | .vfcmple _ _ _ _ _ _ => true
  | .mand _ d a b => d.toNat < 8 && a.toNat < 8 && b.toNat < 8
  | .mor _ d a b => d.toNat < 8 && a.toNat < 8 && b.toNat < 8
  | .mxor _ d a b => d.toNat < 8 && a.toNat < 8 && b.toNat < 8
  | .mandn _ d a b => d.toNat < 8 && a.toNat < 8 && b.toNat < 8
  | .mpop _ d a _ => d.toNat < 32 && a.toNat < 8
  | .mset _ d a b => d.toNat < 8 && a.toNat < 32 && b.toNat < 32
  | .msetRange _ d a b => d.toNat < 8 && a.toNat < 32 && b.toNat < 32
  | .msetPat _ d _ => d.toNat < 8
  | .vburg _ _ _ => true
  | .vfadd _ _ _ _ _ => true
  | .vfsub _ _ _ _ _ => true
  | .vfmul _ _ _ _ _ => true
  | .vfma _ _ _ _ _ => true
  | .vfmin _ _ _ _ _ => true
  | .vfmax _ _ _ _ _ => true
  | .vbadd _ _ _ _ _ => true
  | .vbsub _ _ _ _ _ => true
  | .vbmul _ _ _ _ _ => true
  | .vbfma _ _ _ _ _ => true
  | .vbfmaRs _ _ _ _ _ => true
  | .vcvt _ _ _ k r _ => vcvtModeOk k.toNat r.toNat
  | .vqdxb _ _ a _ _ _ => a.toNat % 2 == 0
  | .vdqdxb _ _ _ _ _ _ => true
  | .vqmx _ _ a _ _ _ => a.toNat % 2 == 0
  | .vdqmx _ _ _ _ _ _ _ => true
  | .vexp _ _ _ _ _ => true
  | .vlog _ _ _ _ _ => true
  | .vrcp _ _ _ _ _ => true
  | .vrsqrt _ _ _ _ _ => true
  | .vsqrt _ _ _ _ _ => true
  | .vtanh _ _ _ _ _ => true
  | .vsigm _ _ _ _ _ => true
  | .vsin _ _ _ _ _ => true
  | .vcos _ _ _ _ _ => true
  | .vfdiv _ _ _ _ _ => true
  | .xpprob _ _ _ b _ => b.toNat < 32
  | .vxshl _ _ _ _ _ => true
  | .vxshr _ _ _ _ _ => true
  | .vxrotl _ _ _ _ _ => true
  | .vxrotr _ _ _ _ _ => true
  | .vxbcast _ _ _ _ _ => true
  | .vredsum _ d _ _ _ => d.toNat < 32
  | .vredmin _ d _ _ _ => d.toNat < 32
  | .vredmax _ d _ _ _ => d.toNat < 32
  | .vredsumi _ d _ _ _ => d.toNat < 32
  | .vscan _ _ _ _ _ _ _ => true
  | .vperm _ _ _ _ _ => true
  | .vslideup _ _ _ _ _ => true
  | .vslidedn _ _ _ _ _ => true
  | .vcompress _ _ _ _ => true
  | .vexpand _ _ _ _ => true
  | .visect _ _ _ _ _ => true
  | .mma _ z => z.toNat < acc
  | .mmaZs _ z => z.toNat < acc
  | .mmad _ z => z.toNat < acc
  | .mmadZs _ z => z.toNat < acc
  | .mmx _ _ _ z => z.toNat < acc
  | .mmxZs _ _ _ z => z.toNat < acc
  | .zclr _ z => z.toNat < acc
  | .zld _ a _ z => a.toNat < 32 && z.toNat < acc
  | .zst _ a z => a.toNat < 32 && z.toNat < acc
  | .zstb _ a r z => a.toNat < 32 && z.toNat < acc && r.toNat ≤ 4
  | .qdrop _ a i => a.toNat ≤ 1 && i.toNat ≤ 64
  | .xfwd _ d a _ _ _ => d.toNat < 32 && a.toNat < 32
  | .xbwd _ d a _ _ _ => d.toNat < 32 && a.toNat < 32
  | .xupd _ l a _ _ => a.toNat < 32 && l != 0
  | .xxfer _ l a _ _ _ _ => a.toNat < 32 && l != 0
  | .xwin _ a _ _ => a.toNat < 32
  | .xwinX _ _ _ _ _ => true
  | .xgain _ a _ _ => a.toNat < 32
  | .xseed _ a _ _ => a.toNat < 32
  | .xrst _ l _ _ => l != 0
  | .xstat _ d _ u _ => d.toNat < 32 && u.toNat ≤ 5
  | .ld _ d a b u _ => d.toNat < 32 && a.toNat < 32 && b.toNat < 32 && u != 7
  | .st _ d a b u _ => d.toNat < 32 && a.toNat < 32 && b.toNat < 32 && u.toNat ≤ 3
  | .vld _ _ a b _ => a.toNat < 32 && b.toNat < 32
  | .vldBc _ _ a b _ => a.toNat < 32 && b.toNat < 32
  | .vst _ _ a b _ => a.toNat < 32 && b.toNat < 32
  | .vldb _ _ a b _ _ => a.toNat < 32 && b.toNat < 32
  | .vstb _ _ a b _ _ => a.toNat < 32 && b.toNat < 32
  | .gath _ _ _ b _ => b.toNat < 32
  | .scat _ _ _ b _ => b.toNat < 32
  | .drain _ => true
  | .msend _ d a b => d.toNat < 32 && a.toNat < 32 && b.toNat < 32
  | .mcast _ d a b => d.toNat < 32 && a.toNat < 32 && b.toNat < 32
  | .dsend _ d a b => d.toNat < 32 && a.toNat < 32 && b.toNat < 32
  | .qld _ _ _ a _ => a.toNat < 32
  | .qldDxb8 _ _ _ a b _ => a.toNat < 32 && b.toNat < 32
  | .qldMx8 _ _ _ a b _ => a.toNat < 32 && b.toNat < 32
  | .hrd _ d a b _ => d.toNat < 32 && a.toNat < 32 && b.toNat < 32
  | .hrdQ _ _ a b _ => a.toNat < 32 && b.toNat < 32
  | .hrdg _ d a b => d.toNat < 32 && a.toNat < 32 && b.toNat < 32
  | .hrdgQ _ _ a b => a.toNat < 32 && b.toNat < 32
  | .hrdt _ _ a b => a.toNat < 32 && b.toNat < 32
  | .hwr _ d a b _ => d.toNat < 32 && a.toNat < 32 && b.toNat < 32
  | .cfill _ _ a b => a.toNat < 32 && b.toNat < 32
  | .acpy _ _ a e k => a.toNat < 32 && (e == 1 || k == 0)
  | .aatom _ _ a e k => a.toNat < 32 && (e == 1 || k == 0)
  | .ared _ _ a e k => a.toNat < 32 && (e == 1 || k == 0)
  | .arestripe _ _ a e k => a.toNat < 32 && (e == 1 || k == 0)
  | .acoll _ _ a e k => a.toNat < 32 && (e == 1 || k == 0)
  | .amcast _ _ a e k => a.toNat < 32 && (e == 1 || k == 0)
  | .xckpt _ _ a e k => a.toNat < 32 && (e == 1 || k == 0)
  | .xprog _ _ a e k => a.toNat < 32 && (e == 1 || k == 0)
  | .xcal _ _ a e k => a.toNat < 32 && (e == 1 || k == 0)
  | .xsym _ _ a e k => a.toNat < 32 && (e == 1 || k == 0)
  | .barinit _ _ a e k => a.toNat < 32 && (e == 1 || k == 0)
  | .bararv _ _ a e k => a.toNat < 32 && (e == 1 || k == 0)
  | .barwait _ _ a e k => a.toNat < 32 && (e == 1 || k == 0)
  | .fence _ _ u e k => u.toNat ≤ 4 && (e == 1 || k == 0)
  | .bundleFetch => true
  | .emptyBundle => true
  | .halyardBeat => true
  | .resultLand => true
  | .drawCounterAdvance => true
  | .storePerform => true
  | .branchTakenRedirect => true
  | .loopIterationStep => true
  | .hoistEntry => true
  | .contextSwitchStart => true
  | .meshFlitDelivery => true
  | .crossDieDelivery => true
  | .ucieFlitRetry => true
  | .hbmLineCommand => true
  | .hbmLineLand => true
  | .hbmLinePerform => true
  | .fifoPositionLand => true
  | .codeFrameFillComplete => true
  | .mmaAccumulatorLand => true
  | .arrayReadResult => true
  | .arrayPulseSlot => true
  | .transferDigitalPhase => true
  | .trainComplete => true
  | .engineCommandStart => true
  | .arrayEngineStart => true
  | .engineCommandCompletion => true
  | .reductionEpochClose => true
  | .burgeeVerdict => true
  | .peerTimeout => true
  | .staleForwardingExpiry => true
  | .fabricFlitReceive => true
  | .hostBar4Access => true
  | .hostAtomicop => true
  | .doorbellWrite => true
  | .candidateAdmission => true
  | .dispatchDecision => true
  | .pagesResolved => true
  | .sliceDispatch => true
  | .sliceCompletion => true
  | .graphKernelNode => true
  | .graphCondNode => true
  | .graphLoopNode => true
  | .graphWaitNode => true
  | .graphWaitPoll => true
  | .graphSignalNode => true
  | .graphStepLimit => true
  | .cpLockstepMismatch => true
  | .cpRestartComplete => true
  | .queueUnpark => true
  | .translationInvalidate => true
  | .seqLockstepMismatch => true
  | .rewind => true
  | .sliceFailureCompletion => true
  | .preemptRequest => true
  | .preemptFreeze => true
  | .safePointWatchdogExpiry => true
  | .contextSaveComplete => true
  | .contextRestore => true
  | .gangRestart => true
  | .thermalTrip => true
  | .thermalTripClear => true
  | .pairThermalHold => true
  | .pairRetire => true
  | .geometryDrainBegin => true
  | .geoctlAck => true
  | .pwrlimWrite => true
  | .wdogWrite => true
  | .calperWrite => true
  | .registerWrite => true
  | .calibrationTimer => true
  | .moduleReset => true
  | .getVersion => true
  | .getCapabilities => true
  | .negotiateAlgorithms => true
  | .getDigests => true
  | .getCertificate => true
  | .challenge => true
  | .getMeasurements => true
  | .pldmBaseDiscovery => true
  | .pldmPlatformMonitoring => true
  | .pldmFirmwareUpdate => true
  | .readFaults => true
  | .readGeometry => true
  | .regAccess => true
  | .resetDie => true
  | .resetModule => true
  | .targWrite => true
  | .powerLoss => true
  | .fabricUp => true

end Sys2Proof
end

