-- ==== Sys2Proof/Decode.lean ====
section
/-! DEFINITION. Decoding slot words and bundles, and the encoder written from the same tables (spec 04 R71-R84). -/

namespace Sys2Proof

/-- The four slot classes, each with its own opcode map (R84). -/
inductive SlotClass | S | V | M | C
  deriving DecidableEq, Repr

/-- The class of each of the six slots S, V0, V1, M, C0, C1 (R72). -/
def slotClass (slot : Nat) : SlotClass :=
  match slot with
  | 0 => .S | 1 => .V | 2 => .V | 3 => .M | _ => .C

/-- Checks 9 and 10 of R83: a wholly unused field that is non-zero, then a value outside its range. -/
def finish (acc : Nat) (unused reserved : Bool) (i : Instr) : Except Nat Instr :=
  if unused then .error 0x0A
  else if reserved || !(i.wellFormed acc) then .error 0x0B
  else .ok i

/-- The S map of R84: the instruction of a word with its owned X word, or the detail code of the first failed
check among 6 and 8 to 10 of R83. -/
def decodeS (acc : Nat) (w : Half) (x : Option Half) : Except Nat Instr :=
  let g := w.extractLsb' 21 4
  let d := w.extractLsb' 15 6
  let a := w.extractLsb' 9 6
  let b := w.extractLsb' 3 6
  let m := w.extractLsb' 0 3
  let i := w.extractLsb' 0 9
  match (w.extractLsb' 25 7).toNat with
  | 0x00 => finish acc (false) (false) (.add g d a b m)
  | 0x01 => finish acc (false) (false) (.sub g d a b m)
  | 0x02 => finish acc (m != 0) (false) (.and g d a b)
  | 0x03 => finish acc (m != 0) (false) (.or g d a b)
  | 0x04 => finish acc (m != 0) (false) (.xor g d a b)
  | 0x05 => finish acc (m != 0) (false) (.andn g d a b)
  | 0x06 => finish acc (m != 0) (false) (.shl g d a b)
  | 0x07 => finish acc (m != 0) (false) (.shr g d a b)
  | 0x08 => finish acc (m != 0) (false) (.sar g d a b)
  | 0x09 => finish acc (m != 0) (false) (.rotl g d a b)
  | 0x0A => finish acc (m != 0) (false) (.min g d a b)
  | 0x0B => finish acc (m != 0) (false) (.max g d a b)
  | 0x0C => finish acc (m != 0) (false) (.minn g d a b)
  | 0x0D => finish acc (m != 0) (false) (.maxn g d a b)
  | 0x0E => finish acc (false) (false) (.sel g d a b m)
  | 0x0F => finish acc (b != 0 || m != 0) (false) (.popc g d a)
  | 0x10 => match x with
    | none => finish acc (false) (false) (.addi g d a (.short i))
    | some v => finish acc (i != 0) (false) (.addi g d a (.ext v))
  | 0x11 => match x with
    | none => finish acc (false) (false) (.andi g d a (.short i))
    | some v => finish acc (i != 0) (false) (.andi g d a (.ext v))
  | 0x12 => match x with
    | none => finish acc (false) (false) (.ori g d a (.short i))
    | some v => finish acc (i != 0) (false) (.ori g d a (.ext v))
  | 0x13 => match x with
    | none => finish acc (false) (false) (.xori g d a (.short i))
    | some v => finish acc (i != 0) (false) (.xori g d a (.ext v))
  | 0x14 => finish acc (false) (false) (.shli g d a i)
  | 0x15 => finish acc (false) (false) (.shri g d a i)
  | 0x16 => finish acc (false) (false) (.sari g d a i)
  | 0x17 => finish acc (false) (false) (.rotli g d a i)
  | 0x18 => match x with
    | none => finish acc (a != 0) (false) (.movi g d (.short i))
    | some v => finish acc (a != 0 || i != 0) (false) (.movi g d (.ext v))
  | 0x19 => match x with
    | none => .error 0x0C
    | some v => finish acc (b != 0 || m != 0) (false) (.movhi g d a v)
  | 0x1A => finish acc (b != 0 || m != 0) (false) (.clz g d a)
  | 0x1B => finish acc (b != 0 || m != 0) (false) (.ctz g d a)
  | 0x1C => finish acc (false) (m.extractLsb' 1 2 != 0) (.bext g d a b (m.extractLsb' 0 1))
  | 0x1D => finish acc (m != 0) (false) (.bins g d a b)
  | 0x1E => finish acc (b != 0) (false) (.sxt g d a m)
  | 0x1F => finish acc (b != 0) (false) (.zxt g d a m)
  | 0x20 => finish acc (false) (false) (.mul g d a b m)
  | 0x21 => finish acc (m != 0) (false) (.mulh g d a b)
  | 0x22 => finish acc (m != 0) (false) (.mulhn g d a b)
  | 0x23 => match x with
    | none => finish acc (false) (false) (.muli g d a (.short i))
    | some v => finish acc (i != 0) (false) (.muli g d a (.ext v))
  | 0x24 => finish acc (m != 0) (false) (.div g d a b)
  | 0x25 => finish acc (m != 0) (false) (.divn g d a b)
  | 0x26 => finish acc (m != 0) (false) (.rem g d a b)
  | 0x27 => finish acc (m != 0) (false) (.remn g d a b)
  | 0x28 => finish acc (false) (false) (.cmp g d a b m)
  | 0x29 => match x with
    | none => finish acc (false) (false) (.cmpi g (d.extractLsb' 4 2) (d.extractLsb' 0 4) a (.short i))
    | some v => finish acc (i != 0) (false) (.cmpi g (d.extractLsb' 4 2) (d.extractLsb' 0 4) a (.ext v))
  | 0x30 => finish acc (m != 0) (false) (.pand g d a b)
  | 0x31 => finish acc (m != 0) (false) (.por g d a b)
  | 0x32 => finish acc (m != 0) (false) (.pxor g d a b)
  | 0x33 => finish acc (m != 0) (false) (.pandn g d a b)
  | 0x34 => match m.toNat with
    | 0 => finish acc (b != 0) (false) (.pset g d a)
    | 1 => finish acc (d != 0 || b != 0) (false) (.psetAll g a)
    | _ => .error (if b != 0 then 0x0A else 0x0B)
  | 0x35 => match m.toNat with
    | 0 => finish acc (b != 0) (false) (.pget g d a)
    | 1 => finish acc (a != 0 || b != 0) (false) (.pgetAll g d)
    | _ => .error (if b != 0 then 0x0A else 0x0B)
  | 0x36 => finish acc (false) (false) (.fadd g d a b m)
  | 0x37 => finish acc (false) (false) (.fsub g d a b m)
  | 0x38 => finish acc (false) (false) (.fmul g d a b m)
  | 0x39 => finish acc (false) (false) (.fdiv g d a b m)
  | 0x3A => finish acc (b != 0) (false) (.fsqrt g d a m)
  | 0x3B => finish acc (false) (false) (.fma g d a b m)
  | 0x3C => finish acc (m != 0) (false) (.fmin g d a b)
  | 0x3D => finish acc (m != 0) (false) (.fmax g d a b)
  | 0x3E => finish acc (false) (false) (.fcmp g d a b m)
  | 0x3F => match b.toNat with
    | 0 => finish acc (false) (false) (.fcvtBf16Fp32 g d a m)
    | 1 => finish acc (false) (m != 0) (.fcvtFp32Bf16 g d a)
    | _ => .error 0x0B
  | 0x40 => match x with
    | none => finish acc (d != 0 || a != 0) (false) (.br g (.short i))
    | some v => finish acc (d != 0 || a != 0 || i != 0) (false) (.br g (.ext v))
  | 0x41 => match x with
    | none => finish acc (a != 0) (false) (.brl g d (.short i))
    | some v => finish acc (a != 0 || i != 0) (false) (.brl g d (.ext v))
  | 0x42 => finish acc (d != 0 || b != 0 || m != 0) (false) (.brx g a)
  | 0x43 => finish acc (b != 0 || m != 0) (false) (.brlx g d a)
  | 0x44 => match x with
    | none => .error 0x0C
    | some v => finish acc (a != 0 || b != 0 || m != 0) (d.extractLsb' 1 5 != 0) (.loop g (d.extractLsb' 0 1) v)
  | 0x45 => match x with
    | none => finish acc (false) (d.extractLsb' 1 5 != 0) (.loopg g (d.extractLsb' 0 1) a (.short i))
    | some v => finish acc (i != 0) (d.extractLsb' 1 5 != 0) (.loopg g (d.extractLsb' 0 1) a (.ext v))
  | 0x46 => match x with
    | none => finish acc (d != 0 || a != 0) (false) (.pin g (.short i))
    | some v => finish acc (d != 0 || a != 0 || i != 0) (false) (.pin g (.ext v))
  | 0x47 => finish acc (d != 0 || a != 0 || b != 0 || m != 0) (false) (.rdv g)
  | 0x48 => finish acc (d != 0 || a != 0 || b != 0 || m != 0) (false) (.rdvfin g)
  | 0x49 => finish acc (b != 0 || m != 0) (false) (.mfs g d a)
  | 0x4A => finish acc (b != 0 || m != 0) (false) (.mts g d a)
  | 0x4B => match x with
    | none => finish acc (a != 0) (false) (.mtsi g d (.short i))
    | some v => finish acc (a != 0 || i != 0) (false) (.mtsi g d (.ext v))
  | 0x4C => finish acc (false) (b.extractLsb' 4 2 != 0) (.ficvt g d a (b.extractLsb' 3 1) (b.extractLsb' 0 3) m)
  | 0x4D => finish acc (false) (b.extractLsb' 4 2 != 0) (.ifcvt g d a (b.extractLsb' 3 1) (b.extractLsb' 0 3) m)
  | 0x50 => finish acc (d != 0 || a != 0 || b != 0 || m != 0) (false) (.trig g)
  | 0x51 => finish acc (d != 0 || a != 0 || b != 0 || m != 0) (false) (.predwait g)
  | 0x52 => finish acc (d != 0 || a != 0 || b != 0 || m != 0) (false) (.swapctx g)
  | 0x53 => finish acc (d != 0 || a != 0) (false) (.trap g i)
  | 0x54 => finish acc (d != 0 || b != 0 || m != 0) (false) (.sburg g a)
  | 0x55 => if d.extractLsb' 4 1 = 0 then finish acc (a != 0) (d.extractLsb' 5 1 != 0) (.waitk g (d.extractLsb' 0 4) i)
    else finish acc (b != 0 || m != 0) (d.extractLsb' 5 1 != 0) (.waitkReg g (d.extractLsb' 0 4) a)
  | 0x56 => finish acc (a != 0 || b != 0 || m != 0) (false) (.draw g d)
  | 0x76 => finish acc (false) (false) (.faddBf16 g d a b m)
  | 0x77 => finish acc (false) (false) (.fsubBf16 g d a b m)
  | 0x78 => finish acc (false) (false) (.fmulBf16 g d a b m)
  | 0x79 => finish acc (false) (false) (.fdivBf16 g d a b m)
  | 0x7A => finish acc (b != 0) (false) (.fsqrtBf16 g d a m)
  | 0x7B => finish acc (false) (false) (.fmaBf16 g d a b m)
  | 0x7C => finish acc (m != 0) (false) (.fminBf16 g d a b)
  | 0x7D => finish acc (m != 0) (false) (.fmaxBf16 g d a b)
  | 0x7E => finish acc (false) (false) (.fcmpBf16 g d a b m)
  | _ => .error 0x08

/-- The V map of R84: the instruction of a word with its owned X word, or the detail code of the first failed
check among 6 and 8 to 10 of R83. -/
def decodeV (acc : Nat) (w : Half) (x : Option Half) : Except Nat Instr :=
  let g := w.extractLsb' 21 4
  let d := w.extractLsb' 15 6
  let a := w.extractLsb' 9 6
  let b := w.extractLsb' 3 6
  let m := w.extractLsb' 0 3
  let j := w.extractLsb' 3 12
  match (w.extractLsb' 25 7).toNat with
  | 0x00 => finish acc (false) (false) (.vadd g d a b m)
  | 0x01 => finish acc (false) (false) (.vsub g d a b m)
  | 0x02 => finish acc (false) (false) (.vmul g d a b m)
  | 0x03 => finish acc (false) (false) (.vmulh g d a b m)
  | 0x04 => finish acc (false) (false) (.vmulhn g d a b m)
  | 0x05 => finish acc (false) (false) (.vmin g d a b m)
  | 0x06 => finish acc (false) (false) (.vmax g d a b m)
  | 0x07 => finish acc (false) (false) (.vminn g d a b m)
  | 0x08 => finish acc (false) (false) (.vmaxn g d a b m)
  | 0x09 => finish acc (false) (false) (.vand g d a b m)
  | 0x0A => finish acc (false) (false) (.vor g d a b m)
  | 0x0B => finish acc (false) (false) (.vxor g d a b m)
  | 0x0C => finish acc (false) (false) (.vandn g d a b m)
  | 0x0D => finish acc (false) (false) (.vshl g d a b m)
  | 0x0E => finish acc (false) (false) (.vshr g d a b m)
  | 0x0F => finish acc (false) (false) (.vsar g d a b m)
  | 0x10 => finish acc (false) (false) (.vadds g d a b m)
  | 0x11 => finish acc (false) (false) (.vaddsn g d a b m)
  | 0x12 => finish acc (false) (false) (.vsubs g d a b m)
  | 0x13 => finish acc (false) (false) (.vsubsn g d a b m)
  | 0x14 => finish acc (false) (false) (.vadd16 g d a b m)
  | 0x15 => finish acc (false) (false) (.vsub16 g d a b m)
  | 0x16 => finish acc (false) (false) (.vadds16 g d a b m)
  | 0x17 => finish acc (false) (false) (.vsubs16 g d a b m)
  | 0x18 => finish acc (false) (false) (.vmul16 g d a b m)
  | 0x19 => finish acc (false) (false) (.vabs g d a b m)
  | 0x1A => finish acc (false) (false) (.vneg g d a b m)
  | 0x1B => finish acc (false) (false) (.vsel g d a b m)
  | 0x1C => match b.toNat with
    | 0 => finish acc (false) (false) (.vmov g d a m)
    | 1 => finish acc (false) (false) (.vmovScalar g d a m)
    | _ => .error 0x0B
  | 0x1D => match x with
    | none => finish acc (false) (false) (.vmovi g d (.short j) m)
    | some v => finish acc (j != 0) (false) (.vmovi g d (.ext v) m)
  | 0x1E => finish acc (false) (b.extractLsb' 5 1 != 0) (.vshli g d a (b.extractLsb' 0 5) m)
  | 0x1F => finish acc (false) (b.extractLsb' 5 1 != 0) (.vsari g d a (b.extractLsb' 0 5) m)
  | 0x20 => finish acc (false) (d.extractLsb' 3 3 != 0) (.vcmpeq g (d.extractLsb' 0 3) a b m)
  | 0x21 => finish acc (false) (d.extractLsb' 3 3 != 0) (.vcmpne g (d.extractLsb' 0 3) a b m)
  | 0x22 => finish acc (false) (d.extractLsb' 3 3 != 0) (.vcmplt g (d.extractLsb' 0 3) a b m)
  | 0x23 => finish acc (false) (d.extractLsb' 3 3 != 0) (.vcmple g (d.extractLsb' 0 3) a b m)
  | 0x24 => finish acc (false) (d.extractLsb' 3 3 != 0) (.vcmpltn g (d.extractLsb' 0 3) a b m)
  | 0x25 => finish acc (false) (d.extractLsb' 3 3 != 0) (.vcmplen g (d.extractLsb' 0 3) a b m)
  | 0x26 => finish acc (false) (d.extractLsb' 4 2 != 0) (.vfcmpeq g (d.extractLsb' 3 1) (d.extractLsb' 0 3) a b m)
  | 0x27 => finish acc (false) (d.extractLsb' 4 2 != 0) (.vfcmplt g (d.extractLsb' 3 1) (d.extractLsb' 0 3) a b m)
  | 0x28 => finish acc (false) (d.extractLsb' 4 2 != 0) (.vfcmple g (d.extractLsb' 3 1) (d.extractLsb' 0 3) a b m)
  | 0x29 => finish acc (m != 0) (false) (.mand g d a b)
  | 0x2A => finish acc (m != 0) (false) (.mor g d a b)
  | 0x2B => finish acc (m != 0) (false) (.mxor g d a b)
  | 0x2C => finish acc (m != 0) (false) (.mandn g d a b)
  | 0x2D => finish acc (b != 0) (false) (.mpop g d a m)
  | 0x2E => match m.toNat with
    | 0 => finish acc (false) (false) (.mset g d a b)
    | 1 => finish acc (false) (false) (.msetRange g d a b)
    | 2 => (match x with | none => .error 0x0C | some v => finish acc (a != 0 || b != 0) (false) (.msetPat g d v))
    | _ => .error 0x0B
  | 0x2F => finish acc (d != 0 || b != 0) (false) (.vburg g a m)
  | 0x30 => finish acc (false) (false) (.vfadd g d a b m)
  | 0x31 => finish acc (false) (false) (.vfsub g d a b m)
  | 0x32 => finish acc (false) (false) (.vfmul g d a b m)
  | 0x33 => finish acc (false) (false) (.vfma g d a b m)
  | 0x34 => finish acc (false) (false) (.vfmin g d a b m)
  | 0x35 => finish acc (false) (false) (.vfmax g d a b m)
  | 0x36 => finish acc (false) (false) (.vbadd g d a b m)
  | 0x37 => finish acc (false) (false) (.vbsub g d a b m)
  | 0x38 => finish acc (false) (false) (.vbmul g d a b m)
  | 0x39 => finish acc (false) (false) (.vbfma g d a b m)
  | 0x3A => finish acc (false) (false) (.vbfmaRs g d a b m)
  | 0x3B => finish acc (false) (false) (.vcvt g d a (b.extractLsb' 3 3) (b.extractLsb' 0 3) m)
  | 0x3C => finish acc (false) (false) (.vqdxb g d a (b.extractLsb' 5 1) (b.extractLsb' 0 5) m)
  | 0x3D => finish acc (false) (b.extractLsb' 2 4 != 0) (.vdqdxb g d a (b.extractLsb' 1 1) (b.extractLsb' 0 1) m)
  | 0x3E => finish acc (false) (b.extractLsb' 2 4 != 0) (.vqmx g d a (b.extractLsb' 1 1) (b.extractLsb' 0 1) m)
  | 0x3F => finish acc (false) (b.extractLsb' 3 3 != 0) (.vdqmx g d a (b.extractLsb' 2 1) (b.extractLsb' 1 1) (b.extractLsb' 0 1) m)
  | 0x40 => finish acc (false) (b.extractLsb' 1 5 != 0) (.vexp g d a (b.extractLsb' 0 1) m)
  | 0x41 => finish acc (false) (b.extractLsb' 1 5 != 0) (.vlog g d a (b.extractLsb' 0 1) m)
  | 0x42 => finish acc (false) (b.extractLsb' 1 5 != 0) (.vrcp g d a (b.extractLsb' 0 1) m)
  | 0x43 => finish acc (false) (b.extractLsb' 1 5 != 0) (.vrsqrt g d a (b.extractLsb' 0 1) m)
  | 0x44 => finish acc (false) (b.extractLsb' 1 5 != 0) (.vsqrt g d a (b.extractLsb' 0 1) m)
  | 0x45 => finish acc (false) (b.extractLsb' 1 5 != 0) (.vtanh g d a (b.extractLsb' 0 1) m)
  | 0x46 => finish acc (false) (b.extractLsb' 1 5 != 0) (.vsigm g d a (b.extractLsb' 0 1) m)
  | 0x47 => finish acc (false) (b.extractLsb' 1 5 != 0) (.vsin g d a (b.extractLsb' 0 1) m)
  | 0x48 => finish acc (false) (b.extractLsb' 1 5 != 0) (.vcos g d a (b.extractLsb' 0 1) m)
  | 0x49 => finish acc (false) (false) (.vfdiv g d a b m)
  | 0x4A => finish acc (false) (false) (.xpprob g d a b m)
  | 0x50 => finish acc (false) (b.extractLsb' 3 3 != 0) (.vxshl g d a (b.extractLsb' 0 3) m)
  | 0x51 => finish acc (false) (b.extractLsb' 3 3 != 0) (.vxshr g d a (b.extractLsb' 0 3) m)
  | 0x52 => finish acc (false) (b.extractLsb' 3 3 != 0) (.vxrotl g d a (b.extractLsb' 0 3) m)
  | 0x53 => finish acc (false) (b.extractLsb' 3 3 != 0) (.vxrotr g d a (b.extractLsb' 0 3) m)
  | 0x54 => finish acc (false) (b.extractLsb' 3 3 != 0) (.vxbcast g d a (b.extractLsb' 0 3) m)
  | 0x60 => finish acc (false) (b.extractLsb' 1 5 != 0) (.vredsum g d a (b.extractLsb' 0 1) m)
  | 0x61 => finish acc (false) (b.extractLsb' 2 4 != 0) (.vredmin g d a (b.extractLsb' 0 2) m)
  | 0x62 => finish acc (false) (b.extractLsb' 2 4 != 0) (.vredmax g d a (b.extractLsb' 0 2) m)
  | 0x63 => finish acc (false) (b.extractLsb' 1 5 != 0) (.vredsumi g d a (b.extractLsb' 0 1) m)
  | 0x64 => finish acc (false) (b.extractLsb' 3 3 != 0) (.vscan g d a (b.extractLsb' 2 1) (b.extractLsb' 1 1) (b.extractLsb' 0 1) m)
  | 0x65 => finish acc (false) (false) (.vperm g d a b m)
  | 0x66 => finish acc (false) (b.extractLsb' 4 2 != 0) (.vslideup g d a (b.extractLsb' 0 4) m)
  | 0x67 => finish acc (false) (b.extractLsb' 4 2 != 0) (.vslidedn g d a (b.extractLsb' 0 4) m)
  | 0x68 => finish acc (b != 0) (false) (.vcompress g d a m)
  | 0x69 => finish acc (b != 0) (false) (.vexpand g d a m)
  | 0x6A => finish acc (false) (false) (.visect g d a b m)
  | _ => .error 0x08

/-- The M map of R84: the instruction of a word with its owned X word, or the detail code of the first failed
check among 6 and 8 to 10 of R83. -/
def decodeM (acc : Nat) (w : Half) (x : Option Half) : Except Nat Instr :=
  let g := w.extractLsb' 21 4
  let d := w.extractLsb' 15 6
  let a := w.extractLsb' 9 6
  let b := w.extractLsb' 3 6
  let m := w.extractLsb' 0 3
  let i := w.extractLsb' 0 9
  match (w.extractLsb' 25 7).toNat with
  | 0x00 => finish acc (d != 0 || b != 0) (a != 0) (.mma g m)
  | 0x01 => finish acc (d != 0 || b != 0) (a != 0) (.mmaZs g m)
  | 0x02 => finish acc (d != 0 || b != 0) (a != 0) (.mmad g m)
  | 0x03 => finish acc (d != 0 || b != 0) (a != 0) (.mmadZs g m)
  | 0x04 => finish acc (d != 0 || b != 0) (a.extractLsb' 2 4 != 0) (.mmx g (a.extractLsb' 1 1) (a.extractLsb' 0 1) m)
  | 0x05 => finish acc (d != 0 || b != 0) (a.extractLsb' 2 4 != 0) (.mmxZs g (a.extractLsb' 1 1) (a.extractLsb' 0 1) m)
  | 0x06 => finish acc (d != 0 || a != 0 || b != 0) (false) (.zclr g m)
  | 0x07 => finish acc (d != 0) (b.extractLsb' 1 5 != 0) (.zld g a (b.extractLsb' 0 1) m)
  | 0x08 => finish acc (d != 0 || b != 0) (false) (.zst g a m)
  | 0x09 => finish acc (d != 0) (b.extractLsb' 3 3 != 0) (.zstb g a (b.extractLsb' 0 3) m)
  | 0x0A => finish acc (d != 0) (false) (.qdrop g a i)
  | 0x10 => finish acc (false) (b.extractLsb' 1 4 != 0) (.xfwd g d a (b.extractLsb' 5 1) (b.extractLsb' 0 1) m)
  | 0x11 => finish acc (false) (b.extractLsb' 1 4 != 0) (.xbwd g d a (b.extractLsb' 5 1) (b.extractLsb' 0 1) m)
  | 0x12 => finish acc (false) (b.extractLsb' 0 5 != 0) (.xupd g d a (b.extractLsb' 5 1) m)
  | 0x13 => finish acc (false) (b.extractLsb' 2 3 != 0) (.xxfer g d a (b.extractLsb' 5 1) (b.extractLsb' 1 1) (b.extractLsb' 0 1) m)
  | 0x14 => match x with
    | none => finish acc (d != 0) (b.extractLsb' 0 5 != 0) (.xwin g a (b.extractLsb' 5 1) m)
    | some v => finish acc (a != 0) (d.extractLsb' 4 2 != 0 || b.extractLsb' 0 5 != 0) (.xwinX g (d.extractLsb' 0 4) (b.extractLsb' 5 1) m v)
  | 0x15 => finish acc (d != 0) (b.extractLsb' 0 5 != 0) (.xgain g a (b.extractLsb' 5 1) m)
  | 0x16 => finish acc (d != 0) (b.extractLsb' 0 5 != 0) (.xseed g a (b.extractLsb' 5 1) m)
  | 0x17 => finish acc (a != 0) (b.extractLsb' 0 5 != 0) (.xrst g d (b.extractLsb' 5 1) m)
  | 0x18 => finish acc (a != 0) (b.extractLsb' 3 2 != 0) (.xstat g d (b.extractLsb' 5 1) (b.extractLsb' 0 3) m)
  | _ => .error 0x08

/-- The C map of R84: the instruction of a word with its owned X word, or the detail code of the first failed
check among 6 and 8 to 10 of R83. -/
def decodeC (acc : Nat) (w : Half) (x : Option Half) : Except Nat Instr :=
  let g := w.extractLsb' 21 4
  let d := w.extractLsb' 15 6
  let a := w.extractLsb' 9 6
  let b := w.extractLsb' 3 6
  let m := w.extractLsb' 0 3
  match (w.extractLsb' 25 7).toNat with
  | 0x00 => finish acc (false) (false) (.ld g d a b m x)
  | 0x01 => finish acc (false) (false) (.st g d a b m x)
  | 0x02 => match m.toNat with
    | 0 => finish acc (false) (false) (.vld g d a b x)
    | 1 => finish acc (false) (false) (.vldBc g d a b x)
    | _ => .error 0x0B
  | 0x03 => finish acc (false) (m != 0) (.vst g d a b x)
  | 0x04 => finish acc (false) (m.extractLsb' 1 2 != 0) (.vldb g d a b (m.extractLsb' 0 1) x)
  | 0x05 => finish acc (false) (m.extractLsb' 1 2 != 0) (.vstb g d a b (m.extractLsb' 0 1) x)
  | 0x06 => finish acc (false) (false) (.gath g d a b m)
  | 0x07 => finish acc (false) (false) (.scat g d a b m)
  | 0x08 => finish acc (d != 0 || a != 0 || b != 0) (m != 0) (.drain g)
  | 0x10 => finish acc (false) (m != 0) (.msend g d a b)
  | 0x11 => finish acc (false) (m != 0) (.mcast g d a b)
  | 0x12 => finish acc (false) (m != 0) (.dsend g d a b)
  | 0x13 => match m.toNat with
    | 0 => finish acc (b != 0) (false) (.qld g (d.extractLsb' 1 5) (d.extractLsb' 0 1) a x)
    | 1 => finish acc (false) (false) (.qldDxb8 g (d.extractLsb' 1 5) (d.extractLsb' 0 1) a b x)
    | 2 => finish acc (false) (false) (.qldMx8 g (d.extractLsb' 1 5) (d.extractLsb' 0 1) a b x)
    | _ => .error 0x0B
  | 0x20 => match m.toNat with
    | 0 => finish acc (false) (false) (.hrd g d a b x)
    | 1 => finish acc (false) (d.extractLsb' 1 5 != 0) (.hrdQ g (d.extractLsb' 0 1) a b x)
    | _ => .error 0x0B
  | 0x21 => match m.toNat with
    | 0 => finish acc (false) (false) (.hrdg g d a b)
    | 1 => finish acc (false) (d.extractLsb' 1 5 != 0) (.hrdgQ g (d.extractLsb' 0 1) a b)
    | _ => .error 0x0B
  | 0x22 => finish acc (false) (d.extractLsb' 1 5 != 0 || m != 0) (.hrdt g (d.extractLsb' 0 1) a b)
  | 0x23 => finish acc (false) (m != 0) (.hwr g d a b x)
  | 0x24 => finish acc (m != 0) (d.extractLsb' 4 2 != 0) (.cfill g (d.extractLsb' 0 4) a b)
  | 0x30 => finish acc (m != 0) (b.extractLsb' 5 1 != 0) (.acpy g d a (b.extractLsb' 4 1) (b.extractLsb' 0 4))
  | 0x31 => finish acc (m != 0) (b.extractLsb' 5 1 != 0) (.aatom g d a (b.extractLsb' 4 1) (b.extractLsb' 0 4))
  | 0x32 => finish acc (m != 0) (b.extractLsb' 5 1 != 0) (.ared g d a (b.extractLsb' 4 1) (b.extractLsb' 0 4))
  | 0x33 => finish acc (m != 0) (b.extractLsb' 5 1 != 0) (.arestripe g d a (b.extractLsb' 4 1) (b.extractLsb' 0 4))
  | 0x34 => finish acc (m != 0) (b.extractLsb' 5 1 != 0) (.acoll g d a (b.extractLsb' 4 1) (b.extractLsb' 0 4))
  | 0x35 => finish acc (m != 0) (b.extractLsb' 5 1 != 0) (.amcast g d a (b.extractLsb' 4 1) (b.extractLsb' 0 4))
  | 0x36 => finish acc (m != 0) (b.extractLsb' 5 1 != 0) (.xckpt g d a (b.extractLsb' 4 1) (b.extractLsb' 0 4))
  | 0x37 => finish acc (m != 0) (b.extractLsb' 5 1 != 0) (.xprog g d a (b.extractLsb' 4 1) (b.extractLsb' 0 4))
  | 0x38 => finish acc (m != 0) (b.extractLsb' 5 1 != 0) (.xcal g d a (b.extractLsb' 4 1) (b.extractLsb' 0 4))
  | 0x39 => finish acc (m != 0) (b.extractLsb' 5 1 != 0) (.xsym g d a (b.extractLsb' 4 1) (b.extractLsb' 0 4))
  | 0x3A => finish acc (m != 0) (b.extractLsb' 5 1 != 0) (.barinit g d a (b.extractLsb' 4 1) (b.extractLsb' 0 4))
  | 0x3B => finish acc (m != 0) (b.extractLsb' 5 1 != 0) (.bararv g d a (b.extractLsb' 4 1) (b.extractLsb' 0 4))
  | 0x3C => finish acc (m != 0) (b.extractLsb' 5 1 != 0) (.barwait g d a (b.extractLsb' 4 1) (b.extractLsb' 0 4))
  | 0x3D => finish acc (m != 0) (a.extractLsb' 3 3 != 0 || b.extractLsb' 5 1 != 0) (.fence g d (a.extractLsb' 0 3) (b.extractLsb' 4 1) (b.extractLsb' 0 4))
  | _ => .error 0x08


/-- Whether an opcode is restricted to the other slot of its class (R82). -/
def slotForbidden (slot op : Nat) : Bool :=
  match slotClass slot with
  | .V => (op / 16 = 4 && slot != 1) || (op / 16 = 5 && slot != 2)
  | .C => (op / 16 = 1 && slot != 5) || ((op / 16 = 2 || op / 16 = 3) && slot != 4)
  | _ => false

/-- Whether an opcode is assigned in its class's map (R84). -/
def assignedOp (c : SlotClass) (op : Nat) : Bool :=
  match c with
  | .S => op < 0x2A || (0x30 ≤ op && op < 0x4E) || (0x50 ≤ op && op < 0x57) || (0x76 ≤ op && op < 0x7F)
  | .V => op < 0x4B || (0x50 ≤ op && op < 0x55) || (0x60 ≤ op && op < 0x6B)
  | .M => op < 0x0B || (0x10 ≤ op && op < 0x19)
  | .C => op < 0x09 || (0x10 ≤ op && op < 0x14) || (0x20 ≤ op && op < 0x25) || (0x30 ≤ op && op < 0x3E)

/-- Whether an opcode has an X form, marked * or ** in the maps (R80, R84). -/
def xForm (c : SlotClass) (op : Nat) : Bool :=
  match c with
  | .S => op ∈ [0x10, 0x11, 0x12, 0x13, 0x18, 0x19, 0x23, 0x29, 0x40, 0x41, 0x44, 0x45, 0x46, 0x4B]
  | .V => op ∈ [0x1D, 0x2E]
  | .M => op ∈ [0x14]
  | .C => op ∈ [0x00, 0x01, 0x02, 0x03, 0x04, 0x05, 0x13, 0x20, 0x23]

/-- The checks 6 to 10 of R83 on one slot word, in order: unassigned, wrong slot, required X word, unused fields,
operand values. -/
def decodeSlot (acc slot : Nat) (w : Half) (x : Option Half) : Except Nat Instr :=
  let op := (w.extractLsb' 25 7).toNat
  if !(assignedOp (slotClass slot) op) then .error 0x08
  else if slotForbidden slot op then .error 0x09
  else match slotClass slot with
    | .S => decodeS acc w x
    | .V => decodeV acc w x
    | .M => decodeM acc w x
    | .C => decodeC acc w x

/-! ### Bundles -/

/-- What a bundle's bytes say: its slots' words with slot numbers, the X word's owner, its stop bit and idle count,
and its length (R71). -/
structure Bundle where
  slots : List (Nat × Instr)
  idle : Option (BitVec 8)
  len : Nat
  deriving DecidableEq, Repr

/-- A decoding fault: the fault code of R377, its detail and the slot it names (0xFF for none). -/
structure DecFault where
  code : Nat
  detail : Nat
  slot : Nat
  deriving DecidableEq, Repr

/-- What the bytes at a program counter are: padding that moves to the next line, a bundle, or a decoding fault. -/
inductive Fetched where
  | padding
  | bundle (b : Bundle)
  | bad (f : DecFault)
  deriving DecidableEq, Repr

/-- The little-endian word of the first four bytes of a list (R71). -/
def word32 : List Byte → Half
  | a :: b :: c :: d :: _ => d ++ c ++ b ++ a
  | _ => 0

/-- The present slots of a template, ascending (R72). -/
def slotsOf (t : Byte) : List Nat := (List.range 6).filter fun i => t.getLsbD i

/-- The words of the present slots, in order, from the bytes after the template and idle bytes. -/
def slotWords : List Nat → List Byte → List (Nat × Half)
  | [], _ => []
  | i :: r, bs => (i, word32 bs) :: slotWords r (bs.drop 4)

/-- x_owner of R80 on the slot words. -/
def xOwner : List (Nat × Half) → Option Nat
  | [] => none
  | (i, w) :: r =>
    let op := (w.extractLsb' 25 7).toNat
    if assignedOp (slotClass i) op && !(slotForbidden i op) && xForm (slotClass i) op then some i else xOwner r

/-- Checks 6 to 10 slot by slot (R83). -/
def decodeSlots (acc : Nat) (owner : Option Nat) (xw : Half) :
    List (Nat × Half) → Except DecFault (List (Nat × Instr))
  | [] => .ok []
  | (i, w) :: r =>
    match decodeSlot acc i w (if owner = some i then some xw else none) with
    | .error e => .error ⟨0x03, e, i⟩
    | .ok k =>
      match decodeSlots acc owner xw r with
      | .error e => .error e
      | .ok ks => .ok ((i, k) :: ks)

/-- The opcode of slot S, if the slot is present. -/
def sOpcode : List (Nat × Half) → Option Nat
  | (0, w) :: _ => some (w.extractLsb' 25 7).toNat
  | _ => none

/-- The path of R83 from the bytes at line offset `off` on: `bs` holds the rest of the line from the template. -/
def fetchBundle (acc off : Nat) (bs : List Byte) : Fetched :=
  match bs with
  | [] => .bad ⟨0x01, 0x01, 0xFF⟩
  | t :: rest =>
    if t = 0 then (if off = 0 then .bad ⟨0x02, 0x02, 0xFF⟩ else .padding)
    else
      let stop := t.getLsbD 7
      let hasX := t.getLsbD 6
      let present := slotsOf t
      let len := 1 + stop.toNat + 4 * present.length + 4 * hasX.toNat
      if 64 < off + len then .bad ⟨0x01, 0x01, 0xFF⟩
      else
        let idle : Option Byte := if stop then some (rest.headD 0) else none
        let body := if stop then rest.drop 1 else rest
        let words := slotWords present body
        let xw := word32 (body.drop (4 * present.length))
        let owner := if hasX then xOwner words else none
        if hasX && owner.isNone then .bad ⟨0x02, 0x03, 0xFF⟩
        else
          let sop := sOpcode words
          if (sop = some 0x52 || sop = some 0x53 || sop = some 0x48) && 1 < present.length then .bad ⟨0x02, 0x04, 0xFF⟩
          else if sop = some 0x46 && stop then .bad ⟨0x02, 0x05, 0xFF⟩
          else match decodeSlots acc owner xw words with
            | .error e => .bad e
            | .ok ks => .bundle ⟨ks, idle, len⟩

/-! ### Encoding -/

/-- The slot word of R77 from its six fields. -/
def lay (op : BitVec 7) (g : BitVec 4) (d a b : BitVec 6) (m : BitVec 3) : Half :=
  op ++ g ++ d ++ a ++ b ++ m

/-- The immediate layout of R78: nine immediate bits in place of b and mod. -/
def layI (op : BitVec 7) (g : BitVec 4) (d a : BitVec 6) (i : BitVec 9) : Half :=
  op ++ g ++ d ++ a ++ i

/-- The layout of `vmovi`: twelve immediate bits in place of a and b (R156). -/
def layJ (op : BitVec 7) (g : BitVec 4) (d : BitVec 6) (j : BitVec 12) (m : BitVec 3) : Half :=
  op ++ g ++ d ++ j ++ m

/-- The slot word's immediate bits: zero where the X word is owned (R80). -/
def Imm.low {n : Nat} : Imm n → BitVec n
  | .short v => v
  | .ext _ => 0

/-- The X word an immediate owns. -/
def Imm.x? {n : Nat} : Imm n → Option Half
  | .short _ => none
  | .ext v => some v

/-- The slot class of an instruction; events have none. -/
def Instr.slotClass? : Instr → Option SlotClass
  | .add _ _ _ _ _ => some .S
  | .sub _ _ _ _ _ => some .S
  | .and _ _ _ _ => some .S
  | .or _ _ _ _ => some .S
  | .xor _ _ _ _ => some .S
  | .andn _ _ _ _ => some .S
  | .shl _ _ _ _ => some .S
  | .shr _ _ _ _ => some .S
  | .sar _ _ _ _ => some .S
  | .rotl _ _ _ _ => some .S
  | .min _ _ _ _ => some .S
  | .max _ _ _ _ => some .S
  | .minn _ _ _ _ => some .S
  | .maxn _ _ _ _ => some .S
  | .sel _ _ _ _ _ => some .S
  | .popc _ _ _ => some .S
  | .addi _ _ _ _ => some .S
  | .andi _ _ _ _ => some .S
  | .ori _ _ _ _ => some .S
  | .xori _ _ _ _ => some .S
  | .shli _ _ _ _ => some .S
  | .shri _ _ _ _ => some .S
  | .sari _ _ _ _ => some .S
  | .rotli _ _ _ _ => some .S
  | .movi _ _ _ => some .S
  | .movhi _ _ _ _ => some .S
  | .clz _ _ _ => some .S
  | .ctz _ _ _ => some .S
  | .bext _ _ _ _ _ => some .S
  | .bins _ _ _ _ => some .S
  | .sxt _ _ _ _ => some .S
  | .zxt _ _ _ _ => some .S
  | .mul _ _ _ _ _ => some .S
  | .mulh _ _ _ _ => some .S
  | .mulhn _ _ _ _ => some .S
  | .muli _ _ _ _ => some .S
  | .div _ _ _ _ => some .S
  | .divn _ _ _ _ => some .S
  | .rem _ _ _ _ => some .S
  | .remn _ _ _ _ => some .S
  | .cmp _ _ _ _ _ => some .S
  | .cmpi _ _ _ _ _ => some .S
  | .pand _ _ _ _ => some .S
  | .por _ _ _ _ => some .S
  | .pxor _ _ _ _ => some .S
  | .pandn _ _ _ _ => some .S
  | .pset _ _ _ => some .S
  | .psetAll _ _ => some .S
  | .pget _ _ _ => some .S
  | .pgetAll _ _ => some .S
  | .fadd _ _ _ _ _ => some .S
  | .fsub _ _ _ _ _ => some .S
  | .fmul _ _ _ _ _ => some .S
  | .fdiv _ _ _ _ _ => some .S
  | .fsqrt _ _ _ _ => some .S
  | .fma _ _ _ _ _ => some .S
  | .fmin _ _ _ _ => some .S
  | .fmax _ _ _ _ => some .S
  | .fcmp _ _ _ _ _ => some .S
  | .fcvtBf16Fp32 _ _ _ _ => some .S
  | .fcvtFp32Bf16 _ _ _ => some .S
  | .faddBf16 _ _ _ _ _ => some .S
  | .fsubBf16 _ _ _ _ _ => some .S
  | .fmulBf16 _ _ _ _ _ => some .S
  | .fdivBf16 _ _ _ _ _ => some .S
  | .fsqrtBf16 _ _ _ _ => some .S
  | .fmaBf16 _ _ _ _ _ => some .S
  | .fminBf16 _ _ _ _ => some .S
  | .fmaxBf16 _ _ _ _ => some .S
  | .fcmpBf16 _ _ _ _ _ => some .S
  | .br _ _ => some .S
  | .brl _ _ _ => some .S
  | .brx _ _ => some .S
  | .brlx _ _ _ => some .S
  | .loop _ _ _ => some .S
  | .loopg _ _ _ _ => some .S
  | .pin _ _ => some .S
  | .rdv _ => some .S
  | .rdvfin _ => some .S
  | .predwait _ => some .S
  | .swapctx _ => some .S
  | .mfs _ _ _ => some .S
  | .mts _ _ _ => some .S
  | .mtsi _ _ _ => some .S
  | .ficvt _ _ _ _ _ _ => some .S
  | .ifcvt _ _ _ _ _ _ => some .S
  | .trig _ => some .S
  | .trap _ _ => some .S
  | .sburg _ _ => some .S
  | .waitk _ _ _ => some .S
  | .waitkReg _ _ _ => some .S
  | .draw _ _ => some .S
  | .vadd _ _ _ _ _ => some .V
  | .vsub _ _ _ _ _ => some .V
  | .vmul _ _ _ _ _ => some .V
  | .vmulh _ _ _ _ _ => some .V
  | .vmulhn _ _ _ _ _ => some .V
  | .vmin _ _ _ _ _ => some .V
  | .vmax _ _ _ _ _ => some .V
  | .vminn _ _ _ _ _ => some .V
  | .vmaxn _ _ _ _ _ => some .V
  | .vand _ _ _ _ _ => some .V
  | .vor _ _ _ _ _ => some .V
  | .vxor _ _ _ _ _ => some .V
  | .vandn _ _ _ _ _ => some .V
  | .vshl _ _ _ _ _ => some .V
  | .vshr _ _ _ _ _ => some .V
  | .vsar _ _ _ _ _ => some .V
  | .vadds _ _ _ _ _ => some .V
  | .vaddsn _ _ _ _ _ => some .V
  | .vsubs _ _ _ _ _ => some .V
  | .vsubsn _ _ _ _ _ => some .V
  | .vadd16 _ _ _ _ _ => some .V
  | .vsub16 _ _ _ _ _ => some .V
  | .vadds16 _ _ _ _ _ => some .V
  | .vsubs16 _ _ _ _ _ => some .V
  | .vmul16 _ _ _ _ _ => some .V
  | .vabs _ _ _ _ _ => some .V
  | .vneg _ _ _ _ _ => some .V
  | .vsel _ _ _ _ _ => some .V
  | .vmov _ _ _ _ => some .V
  | .vmovScalar _ _ _ _ => some .V
  | .vmovi _ _ _ _ => some .V
  | .vshli _ _ _ _ _ => some .V
  | .vsari _ _ _ _ _ => some .V
  | .vcmpeq _ _ _ _ _ => some .V
  | .vcmpne _ _ _ _ _ => some .V
  | .vcmplt _ _ _ _ _ => some .V
  | .vcmple _ _ _ _ _ => some .V
  | .vcmpltn _ _ _ _ _ => some .V
  | .vcmplen _ _ _ _ _ => some .V
  | .vfcmpeq _ _ _ _ _ _ => some .V
  | .vfcmplt _ _ _ _ _ _ => some .V
  | .vfcmple _ _ _ _ _ _ => some .V
  | .mand _ _ _ _ => some .V
  | .mor _ _ _ _ => some .V
  | .mxor _ _ _ _ => some .V
  | .mandn _ _ _ _ => some .V
  | .mpop _ _ _ _ => some .V
  | .mset _ _ _ _ => some .V
  | .msetRange _ _ _ _ => some .V
  | .msetPat _ _ _ => some .V
  | .vburg _ _ _ => some .V
  | .vfadd _ _ _ _ _ => some .V
  | .vfsub _ _ _ _ _ => some .V
  | .vfmul _ _ _ _ _ => some .V
  | .vfma _ _ _ _ _ => some .V
  | .vfmin _ _ _ _ _ => some .V
  | .vfmax _ _ _ _ _ => some .V
  | .vbadd _ _ _ _ _ => some .V
  | .vbsub _ _ _ _ _ => some .V
  | .vbmul _ _ _ _ _ => some .V
  | .vbfma _ _ _ _ _ => some .V
  | .vbfmaRs _ _ _ _ _ => some .V
  | .vcvt _ _ _ _ _ _ => some .V
  | .vqdxb _ _ _ _ _ _ => some .V
  | .vdqdxb _ _ _ _ _ _ => some .V
  | .vqmx _ _ _ _ _ _ => some .V
  | .vdqmx _ _ _ _ _ _ _ => some .V
  | .vexp _ _ _ _ _ => some .V
  | .vlog _ _ _ _ _ => some .V
  | .vrcp _ _ _ _ _ => some .V
  | .vrsqrt _ _ _ _ _ => some .V
  | .vsqrt _ _ _ _ _ => some .V
  | .vtanh _ _ _ _ _ => some .V
  | .vsigm _ _ _ _ _ => some .V
  | .vsin _ _ _ _ _ => some .V
  | .vcos _ _ _ _ _ => some .V
  | .vfdiv _ _ _ _ _ => some .V
  | .xpprob _ _ _ _ _ => some .V
  | .vxshl _ _ _ _ _ => some .V
  | .vxshr _ _ _ _ _ => some .V
  | .vxrotl _ _ _ _ _ => some .V
  | .vxrotr _ _ _ _ _ => some .V
  | .vxbcast _ _ _ _ _ => some .V
  | .vredsum _ _ _ _ _ => some .V
  | .vredmin _ _ _ _ _ => some .V
  | .vredmax _ _ _ _ _ => some .V
  | .vredsumi _ _ _ _ _ => some .V
  | .vscan _ _ _ _ _ _ _ => some .V
  | .vperm _ _ _ _ _ => some .V
  | .vslideup _ _ _ _ _ => some .V
  | .vslidedn _ _ _ _ _ => some .V
  | .vcompress _ _ _ _ => some .V
  | .vexpand _ _ _ _ => some .V
  | .visect _ _ _ _ _ => some .V
  | .mma _ _ => some .M
  | .mmaZs _ _ => some .M
  | .mmad _ _ => some .M
  | .mmadZs _ _ => some .M
  | .mmx _ _ _ _ => some .M
  | .mmxZs _ _ _ _ => some .M
  | .zclr _ _ => some .M
  | .zld _ _ _ _ => some .M
  | .zst _ _ _ => some .M
  | .zstb _ _ _ _ => some .M
  | .qdrop _ _ _ => some .M
  | .xfwd _ _ _ _ _ _ => some .M
  | .xbwd _ _ _ _ _ _ => some .M
  | .xupd _ _ _ _ _ => some .M
  | .xxfer _ _ _ _ _ _ _ => some .M
  | .xwin _ _ _ _ => some .M
  | .xwinX _ _ _ _ _ => some .M
  | .xgain _ _ _ _ => some .M
  | .xseed _ _ _ _ => some .M
  | .xrst _ _ _ _ => some .M
  | .xstat _ _ _ _ _ => some .M
  | .ld _ _ _ _ _ _ => some .C
  | .st _ _ _ _ _ _ => some .C
  | .vld _ _ _ _ _ => some .C
  | .vldBc _ _ _ _ _ => some .C
  | .vst _ _ _ _ _ => some .C
  | .vldb _ _ _ _ _ _ => some .C
  | .vstb _ _ _ _ _ _ => some .C
  | .gath _ _ _ _ _ => some .C
  | .scat _ _ _ _ _ => some .C
  | .drain _ => some .C
  | .msend _ _ _ _ => some .C
  | .mcast _ _ _ _ => some .C
  | .dsend _ _ _ _ => some .C
  | .qld _ _ _ _ _ => some .C
  | .qldDxb8 _ _ _ _ _ _ => some .C
  | .qldMx8 _ _ _ _ _ _ => some .C
  | .hrd _ _ _ _ _ => some .C
  | .hrdQ _ _ _ _ _ => some .C
  | .hrdg _ _ _ _ => some .C
  | .hrdgQ _ _ _ _ => some .C
  | .hrdt _ _ _ _ => some .C
  | .hwr _ _ _ _ _ => some .C
  | .cfill _ _ _ _ => some .C
  | .acpy _ _ _ _ _ => some .C
  | .aatom _ _ _ _ _ => some .C
  | .ared _ _ _ _ _ => some .C
  | .arestripe _ _ _ _ _ => some .C
  | .acoll _ _ _ _ _ => some .C
  | .amcast _ _ _ _ _ => some .C
  | .xckpt _ _ _ _ _ => some .C
  | .xprog _ _ _ _ _ => some .C
  | .xcal _ _ _ _ _ => some .C
  | .xsym _ _ _ _ _ => some .C
  | .barinit _ _ _ _ _ => some .C
  | .bararv _ _ _ _ _ => some .C
  | .barwait _ _ _ _ _ => some .C
  | .fence _ _ _ _ _ => some .C
  | .bundleFetch => none
  | .emptyBundle => none
  | .halyardBeat => none
  | .resultLand => none
  | .drawCounterAdvance => none
  | .storePerform => none
  | .branchTakenRedirect => none
  | .loopIterationStep => none
  | .hoistEntry => none
  | .contextSwitchStart => none
  | .meshFlitDelivery => none
  | .crossDieDelivery => none
  | .ucieFlitRetry => none
  | .hbmLineCommand => none
  | .hbmLineLand => none
  | .hbmLinePerform => none
  | .fifoPositionLand => none
  | .codeFrameFillComplete => none
  | .mmaAccumulatorLand => none
  | .arrayReadResult => none
  | .arrayPulseSlot => none
  | .transferDigitalPhase => none
  | .trainComplete => none
  | .engineCommandStart => none
  | .arrayEngineStart => none
  | .engineCommandCompletion => none
  | .reductionEpochClose => none
  | .burgeeVerdict => none
  | .peerTimeout => none
  | .staleForwardingExpiry => none
  | .fabricFlitReceive => none
  | .hostBar4Access => none
  | .hostAtomicop => none
  | .doorbellWrite => none
  | .candidateAdmission => none
  | .dispatchDecision => none
  | .pagesResolved => none
  | .sliceDispatch => none
  | .sliceCompletion => none
  | .graphKernelNode => none
  | .graphCondNode => none
  | .graphLoopNode => none
  | .graphWaitNode => none
  | .graphWaitPoll => none
  | .graphSignalNode => none
  | .graphStepLimit => none
  | .cpLockstepMismatch => none
  | .cpRestartComplete => none
  | .queueUnpark => none
  | .translationInvalidate => none
  | .seqLockstepMismatch => none
  | .rewind => none
  | .sliceFailureCompletion => none
  | .preemptRequest => none
  | .preemptFreeze => none
  | .safePointWatchdogExpiry => none
  | .contextSaveComplete => none
  | .contextRestore => none
  | .gangRestart => none
  | .thermalTrip => none
  | .thermalTripClear => none
  | .pairThermalHold => none
  | .pairRetire => none
  | .geometryDrainBegin => none
  | .geoctlAck => none
  | .pwrlimWrite => none
  | .wdogWrite => none
  | .calperWrite => none
  | .registerWrite => none
  | .calibrationTimer => none
  | .moduleReset => none
  | .getVersion => none
  | .getCapabilities => none
  | .negotiateAlgorithms => none
  | .getDigests => none
  | .getCertificate => none
  | .challenge => none
  | .getMeasurements => none
  | .pldmBaseDiscovery => none
  | .pldmPlatformMonitoring => none
  | .pldmFirmwareUpdate => none
  | .readFaults => none
  | .readGeometry => none
  | .regAccess => none
  | .resetDie => none
  | .resetModule => none
  | .targWrite => none
  | .powerLoss => none
  | .fabricUp => none

/-- The slot word of an instruction, from the encodings of the instruction chapters; events have none. -/
def Instr.word : Instr → Option Half
  | .add g d a b m => some (lay 0x00#7 g d a b m)
  | .sub g d a b m => some (lay 0x01#7 g d a b m)
  | .and g d a b => some (lay 0x02#7 g d a b 0#3)
  | .or g d a b => some (lay 0x03#7 g d a b 0#3)
  | .xor g d a b => some (lay 0x04#7 g d a b 0#3)
  | .andn g d a b => some (lay 0x05#7 g d a b 0#3)
  | .shl g d a b => some (lay 0x06#7 g d a b 0#3)
  | .shr g d a b => some (lay 0x07#7 g d a b 0#3)
  | .sar g d a b => some (lay 0x08#7 g d a b 0#3)
  | .rotl g d a b => some (lay 0x09#7 g d a b 0#3)
  | .min g d a b => some (lay 0x0A#7 g d a b 0#3)
  | .max g d a b => some (lay 0x0B#7 g d a b 0#3)
  | .minn g d a b => some (lay 0x0C#7 g d a b 0#3)
  | .maxn g d a b => some (lay 0x0D#7 g d a b 0#3)
  | .sel g d a b p => some (lay 0x0E#7 g d a b p)
  | .popc g d a => some (lay 0x0F#7 g d a 0#6 0#3)
  | .addi g d a i => some (layI 0x10#7 g d a i.low)
  | .andi g d a i => some (layI 0x11#7 g d a i.low)
  | .ori g d a i => some (layI 0x12#7 g d a i.low)
  | .xori g d a i => some (layI 0x13#7 g d a i.low)
  | .shli g d a i => some (layI 0x14#7 g d a i)
  | .shri g d a i => some (layI 0x15#7 g d a i)
  | .sari g d a i => some (layI 0x16#7 g d a i)
  | .rotli g d a i => some (layI 0x17#7 g d a i)
  | .movi g d i => some (layI 0x18#7 g d 0#6 i.low)
  | .movhi g d a _ => some (lay 0x19#7 g d a 0#6 0#3)
  | .clz g d a => some (lay 0x1A#7 g d a 0#6 0#3)
  | .ctz g d a => some (lay 0x1B#7 g d a 0#6 0#3)
  | .bext g d a b u => some (lay 0x1C#7 g d a b (0#2 ++ u))
  | .bins g d a b => some (lay 0x1D#7 g d a b 0#3)
  | .sxt g d a w => some (lay 0x1E#7 g d a 0#6 w)
  | .zxt g d a w => some (lay 0x1F#7 g d a 0#6 w)
  | .mul g d a b m => some (lay 0x20#7 g d a b m)
  | .mulh g d a b => some (lay 0x21#7 g d a b 0#3)
  | .mulhn g d a b => some (lay 0x22#7 g d a b 0#3)
  | .muli g d a i => some (layI 0x23#7 g d a i.low)
  | .div g d a b => some (lay 0x24#7 g d a b 0#3)
  | .divn g d a b => some (lay 0x25#7 g d a b 0#3)
  | .rem g d a b => some (lay 0x26#7 g d a b 0#3)
  | .remn g d a b => some (lay 0x27#7 g d a b 0#3)
  | .cmp g d a b c => some (lay 0x28#7 g d a b c)
  | .cmpi g c p a i => some (layI 0x29#7 g (c ++ p) a i.low)
  | .pand g d a b => some (lay 0x30#7 g d a b 0#3)
  | .por g d a b => some (lay 0x31#7 g d a b 0#3)
  | .pxor g d a b => some (lay 0x32#7 g d a b 0#3)
  | .pandn g d a b => some (lay 0x33#7 g d a b 0#3)
  | .pset g d a => some (lay 0x34#7 g d a 0#6 0#3)
  | .psetAll g a => some (lay 0x34#7 g 0#6 a 0#6 1#3)
  | .pget g d a => some (lay 0x35#7 g d a 0#6 0#3)
  | .pgetAll g d => some (lay 0x35#7 g d 0#6 0#6 1#3)
  | .fadd g d a b r => some (lay 0x36#7 g d a b r)
  | .fsub g d a b r => some (lay 0x37#7 g d a b r)
  | .fmul g d a b r => some (lay 0x38#7 g d a b r)
  | .fdiv g d a b r => some (lay 0x39#7 g d a b r)
  | .fsqrt g d a r => some (lay 0x3A#7 g d a 0#6 r)
  | .fma g d a b r => some (lay 0x3B#7 g d a b r)
  | .fmin g d a b => some (lay 0x3C#7 g d a b 0#3)
  | .fmax g d a b => some (lay 0x3D#7 g d a b 0#3)
  | .fcmp g d a b c => some (lay 0x3E#7 g d a b c)
  | .fcvtBf16Fp32 g d a r => some (lay 0x3F#7 g d a 0#6 r)
  | .fcvtFp32Bf16 g d a => some (lay 0x3F#7 g d a 1#6 0#3)
  | .faddBf16 g d a b r => some (lay 0x76#7 g d a b r)
  | .fsubBf16 g d a b r => some (lay 0x77#7 g d a b r)
  | .fmulBf16 g d a b r => some (lay 0x78#7 g d a b r)
  | .fdivBf16 g d a b r => some (lay 0x79#7 g d a b r)
  | .fsqrtBf16 g d a r => some (lay 0x7A#7 g d a 0#6 r)
  | .fmaBf16 g d a b r => some (lay 0x7B#7 g d a b r)
  | .fminBf16 g d a b => some (lay 0x7C#7 g d a b 0#3)
  | .fmaxBf16 g d a b => some (lay 0x7D#7 g d a b 0#3)
  | .fcmpBf16 g d a b c => some (lay 0x7E#7 g d a b c)
  | .br g i => some (layI 0x40#7 g 0#6 0#6 i.low)
  | .brl g d i => some (layI 0x41#7 g d 0#6 i.low)
  | .brx g a => some (lay 0x42#7 g 0#6 a 0#6 0#3)
  | .brlx g d a => some (lay 0x43#7 g d a 0#6 0#3)
  | .loop g r _ => some (lay 0x44#7 g (0#5 ++ r) 0#6 0#6 0#3)
  | .loopg g r a i => some (layI 0x45#7 g (0#5 ++ r) a i.low)
  | .pin g i => some (layI 0x46#7 g 0#6 0#6 i.low)
  | .rdv g => some (lay 0x47#7 g 0#6 0#6 0#6 0#3)
  | .rdvfin g => some (lay 0x48#7 g 0#6 0#6 0#6 0#3)
  | .predwait g => some (lay 0x51#7 g 0#6 0#6 0#6 0#3)
  | .swapctx g => some (lay 0x52#7 g 0#6 0#6 0#6 0#3)
  | .mfs g d u => some (lay 0x49#7 g d u 0#6 0#3)
  | .mts g u a => some (lay 0x4A#7 g u a 0#6 0#3)
  | .mtsi g u i => some (layI 0x4B#7 g u 0#6 i.low)
  | .ficvt g d a f i r => some (lay 0x4C#7 g d a (0#2 ++ f ++ i) r)
  | .ifcvt g d a f i r => some (lay 0x4D#7 g d a (0#2 ++ f ++ i) r)
  | .trig g => some (lay 0x50#7 g 0#6 0#6 0#6 0#3)
  | .trap g i => some (layI 0x53#7 g 0#6 0#6 i)
  | .sburg g a => some (lay 0x54#7 g 0#6 a 0#6 0#3)
  | .waitk g k i => some (layI 0x55#7 g (0#2 ++ k) 0#6 i)
  | .waitkReg g k a => some (lay 0x55#7 g (1#2 ++ k) a 0#6 0#3)
  | .draw g d => some (lay 0x56#7 g d 0#6 0#6 0#3)
  | .vadd g d a b m => some (lay 0x00#7 g d a b m)
  | .vsub g d a b m => some (lay 0x01#7 g d a b m)
  | .vmul g d a b m => some (lay 0x02#7 g d a b m)
  | .vmulh g d a b m => some (lay 0x03#7 g d a b m)
  | .vmulhn g d a b m => some (lay 0x04#7 g d a b m)
  | .vmin g d a b m => some (lay 0x05#7 g d a b m)
  | .vmax g d a b m => some (lay 0x06#7 g d a b m)
  | .vminn g d a b m => some (lay 0x07#7 g d a b m)
  | .vmaxn g d a b m => some (lay 0x08#7 g d a b m)
  | .vand g d a b m => some (lay 0x09#7 g d a b m)
  | .vor g d a b m => some (lay 0x0A#7 g d a b m)
  | .vxor g d a b m => some (lay 0x0B#7 g d a b m)
  | .vandn g d a b m => some (lay 0x0C#7 g d a b m)
  | .vshl g d a b m => some (lay 0x0D#7 g d a b m)
  | .vshr g d a b m => some (lay 0x0E#7 g d a b m)
  | .vsar g d a b m => some (lay 0x0F#7 g d a b m)
  | .vadds g d a b m => some (lay 0x10#7 g d a b m)
  | .vaddsn g d a b m => some (lay 0x11#7 g d a b m)
  | .vsubs g d a b m => some (lay 0x12#7 g d a b m)
  | .vsubsn g d a b m => some (lay 0x13#7 g d a b m)
  | .vadd16 g d a b m => some (lay 0x14#7 g d a b m)
  | .vsub16 g d a b m => some (lay 0x15#7 g d a b m)
  | .vadds16 g d a b m => some (lay 0x16#7 g d a b m)
  | .vsubs16 g d a b m => some (lay 0x17#7 g d a b m)
  | .vmul16 g d a b m => some (lay 0x18#7 g d a b m)
  | .vabs g d a k m => some (lay 0x19#7 g d a k m)
  | .vneg g d a k m => some (lay 0x1A#7 g d a k m)
  | .vsel g d a b m => some (lay 0x1B#7 g d a b m)
  | .vmov g d a m => some (lay 0x1C#7 g d a 0#6 m)
  | .vmovScalar g d a m => some (lay 0x1C#7 g d a 1#6 m)
  | .vmovi g d i m => some (layJ 0x1D#7 g d i.low m)
  | .vshli g d a n m => some (lay 0x1E#7 g d a (0#1 ++ n) m)
  | .vsari g d a n m => some (lay 0x1F#7 g d a (0#1 ++ n) m)
  | .vcmpeq g d a b m => some (lay 0x20#7 g (0#3 ++ d) a b m)
  | .vcmpne g d a b m => some (lay 0x21#7 g (0#3 ++ d) a b m)
  | .vcmplt g d a b m => some (lay 0x22#7 g (0#3 ++ d) a b m)
  | .vcmple g d a b m => some (lay 0x23#7 g (0#3 ++ d) a b m)
  | .vcmpltn g d a b m => some (lay 0x24#7 g (0#3 ++ d) a b m)
  | .vcmplen g d a b m => some (lay 0x25#7 g (0#3 ++ d) a b m)
  | .vfcmpeq g f d a b m => some (lay 0x26#7 g (0#2 ++ f ++ d) a b m)
  | .vfcmplt g f d a b m => some (lay 0x27#7 g (0#2 ++ f ++ d) a b m)
  | .vfcmple g f d a b m => some (lay 0x28#7 g (0#2 ++ f ++ d) a b m)
  | .mand g d a b => some (lay 0x29#7 g d a b 0#3)
  | .mor g d a b => some (lay 0x2A#7 g d a b 0#3)
  | .mxor g d a b => some (lay 0x2B#7 g d a b 0#3)
  | .mandn g d a b => some (lay 0x2C#7 g d a b 0#3)
  | .mpop g d a m => some (lay 0x2D#7 g d a 0#6 m)
  | .mset g d a b => some (lay 0x2E#7 g d a b 0#3)
  | .msetRange g d a b => some (lay 0x2E#7 g d a b 1#3)
  | .msetPat g d _ => some (lay 0x2E#7 g d 0#6 0#6 2#3)
  | .vburg g a m => some (lay 0x2F#7 g 0#6 a 0#6 m)
  | .vfadd g d a b m => some (lay 0x30#7 g d a b m)
  | .vfsub g d a b m => some (lay 0x31#7 g d a b m)
  | .vfmul g d a b m => some (lay 0x32#7 g d a b m)
  | .vfma g d a b m => some (lay 0x33#7 g d a b m)
  | .vfmin g d a b m => some (lay 0x34#7 g d a b m)
  | .vfmax g d a b m => some (lay 0x35#7 g d a b m)
  | .vbadd g d a b m => some (lay 0x36#7 g d a b m)
  | .vbsub g d a b m => some (lay 0x37#7 g d a b m)
  | .vbmul g d a b m => some (lay 0x38#7 g d a b m)
  | .vbfma g d a b m => some (lay 0x39#7 g d a b m)
  | .vbfmaRs g d a b m => some (lay 0x3A#7 g d a b m)
  | .vcvt g d a k r m => some (lay 0x3B#7 g d a (k ++ r) m)
  | .vqdxb g d a f z m => some (lay 0x3C#7 g d a (f ++ z) m)
  | .vdqdxb g d a f h m => some (lay 0x3D#7 g d a (0#4 ++ f ++ h) m)
  | .vqmx g d a f t m => some (lay 0x3E#7 g d a (0#4 ++ f ++ t) m)
  | .vdqmx g d a t f h m => some (lay 0x3F#7 g d a (0#3 ++ t ++ f ++ h) m)
  | .vexp g d a f m => some (lay 0x40#7 g d a (0#5 ++ f) m)
  | .vlog g d a f m => some (lay 0x41#7 g d a (0#5 ++ f) m)
  | .vrcp g d a f m => some (lay 0x42#7 g d a (0#5 ++ f) m)
  | .vrsqrt g d a f m => some (lay 0x43#7 g d a (0#5 ++ f) m)
  | .vsqrt g d a f m => some (lay 0x44#7 g d a (0#5 ++ f) m)
  | .vtanh g d a f m => some (lay 0x45#7 g d a (0#5 ++ f) m)
  | .vsigm g d a f m => some (lay 0x46#7 g d a (0#5 ++ f) m)
  | .vsin g d a f m => some (lay 0x47#7 g d a (0#5 ++ f) m)
  | .vcos g d a f m => some (lay 0x48#7 g d a (0#5 ++ f) m)
  | .vfdiv g d a b m => some (lay 0x49#7 g d a b m)
  | .xpprob g d a b m => some (lay 0x4A#7 g d a b m)
  | .vxshl g d a k m => some (lay 0x50#7 g d a (0#3 ++ k) m)
  | .vxshr g d a k m => some (lay 0x51#7 g d a (0#3 ++ k) m)
  | .vxrotl g d a k m => some (lay 0x52#7 g d a (0#3 ++ k) m)
  | .vxrotr g d a k m => some (lay 0x53#7 g d a (0#3 ++ k) m)
  | .vxbcast g d a c m => some (lay 0x54#7 g d a (0#3 ++ c) m)
  | .vredsum g d a f m => some (lay 0x60#7 g d a (0#5 ++ f) m)
  | .vredmin g d a t m => some (lay 0x61#7 g d a (0#4 ++ t) m)
  | .vredmax g d a t m => some (lay 0x62#7 g d a (0#4 ++ t) m)
  | .vredsumi g d a t m => some (lay 0x63#7 g d a (0#5 ++ t) m)
  | .vscan g d a n u e m => some (lay 0x64#7 g d a (0#3 ++ n ++ u ++ e) m)
  | .vperm g d a b m => some (lay 0x65#7 g d a b m)
  | .vslideup g d a k m => some (lay 0x66#7 g d a (0#2 ++ k) m)
  | .vslidedn g d a k m => some (lay 0x67#7 g d a (0#2 ++ k) m)
  | .vcompress g d a m => some (lay 0x68#7 g d a 0#6 m)
  | .vexpand g d a m => some (lay 0x69#7 g d a 0#6 m)
  | .visect g d a b m => some (lay 0x6A#7 g d a b m)
  | .mma g z => some (lay 0x00#7 g 0#6 0#6 0#6 z)
  | .mmaZs g z => some (lay 0x01#7 g 0#6 0#6 0#6 z)
  | .mmad g z => some (lay 0x02#7 g 0#6 0#6 0#6 z)
  | .mmadZs g z => some (lay 0x03#7 g 0#6 0#6 0#6 z)
  | .mmx g b a z => some (lay 0x04#7 g 0#6 (0#4 ++ b ++ a) 0#6 z)
  | .mmxZs g b a z => some (lay 0x05#7 g 0#6 (0#4 ++ b ++ a) 0#6 z)
  | .zclr g z => some (lay 0x06#7 g 0#6 0#6 0#6 z)
  | .zld g a f z => some (lay 0x07#7 g 0#6 a (0#5 ++ f) z)
  | .zst g a z => some (lay 0x08#7 g 0#6 a 0#6 z)
  | .zstb g a r z => some (lay 0x09#7 g 0#6 a (0#3 ++ r) z)
  | .qdrop g a i => some (layI 0x0A#7 g 0#6 a i)
  | .xfwd g d a k f p => some (lay 0x10#7 g d a (k ++ 0#4 ++ f) p)
  | .xbwd g d a k f p => some (lay 0x11#7 g d a (k ++ 0#4 ++ f) p)
  | .xupd g l a k p => some (lay 0x12#7 g l a (k ++ 0#5) p)
  | .xxfer g l a k u w p => some (lay 0x13#7 g l a (k ++ 0#3 ++ u ++ w) p)
  | .xwin g a k p => some (lay 0x14#7 g 0#6 a (k ++ 0#5) p)
  | .xwinX g w k p _ => some (lay 0x14#7 g (0#2 ++ w) 0#6 (k ++ 0#5) p)
  | .xgain g a k p => some (lay 0x15#7 g 0#6 a (k ++ 0#5) p)
  | .xseed g a k p => some (lay 0x16#7 g 0#6 a (k ++ 0#5) p)
  | .xrst g l k p => some (lay 0x17#7 g l 0#6 (k ++ 0#5) p)
  | .xstat g d k u p => some (lay 0x18#7 g d 0#6 (k ++ 0#2 ++ u) p)
  | .ld g d a b u _ => some (lay 0x00#7 g d a b u)
  | .st g d a b u _ => some (lay 0x01#7 g d a b u)
  | .vld g d a b _ => some (lay 0x02#7 g d a b 0#3)
  | .vldBc g d a b _ => some (lay 0x02#7 g d a b 1#3)
  | .vst g d a b _ => some (lay 0x03#7 g d a b 0#3)
  | .vldb g d a b t _ => some (lay 0x04#7 g d a b (0#2 ++ t))
  | .vstb g d a b t _ => some (lay 0x05#7 g d a b (0#2 ++ t))
  | .gath g d a b c => some (lay 0x06#7 g d a b c)
  | .scat g d a b c => some (lay 0x07#7 g d a b c)
  | .drain g => some (lay 0x08#7 g 0#6 0#6 0#6 0#3)
  | .msend g d a b => some (lay 0x10#7 g d a b 0#3)
  | .mcast g d a b => some (lay 0x11#7 g d a b 0#3)
  | .dsend g d a b => some (lay 0x12#7 g d a b 0#3)
  | .qld g n q a _ => some (lay 0x13#7 g (n ++ q) a 0#6 0#3)
  | .qldDxb8 g n q a b _ => some (lay 0x13#7 g (n ++ q) a b 1#3)
  | .qldMx8 g n q a b _ => some (lay 0x13#7 g (n ++ q) a b 2#3)
  | .hrd g d a b _ => some (lay 0x20#7 g d a b 0#3)
  | .hrdQ g q a b _ => some (lay 0x20#7 g (0#5 ++ q) a b 1#3)
  | .hrdg g d a b => some (lay 0x21#7 g d a b 0#3)
  | .hrdgQ g q a b => some (lay 0x21#7 g (0#5 ++ q) a b 1#3)
  | .hrdt g q a b => some (lay 0x22#7 g (0#5 ++ q) a b 0#3)
  | .hwr g d a b _ => some (lay 0x23#7 g d a b 0#3)
  | .cfill g f a b => some (lay 0x24#7 g (0#2 ++ f) a b 0#3)
  | .acpy g t a e k => some (lay 0x30#7 g t a (0#1 ++ e ++ k) 0#3)
  | .aatom g t a e k => some (lay 0x31#7 g t a (0#1 ++ e ++ k) 0#3)
  | .ared g t a e k => some (lay 0x32#7 g t a (0#1 ++ e ++ k) 0#3)
  | .arestripe g t a e k => some (lay 0x33#7 g t a (0#1 ++ e ++ k) 0#3)
  | .acoll g t a e k => some (lay 0x34#7 g t a (0#1 ++ e ++ k) 0#3)
  | .amcast g t a e k => some (lay 0x35#7 g t a (0#1 ++ e ++ k) 0#3)
  | .xckpt g t a e k => some (lay 0x36#7 g t a (0#1 ++ e ++ k) 0#3)
  | .xprog g t a e k => some (lay 0x37#7 g t a (0#1 ++ e ++ k) 0#3)
  | .xcal g t a e k => some (lay 0x38#7 g t a (0#1 ++ e ++ k) 0#3)
  | .xsym g t a e k => some (lay 0x39#7 g t a (0#1 ++ e ++ k) 0#3)
  | .barinit g t a e k => some (lay 0x3A#7 g t a (0#1 ++ e ++ k) 0#3)
  | .bararv g t a e k => some (lay 0x3B#7 g t a (0#1 ++ e ++ k) 0#3)
  | .barwait g t a e k => some (lay 0x3C#7 g t a (0#1 ++ e ++ k) 0#3)
  | .fence g t u e k => some (lay 0x3D#7 g t (0#3 ++ u) (0#1 ++ e ++ k) 0#3)
  | .bundleFetch => none
  | .emptyBundle => none
  | .halyardBeat => none
  | .resultLand => none
  | .drawCounterAdvance => none
  | .storePerform => none
  | .branchTakenRedirect => none
  | .loopIterationStep => none
  | .hoistEntry => none
  | .contextSwitchStart => none
  | .meshFlitDelivery => none
  | .crossDieDelivery => none
  | .ucieFlitRetry => none
  | .hbmLineCommand => none
  | .hbmLineLand => none
  | .hbmLinePerform => none
  | .fifoPositionLand => none
  | .codeFrameFillComplete => none
  | .mmaAccumulatorLand => none
  | .arrayReadResult => none
  | .arrayPulseSlot => none
  | .transferDigitalPhase => none
  | .trainComplete => none
  | .engineCommandStart => none
  | .arrayEngineStart => none
  | .engineCommandCompletion => none
  | .reductionEpochClose => none
  | .burgeeVerdict => none
  | .peerTimeout => none
  | .staleForwardingExpiry => none
  | .fabricFlitReceive => none
  | .hostBar4Access => none
  | .hostAtomicop => none
  | .doorbellWrite => none
  | .candidateAdmission => none
  | .dispatchDecision => none
  | .pagesResolved => none
  | .sliceDispatch => none
  | .sliceCompletion => none
  | .graphKernelNode => none
  | .graphCondNode => none
  | .graphLoopNode => none
  | .graphWaitNode => none
  | .graphWaitPoll => none
  | .graphSignalNode => none
  | .graphStepLimit => none
  | .cpLockstepMismatch => none
  | .cpRestartComplete => none
  | .queueUnpark => none
  | .translationInvalidate => none
  | .seqLockstepMismatch => none
  | .rewind => none
  | .sliceFailureCompletion => none
  | .preemptRequest => none
  | .preemptFreeze => none
  | .safePointWatchdogExpiry => none
  | .contextSaveComplete => none
  | .contextRestore => none
  | .gangRestart => none
  | .thermalTrip => none
  | .thermalTripClear => none
  | .pairThermalHold => none
  | .pairRetire => none
  | .geometryDrainBegin => none
  | .geoctlAck => none
  | .pwrlimWrite => none
  | .wdogWrite => none
  | .calperWrite => none
  | .registerWrite => none
  | .calibrationTimer => none
  | .moduleReset => none
  | .getVersion => none
  | .getCapabilities => none
  | .negotiateAlgorithms => none
  | .getDigests => none
  | .getCertificate => none
  | .challenge => none
  | .getMeasurements => none
  | .pldmBaseDiscovery => none
  | .pldmPlatformMonitoring => none
  | .pldmFirmwareUpdate => none
  | .readFaults => none
  | .readGeometry => none
  | .regAccess => none
  | .resetDie => none
  | .resetModule => none
  | .targWrite => none
  | .powerLoss => none
  | .fabricUp => none

/-- The X word an instruction owns. -/
def Instr.xWord : Instr → Option Half
  | .add _ _ _ _ _ => none
  | .sub _ _ _ _ _ => none
  | .and _ _ _ _ => none
  | .or _ _ _ _ => none
  | .xor _ _ _ _ => none
  | .andn _ _ _ _ => none
  | .shl _ _ _ _ => none
  | .shr _ _ _ _ => none
  | .sar _ _ _ _ => none
  | .rotl _ _ _ _ => none
  | .min _ _ _ _ => none
  | .max _ _ _ _ => none
  | .minn _ _ _ _ => none
  | .maxn _ _ _ _ => none
  | .sel _ _ _ _ _ => none
  | .popc _ _ _ => none
  | .addi _ _ _ i => i.x?
  | .andi _ _ _ i => i.x?
  | .ori _ _ _ i => i.x?
  | .xori _ _ _ i => i.x?
  | .shli _ _ _ _ => none
  | .shri _ _ _ _ => none
  | .sari _ _ _ _ => none
  | .rotli _ _ _ _ => none
  | .movi _ _ i => i.x?
  | .movhi _ _ _ x => some x
  | .clz _ _ _ => none
  | .ctz _ _ _ => none
  | .bext _ _ _ _ _ => none
  | .bins _ _ _ _ => none
  | .sxt _ _ _ _ => none
  | .zxt _ _ _ _ => none
  | .mul _ _ _ _ _ => none
  | .mulh _ _ _ _ => none
  | .mulhn _ _ _ _ => none
  | .muli _ _ _ i => i.x?
  | .div _ _ _ _ => none
  | .divn _ _ _ _ => none
  | .rem _ _ _ _ => none
  | .remn _ _ _ _ => none
  | .cmp _ _ _ _ _ => none
  | .cmpi _ _ _ _ i => i.x?
  | .pand _ _ _ _ => none
  | .por _ _ _ _ => none
  | .pxor _ _ _ _ => none
  | .pandn _ _ _ _ => none
  | .pset _ _ _ => none
  | .psetAll _ _ => none
  | .pget _ _ _ => none
  | .pgetAll _ _ => none
  | .fadd _ _ _ _ _ => none
  | .fsub _ _ _ _ _ => none
  | .fmul _ _ _ _ _ => none
  | .fdiv _ _ _ _ _ => none
  | .fsqrt _ _ _ _ => none
  | .fma _ _ _ _ _ => none
  | .fmin _ _ _ _ => none
  | .fmax _ _ _ _ => none
  | .fcmp _ _ _ _ _ => none
  | .fcvtBf16Fp32 _ _ _ _ => none
  | .fcvtFp32Bf16 _ _ _ => none
  | .faddBf16 _ _ _ _ _ => none
  | .fsubBf16 _ _ _ _ _ => none
  | .fmulBf16 _ _ _ _ _ => none
  | .fdivBf16 _ _ _ _ _ => none
  | .fsqrtBf16 _ _ _ _ => none
  | .fmaBf16 _ _ _ _ _ => none
  | .fminBf16 _ _ _ _ => none
  | .fmaxBf16 _ _ _ _ => none
  | .fcmpBf16 _ _ _ _ _ => none
  | .br _ i => i.x?
  | .brl _ _ i => i.x?
  | .brx _ _ => none
  | .brlx _ _ _ => none
  | .loop _ _ x => some x
  | .loopg _ _ _ i => i.x?
  | .pin _ i => i.x?
  | .rdv _ => none
  | .rdvfin _ => none
  | .predwait _ => none
  | .swapctx _ => none
  | .mfs _ _ _ => none
  | .mts _ _ _ => none
  | .mtsi _ _ i => i.x?
  | .ficvt _ _ _ _ _ _ => none
  | .ifcvt _ _ _ _ _ _ => none
  | .trig _ => none
  | .trap _ _ => none
  | .sburg _ _ => none
  | .waitk _ _ _ => none
  | .waitkReg _ _ _ => none
  | .draw _ _ => none
  | .vadd _ _ _ _ _ => none
  | .vsub _ _ _ _ _ => none
  | .vmul _ _ _ _ _ => none
  | .vmulh _ _ _ _ _ => none
  | .vmulhn _ _ _ _ _ => none
  | .vmin _ _ _ _ _ => none
  | .vmax _ _ _ _ _ => none
  | .vminn _ _ _ _ _ => none
  | .vmaxn _ _ _ _ _ => none
  | .vand _ _ _ _ _ => none
  | .vor _ _ _ _ _ => none
  | .vxor _ _ _ _ _ => none
  | .vandn _ _ _ _ _ => none
  | .vshl _ _ _ _ _ => none
  | .vshr _ _ _ _ _ => none
  | .vsar _ _ _ _ _ => none
  | .vadds _ _ _ _ _ => none
  | .vaddsn _ _ _ _ _ => none
  | .vsubs _ _ _ _ _ => none
  | .vsubsn _ _ _ _ _ => none
  | .vadd16 _ _ _ _ _ => none
  | .vsub16 _ _ _ _ _ => none
  | .vadds16 _ _ _ _ _ => none
  | .vsubs16 _ _ _ _ _ => none
  | .vmul16 _ _ _ _ _ => none
  | .vabs _ _ _ _ _ => none
  | .vneg _ _ _ _ _ => none
  | .vsel _ _ _ _ _ => none
  | .vmov _ _ _ _ => none
  | .vmovScalar _ _ _ _ => none
  | .vmovi _ _ i _ => i.x?
  | .vshli _ _ _ _ _ => none
  | .vsari _ _ _ _ _ => none
  | .vcmpeq _ _ _ _ _ => none
  | .vcmpne _ _ _ _ _ => none
  | .vcmplt _ _ _ _ _ => none
  | .vcmple _ _ _ _ _ => none
  | .vcmpltn _ _ _ _ _ => none
  | .vcmplen _ _ _ _ _ => none
  | .vfcmpeq _ _ _ _ _ _ => none
  | .vfcmplt _ _ _ _ _ _ => none
  | .vfcmple _ _ _ _ _ _ => none
  | .mand _ _ _ _ => none
  | .mor _ _ _ _ => none
  | .mxor _ _ _ _ => none
  | .mandn _ _ _ _ => none
  | .mpop _ _ _ _ => none
  | .mset _ _ _ _ => none
  | .msetRange _ _ _ _ => none
  | .msetPat _ _ x => some x
  | .vburg _ _ _ => none
  | .vfadd _ _ _ _ _ => none
  | .vfsub _ _ _ _ _ => none
  | .vfmul _ _ _ _ _ => none
  | .vfma _ _ _ _ _ => none
  | .vfmin _ _ _ _ _ => none
  | .vfmax _ _ _ _ _ => none
  | .vbadd _ _ _ _ _ => none
  | .vbsub _ _ _ _ _ => none
  | .vbmul _ _ _ _ _ => none
  | .vbfma _ _ _ _ _ => none
  | .vbfmaRs _ _ _ _ _ => none
  | .vcvt _ _ _ _ _ _ => none
  | .vqdxb _ _ _ _ _ _ => none
  | .vdqdxb _ _ _ _ _ _ => none
  | .vqmx _ _ _ _ _ _ => none
  | .vdqmx _ _ _ _ _ _ _ => none
  | .vexp _ _ _ _ _ => none
  | .vlog _ _ _ _ _ => none
  | .vrcp _ _ _ _ _ => none
  | .vrsqrt _ _ _ _ _ => none
  | .vsqrt _ _ _ _ _ => none
  | .vtanh _ _ _ _ _ => none
  | .vsigm _ _ _ _ _ => none
  | .vsin _ _ _ _ _ => none
  | .vcos _ _ _ _ _ => none
  | .vfdiv _ _ _ _ _ => none
  | .xpprob _ _ _ _ _ => none
  | .vxshl _ _ _ _ _ => none
  | .vxshr _ _ _ _ _ => none
  | .vxrotl _ _ _ _ _ => none
  | .vxrotr _ _ _ _ _ => none
  | .vxbcast _ _ _ _ _ => none
  | .vredsum _ _ _ _ _ => none
  | .vredmin _ _ _ _ _ => none
  | .vredmax _ _ _ _ _ => none
  | .vredsumi _ _ _ _ _ => none
  | .vscan _ _ _ _ _ _ _ => none
  | .vperm _ _ _ _ _ => none
  | .vslideup _ _ _ _ _ => none
  | .vslidedn _ _ _ _ _ => none
  | .vcompress _ _ _ _ => none
  | .vexpand _ _ _ _ => none
  | .visect _ _ _ _ _ => none
  | .mma _ _ => none
  | .mmaZs _ _ => none
  | .mmad _ _ => none
  | .mmadZs _ _ => none
  | .mmx _ _ _ _ => none
  | .mmxZs _ _ _ _ => none
  | .zclr _ _ => none
  | .zld _ _ _ _ => none
  | .zst _ _ _ => none
  | .zstb _ _ _ _ => none
  | .qdrop _ _ _ => none
  | .xfwd _ _ _ _ _ _ => none
  | .xbwd _ _ _ _ _ _ => none
  | .xupd _ _ _ _ _ => none
  | .xxfer _ _ _ _ _ _ _ => none
  | .xwin _ _ _ _ => none
  | .xwinX _ _ _ _ x => some x
  | .xgain _ _ _ _ => none
  | .xseed _ _ _ _ => none
  | .xrst _ _ _ _ => none
  | .xstat _ _ _ _ _ => none
  | .ld _ _ _ _ _ x => x
  | .st _ _ _ _ _ x => x
  | .vld _ _ _ _ x => x
  | .vldBc _ _ _ _ x => x
  | .vst _ _ _ _ x => x
  | .vldb _ _ _ _ _ x => x
  | .vstb _ _ _ _ _ x => x
  | .gath _ _ _ _ _ => none
  | .scat _ _ _ _ _ => none
  | .drain _ => none
  | .msend _ _ _ _ => none
  | .mcast _ _ _ _ => none
  | .dsend _ _ _ _ => none
  | .qld _ _ _ _ x => x
  | .qldDxb8 _ _ _ _ _ x => x
  | .qldMx8 _ _ _ _ _ x => x
  | .hrd _ _ _ _ x => x
  | .hrdQ _ _ _ _ x => x
  | .hrdg _ _ _ _ => none
  | .hrdgQ _ _ _ _ => none
  | .hrdt _ _ _ _ => none
  | .hwr _ _ _ _ x => x
  | .cfill _ _ _ _ => none
  | .acpy _ _ _ _ _ => none
  | .aatom _ _ _ _ _ => none
  | .ared _ _ _ _ _ => none
  | .arestripe _ _ _ _ _ => none
  | .acoll _ _ _ _ _ => none
  | .amcast _ _ _ _ _ => none
  | .xckpt _ _ _ _ _ => none
  | .xprog _ _ _ _ _ => none
  | .xcal _ _ _ _ _ => none
  | .xsym _ _ _ _ _ => none
  | .barinit _ _ _ _ _ => none
  | .bararv _ _ _ _ _ => none
  | .barwait _ _ _ _ _ => none
  | .fence _ _ _ _ _ => none
  | .bundleFetch => none
  | .emptyBundle => none
  | .halyardBeat => none
  | .resultLand => none
  | .drawCounterAdvance => none
  | .storePerform => none
  | .branchTakenRedirect => none
  | .loopIterationStep => none
  | .hoistEntry => none
  | .contextSwitchStart => none
  | .meshFlitDelivery => none
  | .crossDieDelivery => none
  | .ucieFlitRetry => none
  | .hbmLineCommand => none
  | .hbmLineLand => none
  | .hbmLinePerform => none
  | .fifoPositionLand => none
  | .codeFrameFillComplete => none
  | .mmaAccumulatorLand => none
  | .arrayReadResult => none
  | .arrayPulseSlot => none
  | .transferDigitalPhase => none
  | .trainComplete => none
  | .engineCommandStart => none
  | .arrayEngineStart => none
  | .engineCommandCompletion => none
  | .reductionEpochClose => none
  | .burgeeVerdict => none
  | .peerTimeout => none
  | .staleForwardingExpiry => none
  | .fabricFlitReceive => none
  | .hostBar4Access => none
  | .hostAtomicop => none
  | .doorbellWrite => none
  | .candidateAdmission => none
  | .dispatchDecision => none
  | .pagesResolved => none
  | .sliceDispatch => none
  | .sliceCompletion => none
  | .graphKernelNode => none
  | .graphCondNode => none
  | .graphLoopNode => none
  | .graphWaitNode => none
  | .graphWaitPoll => none
  | .graphSignalNode => none
  | .graphStepLimit => none
  | .cpLockstepMismatch => none
  | .cpRestartComplete => none
  | .queueUnpark => none
  | .translationInvalidate => none
  | .seqLockstepMismatch => none
  | .rewind => none
  | .sliceFailureCompletion => none
  | .preemptRequest => none
  | .preemptFreeze => none
  | .safePointWatchdogExpiry => none
  | .contextSaveComplete => none
  | .contextRestore => none
  | .gangRestart => none
  | .thermalTrip => none
  | .thermalTripClear => none
  | .pairThermalHold => none
  | .pairRetire => none
  | .geometryDrainBegin => none
  | .geoctlAck => none
  | .pwrlimWrite => none
  | .wdogWrite => none
  | .calperWrite => none
  | .registerWrite => none
  | .calibrationTimer => none
  | .moduleReset => none
  | .getVersion => none
  | .getCapabilities => none
  | .negotiateAlgorithms => none
  | .getDigests => none
  | .getCertificate => none
  | .challenge => none
  | .getMeasurements => none
  | .pldmBaseDiscovery => none
  | .pldmPlatformMonitoring => none
  | .pldmFirmwareUpdate => none
  | .readFaults => none
  | .readGeometry => none
  | .regAccess => none
  | .resetDie => none
  | .resetModule => none
  | .targWrite => none
  | .powerLoss => none
  | .fabricUp => none

/-- `encode`: the class, slot word and X word of an instruction. -/
def encode (i : Instr) : Option (SlotClass × Half × Option Half) :=
  match i.slotClass?, i.word with
  | some c, some w => some (c, w, i.xWord)
  | _, _ => none

/-- A slot of a class that may hold an opcode: the restricted rows of R82 name their own. -/
def slotFor (c : SlotClass) (op : Nat) : Nat :=
  match c with
  | .S => 0
  | .V => if op / 16 = 5 then 2 else 1
  | .M => 3
  | .C => if op / 16 = 1 then 5 else 4

/-- Decode a lone slot word of a class, with an X word of zeros where the form requires one (R80). -/
def decodeLone (c : SlotClass) (w : Half) : Option (Nat × Option Half × Instr) :=
  let slot := slotFor c (w.extractLsb' 25 7).toNat
  match decodeSlot 8 slot w none with
  | .ok i => some (slot, none, i)
  | .error e =>
    if e = 0x0C then
      match decodeSlot 8 slot w (some 0) with
      | .ok i => some (slot, some 0, i)
      | .error _ => none
    else none

/-- The instruction a table word stands for. Slot words of the four maps share their bits, and a word alone names no
slot: the classes are tried in the order S, V, M, C of the bundle (log entry 24). -/
def decodeTable (w : Half) : Option (Nat × Option Half × Instr) :=
  (decodeLone .S w).or ((decodeLone .V w).or ((decodeLone .M w).or (decodeLone .C w)))

/-- The instruction this decoder reads from a table row's word. -/
def decodeTableWord (nbits w : Nat) : Option Instr :=
  if nbits = 32 ∧ w < 2 ^ 32 then (decodeTable (BitVec.ofNat 32 w)).map (·.2.2) else none


end Sys2Proof
end

