-- ==== Sys2Proof/Machine/Table.lean ====
section
/-! DEFINITION. Tables: sorted lists of (key, value) pairs, the one representation of sparse state. -/

namespace Sys2Proof.Machine

/-- A sparse map from numbers: key and value pairs, keys rising. An unlisted key reads as the reader's default. -/
abbrev Table (α : Type) := List (Nat × α)

/-- The value at a key, or `d` where the table lists none. -/
def tget {α : Type} (d : α) : Table α → Nat → α
  | [], _ => d
  | (j, w) :: r, i => if i = j then w else tget d r i

/-- The table with the value at key `i` replaced or inserted in order. -/
def tset {α : Type} : Table α → Nat → α → Table α
  | [], i, v => [(i, v)]
  | (j, w) :: r, i, v =>
    if i < j then (i, v) :: (j, w) :: r
    else if i = j then (i, v) :: r
    else (j, w) :: tset r i v

/-- The table without key `i`. -/
def tdel {α : Type} : Table α → Nat → Table α
  | [], _ => []
  | (j, w) :: r, i => if i = j then tdel r i else (j, w) :: tdel r i

/-- The listed value at a key, if any. -/
def tfind {α : Type} : Table α → Nat → Option α
  | [], _ => none
  | (j, w) :: r, i => if i = j then some w else tfind r i

/-- The keys a table lists. -/
def tkeys {α : Type} (t : Table α) : List Nat := t.map (·.1)

/-- Set a list of consecutive keys from `i` on. -/
def tsetRun {α : Type} : Table α → Nat → List α → Table α
  | t, _, [] => t
  | t, i, v :: vs => tsetRun (tset t i v) (i + 1) vs

end Sys2Proof.Machine
end

