-- ==== Sys2Proof/Machine/State.lean ====
section
/-! DEFINITION. The state of the module as plain data, and the state right after reset. -/

namespace Sys2Proof.Machine

/-! ### Registers of a context -/

/-- One entry of the loop stack (R20), with the ROT bit of R135. -/
structure Loop where
  start : BitVec 16
  stop : BitVec 16
  count : Nat
  rot : Bool
  deriving DecidableEq, Repr

/-- One stream FIFO: its 64 slots of 512 bits and a 32-bit tag, the position counters Wq and Cq, which do not wrap (log entry
16), the landing cycle of each reserved position and the cycle each claimed position is free (R174, R177, R178). -/
structure Fifo where
  slots : Table (BitVec 512 × BitVec 32) := []
  wq : Nat := 0
  cq : Nat := 0
  land : Table Nat := []
  free : Table Nat := []
  deriving DecidableEq, Repr

/-- The architectural registers of a context that the hoist-entry snapshot holds (R20, R21, R41, R121, R126, R127,
R137, R174, R274, R354). Registers are physical: rotation is applied by the accessors (R133). -/
structure Regs where
  /-- g1-g31; g0 is never listed (R20). -/
  g : Table Word := []
  /-- p1-p15 (R20). -/
  p : Table Bool := []
  /-- The loop stack, innermost first (R20). -/
  loops : List Loop := []
  /-- The byte address of the next bundle (R20). -/
  pc : BitVec 16 := 0
  fstat : BitVec 6 := 0
  burg : Word := 0
  seedlo : Word := 0
  seedhi : Word := 0
  dcnt : Word := 0
  rotpos : Nat := 0
  tcode : BitVec 16 := 0
  targ : Word := 0
  tbeat : Word := 0
  /-- v0-v127, each a table of 128 lanes (R126). -/
  v : Table (Table Half) := []
  /-- m1-m7; m0 reads as all ones (R127). -/
  m : Table (BitVec 128) := []
  /-- z0-z7, each a table of 32 x 32 elements keyed 32 i + j (R174). -/
  z : Table (Table Half) := []
  q0 : Fifo := {}
  q1 : Fifo := {}
  /-- HCYC of the last MMA of the hoist (R180). -/
  lastMma : Option Nat := none
  /-- AWIN and AGAIN by pair number 0-15 of the tile's naming (R270). -/
  awin : Table (BitVec 36) := []
  again : Table (BitVec 20) := []
  /-- Counters k0-k15 (R356). -/
  k : Table (BitVec 16) := []
  /-- Token bindings t0-t63: a command identity, or 0 for the notional command completed OK (R351). -/
  tok : Table Nat := []
  /-- Poison marks of registers, keyed by unit; true when found by an error of the current attempt (R381, R383). -/
  marks : Table Bool := []
  deriving DecidableEq, Repr

/-! ### Results and accesses in flight -/

/-- What an item in flight does at its beat (R30, R33, R220, and the chapters of each unit). -/
inductive Act where
  /-- A general register land. -/
  | g (r : Nat) (v : Word) (mk : Bool)
  /-- A predicate land. -/
  | p (r : Nat) (v : Bool) (mk : Bool)
  /-- The fifteen lands of `pset.all` (R108), by physical predicate. -/
  | preds (v : List (Nat × Bool))
  /-- Lands on lanes of one physical vector register: lane, value, mark. -/
  | lanes (n : Nat) (vals : List (Nat × Half × Bool))
  /-- A mask register land. -/
  | m (n : Nat) (v : BitVec 128) (mk : Bool)
  /-- A special-register land by index (R120). -/
  | sreg (i : Nat) (v : Word)
  /-- FSTAT flags (R22). -/
  | flags (f : BitVec 6)
  /-- A fold of words into BURG (R124, R172). -/
  | fold (ws : List Word)
  /-- The draw counter's advance (R54). -/
  | draws (n : Nat)
  /-- AWIN, AGAIN and XSEED lands (R311-R313). -/
  | awin (pair : Nat) (v : BitVec 36)
  | again (pair : Nat) (v : BitVec 20)
  | xseed (pid : Nat) (v : Word)
  /-- A write of chunks of a tile's pool: offset, bytes, mark (R219, R220). -/
  | pool (tile : Nat) (chunks : List (Nat × List Byte × Bool))
  /-- A pool read of the second half of `vld` into lanes of a physical vector register (R221). -/
  | vldHalf (n : Nat) (off : Nat)
  /-- The scale read of `vldb`: per cluster the payload lanes read so far and the scale address (R222). -/
  | vldbScale (n : Nat) (dxb : Bool) (parts : List (Nat × Nat × List (Half × Bool)))
  /-- A pool read of one group of `qld`: FIFO, positions with payload and scale addresses, tag bytes (R226). -/
  | qldGroup (q : Nat) (tagBytes : Nat) (entries : List (Nat × Nat × Nat))
  | qldScale (q : Nat) (tagBytes : Nat) (entries : List (Nat × BitVec 512 × Bool × Nat))
  /-- A FIFO position's landing: position, payload, tag, mark (R177). -/
  | fifo (q : Nat) (entries : List (Nat × BitVec 512 × BitVec 32 × Bool))
  /-- A flit's delivery into a tile's pool, over the mesh or between dies (R141, R145). -/
  | flit (dies : Bool) (tile : Nat) (off : Nat) (bytes : List Byte) (marks : List Bool)
  /-- Arrival of a flit at its member: it clears SC live and is observable from now (R387). -/
  | arrive (dies : Bool) (ctx : Nat)
  /-- A timetabled HBM read line: where it lies, where it lands (R230, R231). -/
  | hbmRead (loc : Nat) (land : Nat) (dst : Nat) (tgt : Nat) (pos : Nat)
  /-- The data of a read line, by where it lay, at its landing: destination kind 0 pool, 1 FIFO, 2 transposing FIFO, 3 code frame. -/
  | hbmLand (loc : Nat) (dst : Nat) (tgt : Nat) (pos : Nat) (bytes : List Byte) (mk : Bool)
  /-- A timetabled HBM write line: the pool read of its command cycle, then its perform (R234). -/
  | hbmWrite (loc : Nat) (tile : Nat) (off : Nat)
  | hbmPerform (loc : Nat) (bytes : List Byte) (mk : Bool)
  /-- A code frame becomes invalid, or valid again (R236). -/
  | frame (tile : Nat) (f : Nat) (valid : Bool)
  /-- The 32 positions of an `hrdt` tile land together: FIFO, first position, lines gathered so far (R233). -/
  | hrdtLand (q : Nat) (pos : Nat) (key : Nat)
  /-- An MMA's entry read at c + r: kind (0 bf16, 1 dxb8, 2 mx8), zero skip, types, accumulator, first positions,
  step r and the operand rows read so far (R180). -/
  | mmaRead (kind : Nat) (zs : Bool) (ta tb : Bool) (z : Nat) (c0 c1 : Nat) (r : Nat)
      (rows cols : List (BitVec 512 × BitVec 32))
  /-- The accumulator read at c + 39 (R175, R180). -/
  | mmaAcc (kind : Nat) (zs : Bool) (ta tb : Bool) (z : Nat) (rows cols : List (BitVec 512 × BitVec 32))
  /-- Lands on an accumulator: element, value; rows marked (R180, R182, R183). -/
  | zland (z : Nat) (vals : List (Nat × Half)) (rows : List Nat)
  /-- `zld` row-group reads: format bf16, accumulator, pool offset, group, elements so far, marked rows, flags. -/
  | zldRow (bf : Bool) (z : Nat) (off : Nat) (s : Nat) (vals : List (Nat × Half)) (rows : List Nat) (f : BitVec 6)
  /-- `zst`/`zstb` accumulator read, then row-group writes follow (R183). -/
  | zstRead (bf : Bool) (mode : Nat) (z : Nat) (off : Nat) (lo hi dcnt : Word)
  /-- An analog operation's pool read of one input group, and its pool write of one output group (R305). -/
  | ain (op group : Nat)
  | aout (op group : Nat)
  /-- One slot of a pulse train, the digital phase of a transfer, and the end of a train (R283, R286). -/
  | pulse (op slot : Nat)
  | digital (op : Nat)
  | train (op : Nat)
  /-- A flit or line abandoned after its third retry: LINK_REPLAY on a context at the landing or perform beat, and what it
  would have done, which does not happen (R386, R409). -/
  | lost (ctx : Nat) (act : Act)
  deriving DecidableEq, Repr

/-- An item in flight (R386, R390): its beat, the beat it counts at for a rendezvous (R43, R149) and for `drain`
(R237), 0 where it counts at neither; its slot and issue beat; whether it runs on while its gang is frozen (R390). -/
structure Item where
  due : Nat
  fin : Nat := 0
  dr : Nat := 0
  slot : Nat
  issued : Nat
  rt : Bool := false
  act : Act
  /-- Link retries so far (R409). -/
  tries : Nat := 0
  /-- A read of it has consumed poison: what it yields is marked (R386, R406). -/
  bad : Bool := false
  deriving DecidableEq, Repr

/-- A land announced at issue, for write collisions (R32, R129): register key, landing beat, lanes, whether it is
a fold, which never collides with another fold (R124), its issue beat and its slot. -/
structure LandClaim where
  key : Nat
  beat : Nat
  mask : BitVec 128
  soft : Bool
  issued : Nat
  slot : Nat
  deriving DecidableEq, Repr

/-- A resource that serves one access in a cycle: a pool bank (R147), an ejection port or a mesh link (R144), a ring
slot of a boundary direction (R145). -/
inductive Res where
  | bank (tile b : Nat)
  | eject (tile : Nat)
  | link (tile dir : Nat)
  | ring (fromDie toDie slot : Nat)
  deriving DecidableEq, Repr

/-- A reservation of a resource for one beat, with its claimant: context, slot, issue beat, and HCYC at issue (R144,
R148, R385). -/
structure Claim where
  res : Res
  beat : Nat
  ctx : Nat
  slot : Nat
  issued : Nat
  hcyc : Nat
  deriving DecidableEq, Repr

/-- A reserved HBM line: its stripe unit, bank and command beat (R208). -/
structure Line where
  unit : Nat
  bank : Nat
  beat : Nat
  ctx : Nat
  issued : Nat
  deriving DecidableEq, Repr

/-! ### Sequencer state of a context -/

/-- What a context bank is doing (R25, R118, R388, R390, R395). -/
inductive Run where
  /-- No context in the bank. -/
  | empty
  /-- Placed by the dispatcher or left by `swapctx`: starts a hoist when its bank runs. -/
  | ready
  /-- Issues its next bundle at `nextAt`. -/
  | running
  /-- Waits at a rendezvous form for its gang. -/
  | waiting
  /-- Rewinding until its replay entry at `nextAt`. -/
  | rewinding
  /-- Its `rdvfin` or its failure has ended the slice here. -/
  | done
  deriving DecidableEq, Repr

/-- The rendezvous forms (R117, R358). -/
inductive Rdv | rdv | rdvfin | predwait | swapctx | waitk
  deriving DecidableEq, Repr

/-- A wait at a rendezvous: its form, the beat e at which what it issued has landed, the counter condition of `waitk`, and
the HCYC at which it stands (R43, R357, R358). -/
structure Wait where
  form : Rdv
  ends : Nat
  k : Nat := 0
  n : BitVec 16 := 0
  /-- A `waitk` whose counter has not reached n yet. -/
  pend : Bool := false
  /-- The beat W at which it reached n; the issue beat where it had already, and for the other forms. -/
  w : Nat := 0
  /-- HCYC at e, which it keeps from then on. -/
  hc : Nat := 0
  deriving DecidableEq, Repr

/-- A branch whose delay bundles are still to issue (R35). -/
structure Delay where
  taken : Bool
  target : BitVec 16
  left : Nat
  deriving DecidableEq, Repr

/-- One row of the extent table (R193). -/
structure Extent where
  base : BitVec 57 := 0
  len : Nat := 0
  valid : Bool := false
  wr : Bool := false
  kind : Nat := 0
  place : BitVec 32 := 0
  deriving DecidableEq, Repr

/-- One entry of the hoist-mark store (R95). -/
structure HoistMark where
  entry : BitVec 16
  rs : Bool
  hbm : Bool
  apeak : Nat
  safe : List (Nat × Nat)
  deriving DecidableEq, Repr

/-- An analog operation issued by a context (R279): what it read at issue, its occupancy, what it has read since. -/
structure AnOp where
  /-- 0 forward read, 1 backward read, 2 update, 3 symmetry reset, 4 transfer. -/
  kind : Nat
  /-- Global ID of the pair (R269). -/
  pid : Nat
  first : Nat
  /-- The last beat at which it occupies its pair. -/
  last : Nat
  win : BitVec 36
  gain : BitVec 20 := 0
  seed : Word := 0
  step : Half := 0
  src : Nat := 0
  dst : Nat := 0
  dxb : Bool := false
  bl : Nat := 0
  line : Nat := 0
  row : Bool := false
  rst : Bool := false
  nu : BitVec 16 := 0
  /-- Input bytes read so far, and output elements. -/
  ins : List Byte := []
  outs : List Half := []
  /-- Lines that may fire, with threshold and sign bit (R283). -/
  kr : List (Nat × Nat × Bool) := []
  kc : List (Nat × Nat × Bool) := []
  /-- Its last input read has been made: it is in flight and not merely held (R298). -/
  begun : Bool := false
  deriving DecidableEq, Repr

/-- Who makes an asynchronous access, for the queue of a committing page (R368) and for what must have reached memory first
(R413): an engine command, the host, a graph, a message received, a write held at a window's home, the preparation of a
slice, or nobody that waits. -/
inductive Asker where
  | none
  | cmd (c i : Nat)
  | host
  | graph (id : Nat)
  | flit (n : Nat)
  | line (asid line : Nat)
  | load (gid : Nat)
  deriving DecidableEq, Repr

/-- An engine command, issued and perhaps completed (R346-R351, R315): its block as read, its token, counter and
producers, and how far it is. -/
structure Cmd where
  /-- C-map opcode, 0x30-0x3D. -/
  op : Nat
  blk : List Byte := []
  /-- Pool offset of the block. -/
  pos : Nat := 0
  cnt : Option Nat := none
  /-- Producers of the consumed tokens, TOK0 first; 0 is the notional command. -/
  prods : List Nat := []
  /-- Scope of a fence (R366). -/
  scope : Nat := 0
  issued : Nat
  /-- No step of it before this beat: free durations (log entry 10). -/
  wake : Nat
  started : Bool := false
  /-- Units, rows or passes done. -/
  prog : Nat := 0
  /-- Running CRC-32C, where one is computed (R361). -/
  crc : Option Nat := none
  /-- Gather indices read and still used: row, index, whether it carried poison (R360). -/
  idx : List (Nat × Nat × Bool) := []
  /-- Some data written carries poison (R349). -/
  pois : Bool := false
  /-- Cells left out of tolerance by `xprog`, one more than its lowest poisoned row, and the count of a programmed row still
  to be reported (R320). -/
  total : Nat := 0
  low : Nat := 0
  count : Option Nat := none
  /-- The module digest and the number of the instance, for a synchronising collective (R418, R420). -/
  mdig : Word := 0
  inst : Option Nat := none
  /-- Receivers that have answered, for remote work (R359, R424). -/
  answers : Nat := 0
  /-- Pieces of a unit still to be sent to another module, with their marks; messages of a copy sent; and the number of
  this run of the copy, which its answers carry (R355, R359, R411). -/
  out : List (Nat × List (Byte × Bool)) := []
  asked : Nat := 0
  gen : Nat := 0
  /-- Bits that an error flips in the engine's buffer before they are written: byte of the copy, mask (R430). -/
  flips : List (Nat × Nat) := []
  /-- RESULT or MDIG to be written with the record: block offset and bytes (R362, R365, R420). -/
  result : Option (Nat × List Byte) := none
  /-- STATUS and DETAIL of a command that has only to wait for answers (R350), or for its bank-cycles (R246). -/
  stop : Option (Nat × Nat) := none
  ending : Option (Nat × Nat) := none
  /-- It holds its pair with PSTATE 1 (R293). -/
  pairHeld : Bool := false
  /-- STATUS, 0 until completion, DETAIL, and the beat of completion (R349). -/
  status : Nat := 0
  detail : Nat := 0
  done : Nat := 0
  /-- Its fault has been raised (R353). -/
  raised : Bool := false
  /-- A copy that a pre-emption has cancelled (R355). -/
  cancelled : Bool := false
  deriving DecidableEq, Repr

/-- One context bank of a tile. -/
structure Ctx where
  run : Run := .empty
  regs : Regs := {}
  /-- The hoist-entry snapshot (R41). -/
  snap : Regs := {}
  items : List Item := []
  lands : List LandClaim := []
  /-- Beat of the next bundle, replay entry or resumption. -/
  nextAt : Nat := 0
  /-- The beat at which HCYC was 0, while HCYC runs (R29, R139). -/
  hbase : Nat := 0
  /-- HCYC while it stands still. -/
  hz : Nat := 0
  delay : Option Delay := none
  redirect : Option (BitVec 16) := none
  loopStep : Bool := false
  wait : Option Wait := none
  gang : Nat := 0
  /-- Position in the gang: gang die index, row, column (R138). -/
  pos : Nat × Nat × Nat := (0, 0, 0)
  ctxid : BitVec 17 := 0
  asid : BitVec 16 := 0
  part : BitVec 32 := 0
  xgrant : BitVec 32 := 0
  budget : Word := 0
  deadln : Word := 0
  rply : BitVec 16 := 0
  /-- RS live and SC live (R387), and the hoist's own mark. -/
  rs : Bool := false
  sc : Bool := false
  mark : HoistMark := ⟨0, false, false, 0, []⟩
  hoists : List HoistMark := []
  extents : Table Extent := []
  /-- Analog operations by number, and the next number; kept while their occupancy may count (R279, R303). -/
  ops : Table AnOp := []
  nextOp : Nat := 0
  /-- XSEED and STEP of the update-granted pairs at hoist entry (R274). -/
  xsnap : Table (Word × Half) := []
  /-- Engine commands of the slice by identity, from 1 (R351). -/
  cmds : Table Cmd := []
  nextCmd : Nat := 1
  /-- Whether the member has issued `trig` in this slice (R122). -/
  trig : Bool := false
  /-- The beat of the fault that started a rewind, and whether the whole gang rewinds (R388). -/
  rew : Option Nat := none
  rewAll : Bool := false
  /-- Latest beat at which something the abandoned attempt issued takes effect (R388). -/
  rewAt : Nat := 0
  /-- The earliest replay beat where a freeze has come between: what was left of the rewind at the freeze is still to come (R388,
  R391). -/
  rewMin : Nat := 0
  /-- First command identity and first analog operation of the hoist (R303, R388). -/
  cmd0 : Nat := 1
  op0 : Nat := 0
  /-- One more than the beat at which its bundle was last issued or tried: the model's own field (log entry 8). -/
  tried : Nat := 0
  /-- Gathered lines of `hrdt` transfers in flight, by key: line number and bytes (R233). -/
  gather : Table (List (Nat × List Byte × Bool)) := []
  deriving DecidableEq, Repr

/-- A code frame of a tile's instruction store: owner context and validity (R191, R236). -/
structure Frame where
  owner : Option Nat := none
  valid : Bool := false
  deriving DecidableEq, Repr

/-! ### Records -/

/-- A fault record (R385). -/
structure Record where
  beat : Nat
  seq : BitVec 32
  src : Nat
  code : Nat
  cls : Nat
  detail : Nat
  slot : Nat
  pc : BitVec 16
  more : Bool := false
  gangRewind : Bool := false
  rs : Bool := false
  sc : Bool := false
  frame : Bool := false
  second : Bool := false
  hcyc : Nat := 0
  gang : Nat := 0
  ctxn : Nat := 0
  asid : Nat := 0
  rply : Nat := 0
  tag : Word := 0
  aux0 : Word := 0
  aux1 : Word := 0
  /-- Fault domain to which it went, which its 64 bytes do not hold (R384, R443). -/
  fd : Nat := 0
  deriving DecidableEq, Repr

/-! ### Gangs -/

/-- Why a gang is frozen (R378, R392, R393, R401, R123). -/
inductive Why | fail | trap | preempt | thermal
  deriving DecidableEq, Repr

/-- A freeze of a gang: its beat, its reason and the beat it restarts, once known (R390, R391). -/
structure Freeze where
  beat : Nat
  why : Why
  restart : Option Nat := none
  deriving DecidableEq, Repr

/-- Where bytes of an image go before B0 (R96, R191): a code frame of a context, a place in a tile's pool, or an address of a
declared range. -/
inductive LoadTo where
  | frame (ctx f : Nat)
  | pool (tile off : Nat)
  | range (va : Nat)
  deriving DecidableEq, Repr

/-- Bytes that are still to be loaded for a slice: their control address, how many, and where they go (R96, R191). -/
structure Load where
  src : Nat
  n : Nat
  dst : LoadTo
  deriving DecidableEq, Repr

/-- What a placed slice still waits for before B0: the ranges whose leaves are to be touched, and the loads in their order
(R96, R190, R191, R199). -/
structure Feed where
  touch : List (Nat × Nat × Bool) := []
  runs : List (Nat × Nat) := []
  zero : List (Nat × Nat) := []
  loads : List Load := []
  deriving DecidableEq, Repr

/-- A dispatched or placed slice (R332-R340). -/
structure Slice where
  /-- Number in the order of admission: the model's own identity of candidates, slices and graphs (log entry 8). -/
  id : Nat := 0
  tag : Word := 0
  /-- Effective fault domain (R326). -/
  fd : Nat := 0
  queue : Nat := 0
  /-- Place of its entry in the queue (R336). -/
  order : Nat := 0
  /-- Control addresses of its successor's descriptor and of its RCBs, from the queue's node to the root (R328, R332). -/
  succAt : Nat := 0
  chain : List Nat := []
  asid : Nat := 0
  deadline : Nat := 0
  cbudget : Nat := 0
  /-- Charge of the ended hoists (R338). -/
  charge : Nat := 0
  /-- Beat of dispatch, once dispatched, and the earliest beat its preparation ends (R337, log entry 10). -/
  b0 : Option Nat := none
  prepared : Nat := 0
  /-- What is still to be loaded for it, none once it is (R191, R210, R337). -/
  feed : Option Feed := none
  /-- Array-pair grants charged, the analog peak, pennants consumed and the words to produce (R328, R304, R339). -/
  pairs : Nat := 0
  apeak : Nat := 0
  npin : Nat := 0
  pout : List Nat := []
  /-- Predecessor, the beat its completion was recorded, and whether it failed (R117, R340). -/
  pred : Option Nat := none
  predAt : Option Nat := none
  predFailed : Bool := false
  /-- The graph whose KERNEL node it runs (R342). -/
  graph : Option Nat := none
  /-- Effective NOPROT and MAJGO (R326, R402, R421). -/
  noprot : Bool := false
  majgo : Bool := false
  deriving DecidableEq, Repr

/-- A gang: the tiles that run one slice's timetable (R138). -/
structure Gang where
  /-- Contexts of the members, in position order. -/
  members : List Nat := []
  rows : Nat := 1
  cols : Nat := 1
  y0 : Nat := 0
  x0 : Nat := 0
  dies : List Nat := []
  /-- First granted ring slot and the number granted (R145). -/
  ring0 : Nat := 0
  ringN : Nat := 0
  slice : Slice := {}
  /-- Beat of the next hoist entry, once every member has arrived (R149). -/
  entry : Option Nat := none
  /-- The hoist in progress carries the HBM mark (R206). -/
  hbm : Bool := false
  claims : List Claim := []
  lines : List Line := []
  fz : Option Freeze := none
  /-- Beat from which a requested pre-emption freezes the gang, and the requested action (R393, R395). -/
  preempt : Option (Nat × Nat) := none
  /-- The beat by which a safe point must come (R394). -/
  watch : Nat := 0
  /-- The beat from which a requested thermal freeze takes the gang (R401). -/
  hot : Option Nat := none
  /-- An analog reset in progress: the beat it ends, and the reads lost (R299, R394). -/
  reset : Option (Nat × Nat) := none
  /-- Earliest beat at which a save ends (R395, log entry 10). -/
  saveAt : Nat := 0
  /-- Its contexts are resident but swapped out, or not yet issued (R118, R395). -/
  off : Bool := false
  /-- The beat at which it was switched out last (R402). -/
  offAt : Nat := 0
  /-- The beat its contexts run from after a switch (R118, R395). -/
  resume : Option Nat := none
  /-- Fault records of its members still to be written, oldest first (R392). -/
  fails : List Record := []
  /-- Requested action on the frozen contexts: 0 swap on a voluntary request, 1 swap, 2 save, 3 keep (R395). -/
  action : Nat := 3
  deriving DecidableEq, Repr

/-- The issue cursor: the context, slot and bundle being issued. The model's own field (log entry 8). -/
structure Cursor where
  ctx : Nat := 0
  slot : Nat := 0xFF
  pc : BitVec 16 := 0
  len : Nat := 0
  idle : Option (BitVec 8) := none
  slots : List (Nat × Instr) := []
  /-- The fetch met padding and moved to the next line. -/
  moved : Bool := false
  /-- A fault was taken by this bundle, and it is POISON (R380). -/
  faulted : Bool := false
  poisoned : Bool := false
  /-- Wq and the landing beats of each FIFO with what the bundle's C slots reserve (R178). -/
  ahead : Table (Nat × Table Nat) := []
  /-- Draws taken by earlier slots of this bundle (R54). -/
  draws : Nat := 0
  /-- Address of the next bundle where the loop body is skipped (R38). -/
  jump : Option (BitVec 16) := none
  /-- HCYC at which `pin` lets the next bundle issue. -/
  pin : Option Nat := none
  drain : Bool := false
  /-- The rendezvous form of the bundle. -/
  wait : Option Wait := none
  trap : Option (BitVec 9) := none
  deriving DecidableEq, Repr

/-! ### The geometry record -/

/-- The body of the geometry record (R212). -/
structure Geom where
  genr : BitVec 16 := 1
  fcfg : BitVec 32 := 0
  hgen : BitVec 16 := 0
  tiles : BitVec 1024 := BitVec.allOnes 1024
  live : BitVec 12 := BitVec.allOnes 12
  chans : BitVec 384 := BitVec.allOnes 384
  bgrps : BitVec 1536 := BitVec.allOnes 1536
  pairs : BitVec 16384 := BitVec.allOnes 16384
  deriving DecidableEq, Repr

/-! ### Array pairs (R269, R271, R288) -/

/-- The nominal parameter record of R290. -/
def nominalRecord : BitVec 128 := 0x000000000000_3F80BF80_0000_3F80_3B00#128

/-- A pair's registers, calibration tables (unlisted entries are at reset) and cells, keyed 512 i + j; conductances
are in units of 2^-64 nu (log entry 12). -/
structure Pair where
  xseed : Word := 0
  step : Half := 0
  spf : BitVec 16 := 0
  sps : BitVec 16 := 0
  pstate : BitVec 2 := 0
  calfw : Table Half := []
  calbw : Table Half := []
  parF : BitVec 128 := nominalRecord
  parS : BitVec 128 := nominalRecord
  measn : BitVec 16 := 0
  gF : Table Int := []
  gS : Table Int := []
  /-- The beat at which the latest hold of an engine command ended (R293, R303). -/
  freed : Nat := 0
  deriving DecidableEq, Repr

/-! ### Translation and re-striping (R199, R368, R369) -/

/-- A cached leaf: die of the walker, address space, leaf entry, where it was read (placement word of its table and stripe-space
address), and since when it is cached (R199). -/
structure Tlb where
  die : Nat
  asid : Nat
  va : Nat
  level : Nat
  entry : Nat
  entryAt : Nat × Nat
  since : Nat := 0
  deriving DecidableEq, Repr

/-- A page being re-striped: the moving command, none where firmware moves it (R367), old and new placement, granules still
to copy in this pass, dirty granules, the pass, whether it is committing, and who waits for it then (R368). -/
structure Move where
  own : Option (Nat × Nat)
  asid : Nat
  va : Nat
  size : Nat
  entryAt : Nat × Nat
  entry : Nat
  oldBase : Nat
  oldPlace : Nat
  newBase : Nat
  newPlace : Nat
  todo : List Nat
  dirty : List Nat := []
  pass : Nat := 1
  committing : Bool := false
  queue : List Asker := []
  /-- Firmware's move makes no step before this beat. -/
  wake : Nat := 0
  deriving DecidableEq, Repr

/-- An installed page: its old home forwards to the new one until a beat, then refuses what still comes by a translation
cached before; who was held while it committed, in order of arrival; who has its turn at which beat; and the command that drove
the move, until its record is written (R256, R368, R369). -/
structure Forward where
  size : Nat
  oldBase : Nat
  oldPlace : Nat
  newBase : Nat
  newPlace : Nat
  last : Nat
  gone : Bool := false
  queue : List Asker := []
  turn : Option (Asker × Nat) := none
  own : Option (Nat × Nat) := none
  deriving DecidableEq, Repr

/-- An atomic's write that a switch or the root complex has applied as the home of its word and has not yet written through:
home, plane, placement word and stripe-space address, flat address, bytes, mark, the earliest beat it reaches memory, and who has
made or read it (R255, R413). -/
structure Through where
  home : Nat
  plane : Nat
  place : Nat
  stripe : Nat
  dst : Nat
  data : List Byte
  pois : Bool := false
  due : Nat
  src : List Asker := []
  deriving DecidableEq, Repr

/-! ### Fabric (R410-R424) -/

/-- A contribution to a window line: rank, sender's FNUM, member count claimed, bytes covered, their values, and the command
of this module that made it (R414, R416). -/
structure Part where
  rank : Nat
  sfn : Nat
  n : Nat
  lo : Nat
  data : List Byte
  src : Option (Nat × Nat) := none
  deriving DecidableEq, Repr

/-- A registered reduction window (R415). -/
structure Window where
  home : Nat
  asid : Nat
  base : Nat
  len : Nat
  gid : Nat
  rop : Nat
  fmt : Nat
  deriving DecidableEq, Repr

/-- Contributions to one line of a window, in order of arrival (R416). -/
structure Merge where
  asid : Nat
  line : Nat
  parts : List Part := []
  deriving DecidableEq, Repr

/-- What one rank brought to a collective instance, apart from its lines: its FNUM and its block (R414, R418, R420). -/
structure Joined where
  sfn : Nat
  n : Nat
  op : Nat
  len : Nat
  waddr : Nat
  aux : Nat
  digest : Word
  deriving DecidableEq, Repr

/-- An instance of a group's synchronising collectives: group, number, first contribution's beat, what each rank
brought, this module's command, and how it stands (R418-R421). -/
structure Inst where
  gid : Nat
  k : Nat
  first : Nat
  ranks : Table Joined := []
  /-- Lines contributed: rank, offset and bytes. -/
  given : List (Nat × Nat × List Byte) := []
  cmd : Option (Nat × Nat) := none
  /-- Status that ends the instance for every member, 0 for none. -/
  ends : Nat := 0
  /-- The verdict on this module's digest, 0 until given. -/
  verdict : Nat := 0
  majority : Nat := 0
  /-- Deliveries to this module still to make: virtual address and bytes, and lines made so far. -/
  todo : List (Nat × List Byte) := []
  lines : Nat := 0
  judged : Bool := false
  deriving DecidableEq, Repr

/-- A write held until its page is present (R416, R445). -/
structure HeldWrite where
  asid : Nat
  va : Nat
  data : List Byte
  /-- Not tried again before this beat. -/
  tryAt : Nat := 0
  deriving DecidableEq, Repr

/-- A multicast being received: sender's FNUM, context, command and run of it, bytes that have come so far, the address of the
first failure, and LEN and FLAGW once known (R424). -/
structure CastIn where
  sfn : Nat
  ctx : Nat
  cmd : Nat
  run : Nat
  got : Nat := 0
  fail : Option Nat := none
  total : Option (Nat × Nat) := none
  deriving DecidableEq, Repr

/-- A flit on a fabric port: destination and source FNUM, virtual channel, lines, address space, link sequence number,
operation with its words (CMD), lines, and the acknowledgement it carries back with the credits given back so far on each
channel (R412). -/
structure Sent where
  port : Nat
  dfn : Nat
  sfn : Nat
  vc : Nat
  nl : Nat := 1
  asid : Nat
  lseq : Nat := 0
  op : Nat
  words : List Nat := []
  data : List Byte := []
  ack : Nat := 0
  credit : List Nat := []
  deriving DecidableEq, Repr

/-- A flit accepted from a link, whose message is still to be acted on (R412). -/
structure Rx where
  n : Nat
  flit : Sent
  /-- Not tried again before this beat. -/
  tryAt : Nat := 0
  deriving DecidableEq, Repr

/-! ### Scheduling (R335-R342) -/

/-- A position: die set, grid origin and bank (R336). -/
structure Position where
  dies : List Nat
  y : Nat
  x : Nat
  bank : Nat
  rows : Nat
  cols : Nat
  deriving DecidableEq, Repr

/-- A candidate of a dispatch engine (R335, R340). -/
structure Cand where
  id : Nat
  queue : Nat
  /-- Place of its entry in the queue; a successor and a kernel have their predecessor's. -/
  order : Nat
  /-- The 256 bytes of its descriptor, as they entered (R332). -/
  blk : List Byte
  /-- Where its descriptor lies, until its page and those of its RCBs have been found present (R325). -/
  todo : Option Nat := none
  /-- The ready beat (R335). -/
  ready : Option Nat := none
  /-- The page requests it is parked on (R200). -/
  parked : List (Nat × Nat) := []
  resv : Option Position := none
  /-- For a successor: its predecessor, and whether it has been released (R340). -/
  pred : Option Nat := none
  released : Bool := true
  predAt : Option Nat := none
  predFailed : Bool := false
  /-- The graph whose KERNEL node it runs. -/
  graph : Option Nat := none
  deriving DecidableEq, Repr

/-- Where a graph stands (R342). -/
inductive GraphAt where
  /-- About to run its node. -/
  | node
  /-- Waiting for the slice of a KERNEL node. -/
  | kernel
  /-- Polling a WAIT node since a beat, after a number of reads. -/
  | poll (t0 n : Nat)
  /-- The work of its KERNEL node has ended, with STATUS, CFL and DETAIL. -/
  | ended (st cfl detail : Nat)
  deriving DecidableEq, Repr

/-- A graph being run (R341, R342). -/
structure GraphRun where
  id : Nat
  queue : Nat
  order : Nat
  tag : Word
  deadline : Nat
  base : Nat
  node : Nat := 0
  steps : Nat := 0
  cfl : Nat := 0
  state : GraphAt := .node
  /-- Not stepped before this beat (log entry 10). -/
  wake : Nat := 0
  /-- ITER by node; 0 when the graph starts (R341). -/
  iters : Table Nat := []
  /-- The graph whose KERNEL node runs this one. -/
  parent : Option Nat := none
  chain : List Nat := []
  deriving DecidableEq, Repr

/-- A saved context frame: where it was written, FFL, BEATZ, HCYCZ, CHARGE and RECSEQ of its header, the context, XSEED and
STEP of its update-granted pairs, its scratchpad and its marks (R396, R399; log entry 21). -/
structure SavedCtx where
  addr : Nat
  ffl : Nat
  beatz : Nat
  hz : Nat
  charge : Nat
  recseq : Nat
  ctx : Ctx
  cid : Nat
  pairs : Table (Word × Half)
  pool : List Byte
  marks : Table Bool
  /-- The code frames it held: number, validity, bytes. -/
  code : List (Nat × Bool × List Byte)
  deriving DecidableEq, Repr

/-- A saved slice (R395-R397). -/
structure Saved where
  gid : Nat
  gang : Gang
  frames : List SavedCtx
  deriving DecidableEq, Repr

/-- A completion record not yet written: queue, TAG, STATUS, CFL, DETAIL, PCONS and the beat it happened (R343,
R345). -/
structure Completion where
  queue : Nat
  tag : Word
  beat : Nat
  status : Nat
  cfl : Nat := 0
  detail : Nat := 0
  pcons : Nat := 0
  deriving DecidableEq, Repr

/-- A write to a control structure that waits for an open interval and for its page (R210, R325). -/
inductive Due where
  /-- Beats added to TUSED of an RCB, pairs added to and taken from its PUSED (R328). -/
  | charge (node beats plus minus : Nat)
  /-- A fault record for the ring of a domain (R384). -/
  | fault (fd : Nat) (r : Record)
  /-- Queues of a die whose command processors restart are parked where they are resident (R345). -/
  | park (die : Nat) (qs : List Nat)
  /-- Queues of a context number that is no longer resident, or that a restart has parked, are parked for it (R331). -/
  | away (ctxn : Nat) (qs : List Nat)
  /-- Calibration slices for a die (R441). -/
  | calibrate (die : Nat)
  /-- The record in force, where BAR4 reaches it (R441). -/
  | publish
  /-- Runs that a decision has read: their leaves are cached (R199). -/
  | touch (runs : List (Nat × Nat))
  deriving DecidableEq, Repr

/-! ### Platform (R438-R443) -/

/-- One flash slot: a geometry record, its 3,309-byte signature, and whether that verifies under the key whose digest the
boot ROM holds (R439, log entry 20). -/
structure Slot where
  geom : Geom := {}
  sig : List Byte := []
  valid : Bool := false
  deriving DecidableEq, Repr

/-- Where boot stands (R440). -/
inductive Boot where
  /-- Module reset is pending. -/
  | due
  /-- Boot step `n` comes at a beat; the hardware fails at step `fail`, at none where that is no step. -/
  | step (n wake fail : Nat)
  /-- Boot has ended, or stopped. -/
  | over
  deriving DecidableEq, Repr

/-- A firmware image and whether its signature verifies (R440, R443, log entry 20). -/
structure Image where
  bytes : List Byte := []
  valid : Bool := true
  deriving DecidableEq, Repr

/-- The phase of an HBM change: units draining with the record to install, or regeneration (R213). -/
inductive GeoPhase where
  | idle
  | drain (next : Geom)
  | install (next : Geom)
  | regen
  deriving DecidableEq, Repr

/-- An answer on the side-band port (R442, R443). -/
structure Answer where
  what : Instr
  bytes : List Byte
  deriving DecidableEq, Repr

/-- An external input: the beat it arrives at, the event it causes and its operands. -/
structure Input where
  beat : Nat
  what : Instr
  args : List Nat := []
  deriving DecidableEq, Repr

/-- What happens to the module other than by an instruction or an event of the opcode table (log entry 17). -/
inductive Stray where
  /-- The host stores bytes to its own memory (R260, R265). -/
  | host (a : Nat) (bs : List Byte)
  /-- An uncorrectable error is found in the memory unit at a flat address (R211, R381). -/
  | memory (a : Nat)
  /-- An uncorrectable error is found in a register unit of a context (R381, R383). -/
  | register (c unit : Nat)
  /-- A silent error in a datapath: the `n`-th item of a context lands something else (R402, R433). -/
  | land (c n : Nat) (act : Act)
  /-- An error flips bits of a byte of a copy in the engine's line buffer (R430). -/
  | buffer (c i byte mask : Nat)
  /-- Firmware re-stripes a page of an address space (R367). -/
  | restripe (regen : Bool) (asid va nbase nplace : Nat)
  /-- Firmware decides to retire a tile (R213). -/
  | tile (n : Nat)
  deriving DecidableEq, Repr

/-- The state of the module. -/
structure State where
  /-- The halyard (R5, R140), not reduced modulo 2^64 (log entry 16). -/
  beat : Nat := 0
  /-- Counter of free values taken: the model's own field (log entry 8). -/
  fresh : Nat := 0
  /-- Context banks, keyed 2 x tile ID + bank. -/
  ctxs : Table Ctx := []
  gangs : Table Gang := []
  /-- Memory: pool, instruction stores, HBM and host memory in one flat numbering (log entry 1). -/
  mem : List Host.Cell := []
  /-- Memory as the last open interval left it, from which a decision is made: the model's own field (R325, log entry 55). -/
  seen : List Host.Cell := []
  /-- Poison marks of pool chunks, HBM lines and instruction-store lines, by flat address of the unit (R381). -/
  marks : Table Bool := []
  /-- Code frames, keyed 16 x tile + frame (R191). -/
  frames : Table Frame := []
  /-- The geometry record in force (R212). -/
  geom : Geom := {}
  /-- The record before the last HBM change (R213). -/
  prior : Geom := {}
  /-- ASID directory base, a control address kept by firmware (R197). -/
  asidDir : Nat := 0
  cur : Cursor := {}
  /-- Contexts to which something happened at this beat, as they were before it. The model's own field (log entry 8). -/
  undo : Table Ctx := []
  /-- Faults taken at this beat, newest first; the beat's end writes them. The model's own field (log entry 8). -/
  taken : List Record := []
  /-- The firmware's log of fault records, newest first (R384). -/
  log : List Record := []
  /-- Sequence counters of the record sources, keyed by SRC (R385). -/
  seqs : Table (BitVec 32) := []
  /-- Operands of the event being executed, and its payload. -/
  ev : List Nat := []
  /-- HOSTWIN of BAR0 (R426). -/
  hostwin : Nat := 0
  /-- FDTAB of BAR0: the fault-domain table's control address (R384, R426). -/
  fdtab : Nat := 0
  /-- Interrupts sent to the host, newest first: vectors; the MSI-X table, its unlisted entries masked; vectors whose
  interrupt is pending behind a mask (R425-R427, log entry 56). -/
  irqs : List Nat := []
  msix : Table (BitVec 128) := []
  pendingIrqs : List Nat := []
  /-- The PCIe link is up (R440). -/
  linkUp : Bool := false
  /-- Array pairs by global ID (R269). -/
  pairs : Table Pair := []
  /-- Live pairs whose last measurement left R289, still to be retired (R292). -/
  suspects : List Nat := []
  /-- Tiles that firmware is about to retire (R213). -/
  tilesOut : List Nat := []
  /-- Translation caches (R199). -/
  tlb : List Tlb := []
  moves : List Move := []
  forwards : List Forward := []
  /-- Atomics' writes that homes outside the module have not yet written through, oldest first (R255, R413). -/
  through : List Through := []
  /-- Who makes the accesses of the current step. The model's own field (log entry 8). -/
  asker : Asker := .none
  /-- The die whose dispatch engine makes the control accesses of the current step. The model's own field (log entry 8). -/
  die : Nat := 0
  /-- Page requests sent to system software, newest first: address space and virtual address (R200, R349). -/
  pageReqs : List (Nat × Nat) := []
  /-- Reduction windows, lines being merged, collective instances, counts of instances per group, writes held for a
  page, and messages sent, newest first (R415-R418). -/
  windows : List Window := []
  merges : List Merge := []
  insts : List Inst := []
  gidCount : Table Nat := []
  heldWrites : List HeldWrite := []
  casts : List CastIn := []
  sent : List Sent := []
  /-- Next link sequence number to expect and to give on each port; flits sent and not acknowledged, oldest first; flits that
  wait for a credit; credits in use, credits given back and credits taken back since reset, keyed 4 x port + channel; flits
  received and not yet acted on, and the number of the next (R412). -/
  rxSeq : Table Nat := []
  txSeq : Table Nat := []
  unacked : List Sent := []
  txWait : List Sent := []
  credits : Table Nat := []
  owed : Table Nat := []
  returned : Table Nat := []
  rxWait : List Rx := []
  rxNext : Nat := 0
  /-- Ports on which a retry has been asked for and not yet answered (R412). -/
  asking : List Nat := []
  /-- Synchronising collectives that ended without a contribution and still take their numbers: group, issue beat, context
  and command (R352, R418). -/
  skipped : List (Nat × Nat × Nat × Nat) := []
  /-- Candidate sets, the next identity, graphs, pennants (ASID, STAGE, MB), saved slices, records still
  to be written (R210, R335, R339, R342, R345, R397). -/
  cands : List Cand := []
  nextId : Nat := 1
  graphs : List GraphRun := []
  pennants : List (Nat × Nat × Nat) := []
  saved : List Saved := []
  /-- Context frames of failed slices, newest first (R392). -/
  failed : List Saved := []
  deferred : List Completion := []
  /-- Other writes to control structures still to be made, oldest first, each with the die whose dispatch engine makes it (R199,
  R210, R325). -/
  dues : List (Nat × Due) := []
  /-- Doorbell writes that wait for the page of their queue's descriptor, in order: queue and count (R325, R330). -/
  bells : List (Nat × Nat) := []
  /-- Queues parked because their context has been saved, with its number (R331). -/
  awayQs : List (Nat × Nat) := []
  /-- One more than the beat of the last joint decision (R335). -/
  decided : Nat := 0
  /-- Dies whose command processors restart, with the earliest beat the restart ends, and parked queues that are to become
  resident again (R331, R345). -/
  restarts : Table Nat := []
  resumeQs : List Nat := []
  /-- BAR0 registers and platform state (R426, R438-R440). -/
  fnum : BitVec 16 := 0xFFFF
  apbase : Nat := 0
  qtab : Nat := 0
  grptab : Nat := 0
  hstat : BitVec 32 := 0
  pwrlim : BitVec 32 := 0x00000960
  wdog : BitVec 32 := 0x00001000
  calper : BitVec 32 := 0x00000E10
  /-- Beat of the next calibration slices (R441). -/
  calAt : Nat := 0
  trip : Bool := false
  tmax : BitVec 8 := 0
  ttrip : BitVec 8 := 0x69
  geo : GeoPhase := .idle
  slotA : Slot := {
    sig := (List.range 3309).map fun i => BitVec.ofNat 8 (Config.flashByte i),
    valid := true }
  slotB : Slot := {}
  /-- The firmware image in flash, and a staged update (R440, R443). -/
  image : Image := {}
  staged : Option Image := none
  /-- Boot step at which boot stopped, if it did (R440). -/
  stopped : Option Nat := none
  answers : List Answer := []
  /-- External inputs still to come, in order of beat. -/
  inputs : List Input := []
  /-- What else is still to happen to the module, and at which beat, in order (log entry 17). -/
  strays : List (Nat × Stray) := []
  boot : Boot := .due
  /-- The 48 V supply is present (R439). -/
  power : Bool := true
  deriving DecidableEq, Repr

/-- The machine right after reset: every field at the value the spec gives, or the log names. -/
def State.reset : State := {}

/-- Why no step can be made. No instruction and no event raises one: each has a next state. Safe. -/
inductive Fault where
  /-- A step of a module without supply: no unit runs (R439). Raised by `step` alone; safe, since nothing happens. -/
  | noPower
  deriving DecidableEq, Repr

/-- Why an instruction has no meaning here. -/
inductive Refusal where
  /-- Raised by an arm of `exec` whose instruction has no meaning yet. Safe: the machine stops. -/
  | notModelled (mnemonic : String)
  deriving DecidableEq, Repr

end Sys2Proof.Machine
end

