-- ==== Sys2Proof/Machine/Mem.lean ====
section
/-! DEFINITION. Memory in canonical form, flat addresses, byte order, poison marks, stripes and translation
(spec 00 R3, 09 R186-R204, 19 R381). -/

namespace Sys2Proof.Machine

/-! ### The list of cells -/

/-- The byte at an address; an unlisted address reads as 0 (log entry 1). -/
def mget : List Host.Cell → Nat → Byte
  | [], _ => 0
  | (j, w) :: r, a => if a = j then w else mget r a

/-- Write one byte, keeping addresses rising and no entry equal to 0. -/
def mput : List Host.Cell → Nat → Byte → List Host.Cell
  | [], a, v => if v = 0 then [] else [(a, v)]
  | (j, w) :: r, a, v =>
    if a < j then (if v = 0 then (j, w) :: r else (a, v) :: (j, w) :: r)
    else if a = j then (if v = 0 then r else (a, v) :: r)
    else (j, w) :: mput r a v

/-- The canonical form: addresses strictly rising, no byte equal to what an unlisted address reads as. -/
def Memory.wf : List Host.Cell → Bool
  | [] => true
  | [(_, w)] => w != 0
  | (a, w) :: (b, x) :: r => w != 0 && a < b && Memory.wf ((b, x) :: r)

/-- `n` bytes from an address on. -/
def mread (mem : List Host.Cell) (a n : Nat) : List Byte := (List.range n).map fun i => mget mem (a + i)

/-- Write bytes from an address on. -/
def mwrite : List Host.Cell → Nat → List Byte → List Host.Cell
  | mem, _, [] => mem
  | mem, a, b :: bs => mwrite (mput mem a b) (a + 1) bs

/-- The little-endian number of a list of bytes (R3). -/
def leNat : List Byte → Nat
  | [] => 0
  | b :: bs => b.toNat + 256 * leNat bs

/-- The `n` little-endian bytes of a number (R3). -/
def leBytes : Nat → Nat → List Byte
  | 0, _ => []
  | n + 1, v => BitVec.ofNat 8 v :: leBytes n (v / 256)

/-! ### Flat addresses -/

def poolBase : Nat := 0
def storeBase : Nat := 2 ^ 32
def hbmBase : Nat := 2 ^ 44
def hostBase : Nat := 2 ^ 64

/-- Pool byte `off` of a tile (R189). -/
def poolAt (tile off : Nat) : Nat := poolBase + tile * 2 ^ 19 + off

/-- Instruction-store byte of a tile (R74). -/
def storeAt (tile a : Nat) : Nat := storeBase + tile * 2 ^ 16 + a % 65536

/-- HBM byte `loc` of a stripe unit (R204). -/
def hbmAt (unit loc : Nat) : Nat := hbmBase + unit * 2 ^ 29 + loc

/-- Host byte (R198, R239). -/
def hostAt (a : Nat) : Nat := hostBase + a

/-- Size of the unit that carries one poison mark at a flat address (R381). -/
def markUnit (a : Nat) : Nat := if a < storeBase then 16 else 64

/-- The key of the marked unit that holds a flat address. -/
def markKey (a : Nat) : Nat := a - a % markUnit a

/-- The marked units that `n` bytes from `a` on touch. -/
def markKeys (a n : Nat) : List Nat :=
  let u := markUnit a
  (List.range ((a % u + n + u - 1) / u)).map fun i => a - a % u + i * u

namespace State

/-- Read bytes at a flat address. -/
def rd (s : State) (a n : Nat) : List Byte := mread s.mem a n

/-- A little-endian number at a flat address. -/
def rdNat (s : State) (a n : Nat) : Nat := leNat (s.rd a n)

/-- Whether any unit among `n` bytes carries a poison mark. -/
def marked (s : State) (a n : Nat) : Bool := (markKeys a n).any fun k => (tfind s.marks k).isSome

/-- Set or clear the marks of the units a write of `n` bytes touches: any marked byte marks the unit whole; only a
unit wholly overwritten loses its mark (R381, R382). -/
def setMarks (s : State) (a n : Nat) (mk : Bool) : State :=
  let u := markUnit a
  { s with marks := (markKeys a n).foldl (fun t k =>
      if mk then tset t k true else if a ≤ k ∧ k + u ≤ a + n then tdel t k else t) s.marks }

/-- Write bytes at a flat address with a mark. -/
def wr (s : State) (a : Nat) (bs : List Byte) (mk : Bool) : State :=
  if bs.isEmpty then s else ({ s with mem := mwrite s.mem a bs }).setMarks a bs.length mk

/-- Write a little-endian number without a mark. -/
def wrNat (s : State) (a n v : Nat) : State := s.wr a (leBytes n v) false

end State

/-! ### Placement (R203, R204) -/

/-- Bit field [hi:lo] of a number. -/
def bits (v lo n : Nat) : Nat := v / 2 ^ lo % 2 ^ n

/-- The channels a CHS code selects in a stack (R203). -/
def chsSelects (chs stk c : Nat) : Bool :=
  if chs = 0 then true else if chs = 1 then c % 2 = 0 else if chs = 2 then c % 2 = 1
  else if chs ≤ 6 then c / 8 = chs - 3 else if chs ≤ 14 then c / 4 = chs - 7
  else c = bits stk 4 5

/-- The stacks a placement word selects (R203). -/
def plStacks (p : Nat) : List Nat :=
  let stk := bits p 0 12
  if bits p 12 4 = 15 then [bits stk 0 4] else (List.range 12).filter fun i => stk.testBit i

/-- Live selected stacks; live selected channels and bank groups of one stack (R204). -/
def liveStacks (g : Geom) (p : Nat) : List Nat := (plStacks p).filter fun i => g.live.getLsbD i

def liveChans (g : Geom) (p s : Nat) : List Nat :=
  (List.range 32).filter fun c => chsSelects (bits p 12 4) (bits p 0 12) c && g.chans.getLsbD (32 * s + c)

def liveBgs (g : Geom) (p s c : Nat) : List Nat :=
  (List.range 4).filter fun b => (bits p 16 4).testBit b && g.bgrps.getLsbD (128 * s + 4 * c + b)

/-- The ascending live lists S, C, B of a placement, or none where the word is malformed (R203, R204). -/
def unitLists (g : Geom) (p : Nat) : Option (List Nat × List Nat × List Nat) :=
  let ss := liveStacks g p
  match ss with
  | [] => none
  | s0 :: _ =>
    let cs := liveChans g p s0
    match cs with
    | [] => none
    | c0 :: _ =>
      let bs := liveBgs g p s0 c0
      let same := ss.all fun i => liveChans g p i == cs && cs.all fun c => liveBgs g p i c == bs
      let single := bits p 12 4 = 15
      if bs.isEmpty || !same || bits p 23 2 = 3 || bits p 28 4 != g.hgen.toNat % 16 ||
          (single && (11 < bits p 0 4 || bits p 9 3 != 0)) then none
      else some (ss, cs, bs)

/-- A location in HBM: stack, channel, bank group and the address within the unit (R204). -/
structure HbmLoc where
  stack : Nat
  chan : Nat
  bg : Nat
  loc : Nat
  deriving DecidableEq, Repr

def HbmLoc.unit (h : HbmLoc) : Nat := (h.stack * 32 + h.chan) * 4 + h.bg
def HbmLoc.bank (h : HbmLoc) : Nat := bits h.loc 11 2
def HbmLoc.die (h : HbmLoc) : Nat := h.stack / 3
def HbmLoc.flat (h : HbmLoc) : Nat := hbmAt h.unit h.loc

/-- stripe_of of R204, none for a malformed word or an address past the unit's 384 MiB. -/
def stripeOf (g : Geom) (a p : Nat) : Option HbmLoc :=
  match unitLists g p with
  | none => none
  | some (ss, cs, bs) =>
    let gr := 256 * 2 ^ bits p 20 3
    let nu := ss.length * cs.length * bs.length
    let q := a / gr
    let u := q % nu
    let loc := q / nu * gr + a % gr
    if 384 * 2 ^ 20 ≤ loc then none
    else some ⟨ss.getD (u % ss.length) 0, cs.getD (u / ss.length % cs.length) 0,
      bs.getD (u / (ss.length * cs.length)) 0, loc⟩

/-- The same mapping without the check of GEN: the regenerate mode of R368 reads through a stale word. -/
def stripeOfStale (g : Geom) (a p : Nat) : Option HbmLoc :=
  stripeOf g a (p % 2 ^ 28 + g.hgen.toNat % 16 * 2 ^ 28)

/-! ### Table entries (R197, R198) -/

/-- A leaf found by the walk: where its entry lies (placement word of its table and stripe-space address), entry, level. -/
structure Leaf where
  entryAt : Nat × Nat
  entry : Nat
  level : Nat
  deriving DecidableEq, Repr

/-- Bytes a leaf at a level maps. -/
def pageSize (level : Nat) : Nat := if level = 0 then 2 ^ 16 else if level = 1 then 2 ^ 21 else 2 ^ 30

/-- The table index of a level (R197). -/
def vaIndex (level va : Nat) : Nat :=
  match level with
  | 3 => bits va 39 18 | 2 => bits va 30 9 | 1 => bits va 21 9 | _ => bits va 16 5

/-- What a walk comes to: a leaf; none, not present or malformed (R199); or not yet, a table's page being committed (R368). -/
inductive Walk where
  | leaf (l : Leaf)
  | absent
  | malformed
  | held
  deriving DecidableEq, Repr

/-- Whether a leaf entry keeps the layout of R198. -/
def leafOk (level e : Nat) : Bool :=
  bits e 6 2 = 0 && (level != 1 || bits e 8 5 = 0) && (level != 2 || bits e 8 14 = 0) && level != 3 &&
  (!e.testBit 4 || (bits e 32 23 = 0 && bits e 55 2 = 2))

/-- Where a byte of an access lies. -/
inductive Place where
  /-- Pool byte, by flat address. -/
  | pool (a : Nat)
  /-- Host memory byte. -/
  | host (a : Nat)
  /-- HBM byte of this module, with its page's placement word and stripe-space address. -/
  | hbm (h : HbmLoc) (place : Nat) (stripe : Nat)
  deriving DecidableEq, Repr

def Place.flat : Place → Nat
  | .pool a => a | .host a => hostAt a | .hbm h _ _ => h.flat

/-- HOME of the placement word through which an access names its location: 0 near, 1 switch, 2 host (R203, R255). -/
def Place.home : Place → Nat
  | .hbm _ pl _ => bits pl 23 2
  | _ => 0

/-- The same location named as its memory controller's own (R255, R265). -/
def Place.near : Place → Place
  | .hbm h pl st => .hbm h (pl - bits pl 23 2 * 2 ^ 23) st
  | p => p

/-! ### Granules of moving pages (R368) -/

/-- Whether a placement and a stripe-space address lie in a page of another placement (R204). -/
def onPage (base size place pl st : Nat) : Bool := bits place 0 23 = bits pl 0 23 && base ≤ st && st < base + size

/-- Mark the granule of a moving page that a write through its old placement reaches; while the page commits it is still to
be copied (R368). -/
def Move.touch (pl st : Nat) (m : Move) : Move :=
  if onPage m.oldBase m.size m.oldPlace pl st then
    let g := (st - m.oldBase) / 256
    if m.committing then { m with todo := if m.todo.contains g then m.todo else m.todo ++ [g] }
    else { m with dirty := (g :: m.dirty).dedup }
  else m

/-- Mark granules of moving pages that a write reaches (R368). -/
def State.touchMoves (s : State) (p : Place) : State :=
  match p with
  | .hbm _ pl st => { s with moves := s.moves.map (Move.touch pl st) }
  | _ => s

/-! ### Who waits at a page (R256, R368, R369) -/

/-- Whether a command has completed. -/
def Cmd.isDone (c : Cmd) : Bool := c.status != 0

namespace State

/-- Whether somebody in a queue still wants its access. -/
def askerLive (s : State) : Asker → Bool
  | .none => false
  | .cmd c i => match tfind (tget {} s.ctxs c).cmds i with
    | some k => !k.isDone && !k.cancelled
    | none => false
  | .host => s.inputs.any fun x => x.what = .hostBar4Access || x.what = .hostAtomicop
  | .graph id => s.graphs.any fun g => g.id = id
  | .flit n => s.rxWait.any fun r => r.n = n
  | .line asid line => s.heldWrites.any fun h => h.asid = asid && h.va / 64 = line
  | .load gid => (tget {} s.gangs gid).slice.feed.isSome

/-- Those of a queue who still wait. -/
def waiting (s : State) (q : List Asker) : List Asker := q.filter s.askerLive

/-- Where an access that a placement names goes, nobody holding it: an old home forwards (R369). -/
def spot (s : State) : Nat → Place → Place
  | n + 1, .hbm h pl st =>
    match s.forwards.find? fun f => !f.gone && onPage f.oldBase f.size f.oldPlace pl st with
    | none => .hbm h pl st
    | some f => match stripeOfStale s.geom (f.newBase + (st - f.oldBase)) f.newPlace with
      | some g => s.spot n (.hbm g f.newPlace (f.newBase + (st - f.oldBase)))
      | none => .hbm h pl st
  | _, p => p

/-- Whether the asker of this step may pass the queue of an installed page: nobody waits, or it is its turn. -/
def passes (s : State) (f : Forward) : Bool :=
  f.turn = some (s.asker, s.beat) || match s.waiting f.queue with
    | [] => true
    | x :: _ => x = s.asker

/-- Whether an access to a place would be held: its page is being committed, or others wait there for their turn (R256,
R368). -/
def placeHeld (s : State) (p : Place) : Bool :=
  match p with
  | .hbm _ pl st => (s.moves.any fun m => m.committing && onPage m.oldBase m.size m.oldPlace pl st) ||
      s.forwards.any fun f => !f.gone && !(s.passes f) &&
        (onPage f.oldBase f.size f.oldPlace pl st || onPage f.newBase f.size f.newPlace pl st)
  | _ => false

end State

/-! ### Homes outside the module (R255, R413) -/

/-- Bytes at `a` with those of a write at `b` laid over them. -/
def patch (a : Nat) (bs : List Byte) (b : Nat) (new : List Byte) : List Byte :=
  ((List.range bs.length).zip bs).map fun (i, v) => if b ≤ a + i ∧ a + i < b + new.length then new.getD (a + i - b) v else v

/-- Whether a write of a home touches `n` bytes at a flat address. -/
def Through.meets (t : Through) (a n : Nat) : Bool := t.dst < a + n && a < t.dst + t.data.length

namespace State

/-- Bytes at a flat address with the given writes laid over them in order, and whether one is marked. -/
def under (s : State) (l : List Through) (a n : Nat) : List Byte × Bool :=
  (l.foldl (fun bs t => patch a bs t.dst t.data) (s.rd a n),
    l.foldl (fun m t => t.pois || (m && !(t.dst ≤ a && a + n ≤ t.dst + t.data.length))) (s.marked a n))

/-- What an atomic reads at its home: memory, under what that home has applied and not yet written through (R255, R413). -/
def homeRd (s : State) (p : Place) (n : Nat) : List Byte × Bool :=
  s.under (s.through.filter fun t => t.home = p.home && t.meets p.flat n) p.flat n

/-- What a plain read of the asynchronous domain returns: all that the homes have applied (R241, R413). -/
def look (s : State) (p : Place) (n : Nat) : List Byte × Bool := s.under (s.through.filter fun t => t.meets p.flat n) p.flat n

/-- The asker of this step has read at a home what that has still to write through (R241). -/
def saw (s : State) (p : Place) (n : Nat) : State :=
  let see (t : Through) : Through := if t.home = p.home && t.meets p.flat n && !(t.src.contains s.asker) then { t with src := s.asker :: t.src } else t
  if s.through.isEmpty then s else { s with through := s.through.map see }

/-- A home's write reaches memory. -/
def writeThrough (s : State) (t : Through) : State :=
  let u := { s with through := s.through.erase t }
  (u.wr t.dst t.data t.pois).touchMoves (.hbm ⟨0, 0, 0, 0⟩ t.place t.stripe)

/-- Whether a home's write lies on the lines of `n` bytes at a flat address. -/
def Through.onLines (t : Through) (a n : Nat) : Bool := t.dst / 64 ≤ (a + n - 1) / 64 && a / 64 ≤ (t.dst + t.data.length - 1) / 64

/-- The homes write through all they hold for the lines of `n` bytes at a flat address, in order: a plain access of the
asynchronous domain there comes after it in every coherence order (R241, R413). -/
def settleAt (s : State) (a n : Nat) : State := (s.through.filter fun t => Through.onLines t a n).foldl writeThrough s

/-- A timetabled write to lines comes after what the homes hold for them, which it overwrites (R241, R254, R413). -/
def overrule (s : State) (a n : Nat) : State := { s with through := s.through.filter fun t => !(Through.onLines t a n) }

/-- A plain write of the asynchronous domain (R241, R255, R413). -/
def store (s : State) (p : Place) (bs : List Byte) (mk : Bool) : State := (s.settleAt p.flat bs.length).wr p.flat bs mk

/-- A write that a walker or a dispatch engine makes: a moving page's granule is marked (R199, R368). -/
def storeMoving (s : State) (p : Place) (bs : List Byte) : State := (s.store p bs false).touchMoves p

/-- An atomic's write at a home outside the module, which writes it through later; `under` those of other homes that wait, or
after them (R255, R413). -/
def away (s : State) (h : HbmLoc) (pl st : Nat) (bs : List Byte) (mk under : Bool) : State :=
  if bs.isEmpty then s
  else
    let t : Through := {
      home := bits pl 23 2, plane := st / 64 % 18, place := pl, stripe := st, dst := h.flat, data := bs, pois := mk,
      due := s.beat + 1 + Config.delay s.fresh, src := [s.asker] }
    { s with
      fresh := s.fresh + 1,
      through := if under then t :: s.through else s.through ++ [t] }

/-- The write of an atomic, at the word's home (R255). -/
def homeWr (s : State) (p : Place) (bs : List Byte) (mk under : Bool) : State :=
  match p with
  | .hbm h pl st => if p.home = 0 then s.wr h.flat bs mk else s.away h pl st bs mk under
  | _ => s.wr p.flat bs mk

/-- Whether another home has applied to a word what it has not yet written through (R255). -/
def disputed (s : State) (p : Place) (n : Nat) : Bool := s.through.any fun t => t.home != p.home && t.meets p.flat n

/-- How an atomic meets atomics of other homes on its word: 0 none waits, or it comes after them; 1 it is applied to the value
before them, and they overwrite it; 2 it is applied to the value before them, and overwrites them. Each is an outcome R255
allows; which one is free (log entry 68). -/
def homeOrder (s : State) (p : Place) (n : Nat) : Nat × State :=
  if s.disputed p n then (Config.homeOrder s.fresh % 3, { s with fresh := s.fresh + 1 }) else (0, s)

/-- What an atomic reads at its home, with the state in which it goes on and how its write is to be made (R255). -/
def homeTake (s : State) (p : Place) (n : Nat) : (List Byte × Bool) × Nat × State :=
  let (o, t) := s.homeOrder p n
  let u := if o = 0 ∧ s.disputed p n then t.settleAt p.flat n else t
  (u.homeRd p n, o, u.saw p n)

/-- The write of an atomic that has been taken (R255). -/
def homePut (s : State) (p : Place) (o : Nat) (bs : List Byte) : State :=
  (if o = 2 then s.settleAt p.flat bs.length else s).homeWr p bs false (o = 1)

/-- Whether something that an asker has made or read has still to reach memory (R241, R413). -/
def unsettled (s : State) (a : Asker) : Bool := s.through.any fun t => t.src.contains a

end State

/-! ### The walk (R197-R199) -/

namespace State

/-- Where an entry of a table is found: by the placement word that names its table, through old homes that forward (R197, R369). -/
def entryPlace (s : State) (e : Nat × Nat) : Option Place :=
  (stripeOf s.geom e.2 e.1).map fun h => s.spot (s.forwards.length + 1) (.hbm h e.1 e.2)

end State

/-- The walk from a table at stripe address `t` of placement `p`, `level + 1` levels to go; an entry on a page that is being
committed is read later (R197, R198, R368). -/
def walkFrom (s : State) (p : Nat) : Nat → Nat → Nat → Walk
  | level, t, va =>
    let at' := (p, t + 8 * vaIndex level va)
    match s.entryPlace at' with
    | none => .malformed
    | some q =>
      let e := s.rdNat q.flat 8
      if s.placeHeld q then .held
      else if !e.testBit 0 then .absent
      else if e.testBit 5 then (if leafOk level e then .leaf ⟨at', e, level⟩ else .malformed)
      else if bits e 1 4 != 0 || bits e 6 2 != 0 || bits e 40 24 != 0 then .malformed
      else match level with
        | 0 => .malformed
        | l + 1 => walkFrom s p l (256 * bits e 8 32) va

/-- The entry of an ASID in the directory: root stripe address, table placement and PRIV (R197, R368). The base that
firmware keeps is a flat memory address here (log entry 6). -/
structure AsidEntry where
  valid : Bool
  priv : Bool
  root : Nat
  place : Nat
  deriving DecidableEq, Repr

/-- The directory entry of an ASID (R197). -/
def State.asidEntry (s : State) (asid : Nat) : AsidEntry :=
  let a := s.asidDir + 16 * asid
  let w := s.rdNat a 8
  ⟨w.testBit 0, w.testBit 1, 256 * bits w 8 32, s.rdNat (a + 8) 4⟩

/-- Walk a virtual address of an ASID. -/
def State.walk (s : State) (asid va : Nat) : Walk :=
  let e := s.asidEntry asid
  if !e.valid then .absent else walkFrom s e.place 3 e.root va

/-- The location a leaf gives a virtual address: HOSTWIN for a host leaf, a stripe for an HBM leaf, none where the leaf is
malformed, its whole range considered (R198, R203, R204). -/
def State.leafPlace (s : State) (l : Leaf) (va : Nat) : Option Place :=
  let o := va % pageSize l.level
  if l.entry.testBit 4 then some (.host (s.hostwin + bits l.entry 8 24 * 65536 + o))
  else
    let p := bits l.entry 32 32
    let a := bits l.entry 8 24 * 65536 + o
    match stripeOf s.geom a p, stripeOf s.geom (a - o + pageSize l.level - 1) p with
    | some h, some _ => some (.hbm h p a)
    | _, _ => none

/-- Translate one byte of an ASID's space, without permission checks. -/
def State.translate (s : State) (asid va : Nat) : Option (Leaf × Place) :=
  match s.walk asid va with
  | .leaf l => (s.leafPlace l va).map fun p => (l, p)
  | _ => none

/-! ### Open intervals (R205, R210) -/

/-- Frame length F and timetabled interval T of the record in force; a reserved code counts as code 2 (R205, log entry 58). -/
def Geom.frameF (g : Geom) : Nat :=
  match g.fcfg.toNat % 4 with | 0 => 512 | 1 => 256 | _ => 1024
def Geom.frameT (g : Geom) : Nat :=
  g.frameF - match g.fcfg.toNat / 4 % 4 with | 0 => 64 | 1 => 32 | _ => 128

/-- Whether the HBM channels are in an open interval, which carries every asynchronous access to them. -/
def State.openNow (s : State) : Bool := s.geom.frameT ≤ s.beat % s.geom.frameF

/-! ### Cached leaves (R199, R201, R369) -/

/-- What an asynchronous access comes to: a value; a page-fault reason (R349) with the virtual address it met; or not yet,
with the page whose queue it joins, by its old base and placement, where a re-stripe holds it (R368). -/
inductive Got (α : Type) where
  | ok (v : α) (s : State)
  | fault (reason va : Nat)
  | hold (page : Option (Nat × Nat))

/-- Go on with what an access gave. -/
def Got.andThen {α β : Type} (g : Got α) (k : α → State → Got β) : Got β :=
  match g with
  | .ok v s => k v s
  | .fault r va => .fault r va
  | .hold q => .hold q

namespace State

/-- The cached leaf that covers an address. -/
def tlbFind (s : State) (die asid va : Nat) : Option Tlb :=
  s.tlb.find? fun t => t.die = die && t.asid = asid && t.va ≤ va && va < t.va + pageSize t.level

/-- Write an entry of a table where it is found. -/
def putEntry (s : State) (e : Nat × Nat) (v : Nat) : State :=
  match s.entryPlace e with
  | some q => s.storeMoving q (leBytes 8 v)
  | none => s

/-- Fill the cache from the tables, setting AC (R199). -/
def tlbFill (s : State) (die asid va : Nat) : Got Tlb :=
  match s.tlbFind die asid va with
  | some t => .ok t s
  | none => match s.walk asid va with
    | .absent => .fault 0 va
    | .malformed => .fault 3 va
    | .held => .hold none
    | .leaf l =>
      let e := if l.entry.testBit 2 then l.entry else l.entry + 4
      let t : Tlb := ⟨die, asid, va - va % pageSize l.level, l.level, e, l.entryAt, s.beat⟩
      let u := { s with tlb := t :: s.tlb }
      .ok t (if l.entry.testBit 2 then u else u.putEntry l.entryAt e)

/-- Whether an old home that forwards no more refuses what comes by a translation cached before it stopped (R369). -/
def refusedAt (s : State) (since : Nat) (p : Forward → Bool) : Bool :=
  s.forwards.any fun f => f.gone && since < f.last && f.last ≤ s.beat && p f

/-- Whether an old home refuses a cached leaf with PLACEMENT_STALE: it forwards no more, and the leaf was cached before it
stopped (R369). -/
def placementStale (s : State) (t : Tlb) : Bool :=
  !(t.entry.testBit 4) && s.refusedAt t.since fun f =>
    let b := bits t.entry 8 24 * 65536
    bits f.oldPlace 0 23 = bits t.entry 32 23 && b < f.oldBase + f.size && f.oldBase < b + pageSize t.level

/-- The same of the table that holds a cached leaf's entry. -/
def entryStale (s : State) (t : Tlb) : Bool := s.refusedAt t.since fun f => onPage f.oldBase f.size f.oldPlace t.entryAt.1 t.entryAt.2

/-- Drop a cached leaf and translate again (R369). -/
def tlbAgain (s : State) (t : Tlb) (va : Nat) : Got Tlb := { s with tlb := s.tlb.filter fun x => x != t }.tlbFill t.die t.asid va

/-- Set DY on the first write through a leaf (R199); its entry's page may be held or refused like any other (R368, R369). -/
def tlbDirty (s : State) (t : Tlb) : Got Unit :=
  if t.entry.testBit 3 then .ok () s
  else (if s.entryStale t then s.tlbAgain t t.va else .ok t s).andThen fun t s =>
    match s.entryPlace t.entryAt with
    | none => .fault 3 t.va
    | some q =>
      if s.placeHeld q then .hold none
      else
        let m := s.rdNat q.flat 8
        let u := { s with tlb := s.tlb.map fun u => if u = t then { u with entry := t.entry ||| 8 } else u }
        .ok () (if m.testBit 3 then u else u.storeMoving q (leBytes 8 (m + 8)))

/-- The leaf for an access; after PLACEMENT_STALE its sender translates again (R369). -/
def tlbFresh (s : State) (die asid va : Nat) : Got Tlb :=
  (s.tlbFill die asid va).andThen fun t u => if u.placementStale t then u.tlbAgain t va else .ok t u

/-- The re-stripe in progress on a page, if any (R368). -/
def moveOf (s : State) (asid va : Nat) : Option Move :=
  s.moves.find? fun m => m.asid = asid && m.va ≤ va && va < m.va + m.size

/-! ### Control space (R325) -/

/-- The dispatch engine of a die makes the accesses of what follows, and nobody waits for them in a queue (R199). -/
def onDie (s : State) (die : Nat) : State := { s with die := die, asker := .none }

/-- The dispatch engine of a die does something in the middle of a step. -/
def byDie (s : State) (die : Nat) (f : State → State) : State := { f (s.onDie die) with die := s.die, asker := s.asker }

/-- The leaf of a control address that the die's cache holds, unless it is refused as stale (R199, R369). -/
def ctlCached (s : State) (va : Nat) : Option Tlb := (s.tlbFind s.die 0 va).filter fun t => !(s.placementStale t)

/-- The leaf for a control access: cached, or found by a walk where none is (R199). -/
def ctlLeaf (s : State) (va : Nat) : Option Tlb :=
  match s.ctlCached va with
  | some t => some t
  | none => match s.walk 0 va with
    | .leaf l => some ⟨s.die, 0, va - va % pageSize l.level, l.level, l.entry, l.entryAt, s.beat⟩
    | _ => none

/-- Where a control address lies: ASID 0 of the module, a moving page at its old home, an installed one at its new (R215, R325,
R369); none where its page is absent, malformed, moving unaccounted for or retired. -/
def ctlPlace (s : State) (va : Nat) : Option Place :=
  match s.ctlLeaf va with
  | none => none
  | some t => match s.moveOf 0 va with
    | some m => (stripeOfStale s.geom (m.oldBase + (va - m.va)) m.oldPlace).map fun h => .hbm h m.oldPlace (m.oldBase + (va - m.va))
    | none => if 2 ≤ bits t.entry 58 2 then none
        else (s.leafPlace ⟨t.entryAt, t.entry, t.level⟩ va).map (s.spot (s.forwards.length + 1))

/-- Read control space byte by byte; a byte that does not translate reads as 0. -/
def ctlRd (s : State) (va n : Nat) : List Byte :=
  (List.range n).map fun i => match s.ctlPlace (va + i) with
    | some p => mget s.mem p.flat
    | none => 0

def ctlNat (s : State) (va n : Nat) : Nat := leNat (s.ctlRd va n)

/-- The first address of each 64 KiB page that runs of control addresses touch. -/
def pagesOf (l : List (Nat × Nat)) : List Nat :=
  l.flatMap fun (a, n) =>
    if n = 0 then [] else (List.range ((a % 65536 + n + 65535) / 65536)).map fun i => max a (a - a % 65536 + 65536 * i)

/-- Whether a walk is held, or an entry on whose DY a write still has to wait (R199, R368). -/
def tableHeld (s : State) (va : Nat) : Bool :=
  match s.ctlCached va with
  | some t => !(t.entry.testBit 3) && match s.entryPlace t.entryAt with
    | some q => s.placeHeld q
    | none => false
  | none => match s.walk 0 va with
    | .held => true
    | _ => false

/-- Whether a control access must wait: nothing may hold it, nor its translation (R368, log entry 55). -/
def ctlWaits (s : State) (va : Nat) : Bool :=
  s.tableHeld va || match s.ctlPlace va with
    | some p => s.placeHeld p
    | none => false

/-- The first page of some runs that does not translate (R200, R325). -/
def ctlGaps (s : State) (l : List (Nat × Nat)) : Option Nat := (pagesOf l).find? fun v => (s.ctlPlace v).isNone && !(s.tableHeld v)

/-- The same of one run. -/
def ctlGap (s : State) (a n : Nat) : Option Nat := s.ctlGaps [(a, n)]

/-- Whether a control access to some runs must wait. -/
def ctlHeld (s : State) (l : List (Nat × Nat)) : Bool :=
  if s.moves.isEmpty && s.forwards.isEmpty then false else (pagesOf l).any s.ctlWaits

/-- Whether no page at all is being committed or has accesses waiting. -/
def ctlQuiet (s : State) : Bool := !(s.moves.any fun m => m.committing) && s.forwards.all fun f => f.gone || (s.waiting f.queue).isEmpty

/-- Whether control accesses to some runs can be made now: in an open interval, to pages that are present and not held (R325,
R368). -/
def ctlReady (s : State) (l : List (Nat × Nat)) : Bool := s.openNow && !(s.ctlHeld l) && (s.ctlGaps l).isNone

/-- Ask system software for a page, once. -/
def askPage (s : State) (asid va : Nat) : State :=
  if s.pageReqs.contains (asid, va) then s else { s with pageReqs := (asid, va) :: s.pageReqs }

/-- Ask for the first of the pages of some runs that is absent, if one is (R200, R325). -/
def askGaps (s : State) (l : List (Nat × Nat)) : State :=
  match s.ctlGaps l with
  | some v => s.askPage 0 v
  | none => s

/-- Whether an absent page of some runs has still to be asked for, in an open interval. -/
def asks (s : State) (l : List (Nat × Nat)) : Bool :=
  s.openNow && match s.ctlGaps l with
    | some v => !(s.pageReqs.contains (0, v))
    | none => false

/-- The leaf of a control address is cached and its AC set, as a read through it leaves it (R199). -/
def ctlTouch (s : State) (va : Nat) : State :=
  match s.tlbFresh s.die 0 va with
  | .ok _ t => t
  | _ => s

/-- Accesses are made to runs of control addresses (R199). -/
def ctlUse (s : State) (l : List (Nat × Nat)) : State := (pagesOf l).foldl ctlTouch s

/-- The leaf of a control address as a write through it leaves it: cached, AC and DY set (R199). -/
def ctlDirty (s : State) (va : Nat) : State :=
  match (s.tlbFresh s.die 0 va).andThen fun t u => u.tlbDirty t with
  | .ok _ t => t
  | _ => s

/-- Write one byte of control space; a byte that does not translate is not written. -/
def ctlPut (s : State) (va : Nat) (b : Byte) : State :=
  match s.ctlPlace va with
  | some p => (s.ctlDirty va).storeMoving p [b]
  | none => s

/-- Write control space byte by byte. -/
def ctlWr : State → Nat → List Byte → State
  | s, _, [] => s
  | s, va, b :: bs => ctlWr (s.ctlPut va b) (va + 1) bs

def ctlWrNat (s : State) (va n v : Nat) : State := s.ctlWr va (leBytes n v)

end State

end Sys2Proof.Machine
end

