-- ==== Sys2Proof/Machine/Ops.lean ====
section
/-! DEFINITION. The shared operations: contexts, register access under rotation, results in flight, claims, extent
checks, records, taking a fault and returning from one (spec 02, 05, 06, 09, 19). -/

namespace Sys2Proof.Machine

/-! ### Contexts and gangs -/

namespace State

def ctx (s : State) (c : Nat) : Ctx := tget {} s.ctxs c
def setCtx (s : State) (c : Nat) (x : Ctx) : State := { s with ctxs := tset s.ctxs c x }
def modCtx (s : State) (c : Nat) (f : Ctx → Ctx) : State := s.setCtx c (f (s.ctx c))
def modRegs (s : State) (c : Nat) (f : Regs → Regs) : State := s.modCtx c fun x => { x with regs := f x.regs }
def gang (s : State) (i : Nat) : Gang := tget {} s.gangs i
def setGang (s : State) (i : Nat) (g : Gang) : State := { s with gangs := tset s.gangs i g }
def modGang (s : State) (i : Nat) (f : Gang → Gang) : State := s.setGang i (f (s.gang i))

/-- The issuing context, its registers and its gang. -/
def me (s : State) : Ctx := s.ctx s.cur.ctx
def regs (s : State) : Regs := s.me.regs
def myGang (s : State) : Gang := s.gang s.me.gang
def modMe (s : State) (f : Ctx → Ctx) : State := s.modCtx s.cur.ctx f
def modCur (s : State) (f : Cursor → Cursor) : State := { s with cur := f s.cur }

/-- An array pair by global ID (R269). -/
def pair (s : State) (pid : Nat) : Pair := tget {} s.pairs pid
def setPair (s : State) (pid : Nat) (p : Pair) : State := { s with pairs := tset s.pairs pid p }
def modPair (s : State) (pid : Nat) (f : Pair → Pair) : State := s.setPair pid (f (s.pair pid))

/-- The next free value's number, and the state that has taken it. -/
def free (s : State) : Nat × State := (s.fresh, { s with fresh := s.fresh + 1 })

/-- Apply a change to every context of a list. -/
def modAll (s : State) (cs : List Nat) (f : Ctx → Ctx) : State := cs.foldl (fun t c => t.modCtx c f) s

end State

/-- Die of the dispatch engine that serves a queue (R329). -/
def State.queueDie (n : Nat) : Nat := n / 1024

/-- Tile ID of a context bank. -/
def tileOf (c : Nat) : Nat := c / 2

/-- Die, row and column of a tile ID (R21). -/
def dieOf (t : Nat) : Nat := t / 256 % 4
def rowOf (t : Nat) : Nat := t / 16 % 16
def colOf (t : Nat) : Nat := t % 16

/-- Whether a gang is frozen at this beat (R390). -/
def State.gangFrozen (s : State) (gid : Nat) : Bool :=
  match (s.gang gid).fz with
  | some f => f.beat ≤ s.beat
  | none => false

/-- The beat a wait ends: max(e, W + 1) (R357). -/
def Wait.over (w : Wait) : Nat := max w.ends (w.w + 1)

/-- HCYC of a context at this beat: it stands still in a freeze, once what it issued has landed in its own wait at a
rendezvous, and in a rewind (R5, R29, R139, R149, R358, R406; log entry 40). -/
def State.hcyc (s : State) (c : Nat) : Nat :=
  let x := s.ctx c
  let now := match (s.gang x.gang).fz with
    | some f => min f.beat s.beat
    | none => s.beat
  match x.run, x.wait with
  | .running, _ => now - x.hbase
  | .waiting, some w => min (now - x.hbase) w.hc
  | _, _ => x.hz

/-! ### PART (R186, R187) -/

def Ctx.nv (x : Ctx) : Nat := if x.part.getLsbD 0 then 128 else 64
def Ctx.window (x : Ctx) : Nat := 32 * ((x.part.extractLsb' 1 2).toNat + 1)
def Ctx.accs (x : Ctx) : Nat := (x.part.extractLsb' 3 4).toNat
def Ctx.spLo (x : Ctx) : Nat := 4096 * (x.part.extractLsb' 8 7).toNat
def Ctx.spHi (x : Ctx) : Nat := x.spLo + 4096 * (x.part.extractLsb' 15 7).toNat

/-! ### Rotation (R133) -/

def greg (rho n : Nat) : Nat := if n < 16 then n else 16 + (n + 32 * rho - 16 - rho) % 16
def preg (rho n : Nat) : Nat := if n < 8 then n else 8 + (n + 16 * rho - 8 - rho) % 8
def vreg (rho w n : Nat) : Nat := if n < 32 then n else 32 + (n + 2 * w * rho - 32 - rho) % w

/-- Rotation modulus M: the least common multiple of 16 and W (R133). -/
def rotMod (w : Nat) : Nat := Nat.lcm 16 w

namespace Regs

/-- General register by physical number; g0 reads zero (R20). -/
def gr (r : Regs) (n : Nat) : Word := if n = 0 then 0 else tget 0 r.g n

/-- Predicate by physical number; p0 reads true (R20). -/
def pr (r : Regs) (n : Nat) : Bool := n = 0 || tget false r.p n

/-- Mask register; m0 reads all ones (R127). -/
def mr (r : Regs) (n : Nat) : BitVec 128 := if n = 0 then BitVec.allOnes 128 else tget 0 r.m n

/-- One lane of a physical vector register. -/
def lane (r : Regs) (n l : Nat) : Half := tget 0 (tget [] r.v n) l

/-- All 128 lanes of a physical vector register. -/
def vec (r : Regs) (n : Nat) : List Half := let t := tget [] r.v n; (List.range 128).map fun l => tget 0 t l

/-- One accumulator element, FP32 bits. -/
def acc (r : Regs) (z e : Nat) : Half := tget 0 (tget [] r.z z) e

def fifo (r : Regs) (q : Nat) : Fifo := if q = 0 then r.q0 else r.q1
def setFifo (r : Regs) (q : Nat) (f : Fifo) : Regs := if q = 0 then { r with q0 := f } else { r with q1 := f }

end Regs

/-! ### Keys of registers: land claims and poison marks -/

def keyG (r : Nat) : Nat := r
def keyP (r : Nat) : Nat := 32 + r
def keyM (r : Nat) : Nat := 64 + r
def keyS (i : Nat) : Nat := 128 + i
def keyZ (z : Nat) : Nat := 256 + z
def keyV (n : Nat) : Nat := 512 + n
def keyAwin (p : Nat) : Nat := 1024 + p
def keyAgain (p : Nat) : Nat := 1056 + p
def keyXseed (p : Nat) : Nat := 1088 + p

/-- Mark units within vector registers, accumulators and FIFOs (R381). -/
def unitV (n l : Nat) : Nat := 4096 + 128 * n + l
def unitZ (z row : Nat) : Nat := 32768 + 32 * z + row
def unitQ (q pos : Nat) : Nat := 40960 + 64 * q + pos % 64

/-- A register unit is written: marked data marks it, and no error was found in it (R381, R383). -/
def Regs.mark (r : Regs) (u : Nat) (mk : Bool) : Regs :=
  { r with marks := if mk then tset r.marks u false else tdel r.marks u }

def Regs.isMarked (r : Regs) (u : Nat) : Bool := (tfind r.marks u).isSome

/-! ### Items in flight -/

/-- Order of effects within one beat: lands and reads before issue, writes after it (R11, R30, R54, R219). -/
def Act.rank : Act → Nat
  | .draws _ => 0
  | .sreg _ _ => 1
  | .g _ _ _ | .p _ _ _ | .preds _ | .lanes _ _ | .m _ _ _ => 2
  | .awin _ _ | .again _ _ | .xseed _ _ => 2
  | .flags _ => 3
  | .fold _ => 3
  | .hbmLand _ dst _ _ _ _ => if dst = 0 then 20 else 4
  | .frame _ _ ok => if ok then 4 else 20
  | .fifo _ _ | .zland _ _ _ | .arrive _ _ => 4
  | .lost _ _ => 11
  | .hrdtLand _ _ _ => 5
  | .train _ => 5
  | .digital _ => 6
  | .vldHalf _ _ | .vldbScale _ _ _ | .qldGroup _ _ _ | .qldScale _ _ _ | .mmaRead _ _ _ _ _ _ _ _ _ _
  | .mmaAcc _ _ _ _ _ _ _ | .zldRow _ _ _ _ _ _ _ | .zstRead _ _ _ _ _ _ _ | .ain _ _ | .hbmRead _ _ _ _ _
  | .hbmWrite _ _ _ => 10
  | .pool _ _ | .flit _ _ _ _ _ | .hbmPerform _ _ _ | .aout _ _ | .pulse _ _ => 20

/-- Whether an item comes before another: by beat, rank, issue beat, slot (R380). -/
def Item.before (a b : Item) : Bool :=
  if a.due ≠ b.due then a.due < b.due
  else if a.act.rank ≠ b.act.rank then a.act.rank < b.act.rank
  else if a.issued ≠ b.issued then a.issued < b.issued
  else a.slot < b.slot

/-- Insert an item in that order; equal ones keep the order in which they came. -/
def insItem (it : Item) : List Item → List Item
  | [] => [it]
  | x :: r => if it.before x then it :: x :: r else x :: insItem it r

namespace State

/-- Put an item in flight for a context. -/
def addItem (s : State) (c : Nat) (it : Item) : State :=
  s.modCtx c fun x => { x with items := insItem it x.items }

/-- An item of the issuing slot, due `n` beats from now; `fin` and `dr` count from now, 0 for not counted. -/
def push (s : State) (n : Nat) (act : Act) (fin : Nat := 0) (dr : Nat := 0) : State :=
  s.addItem s.cur.ctx ⟨s.beat + n, if fin = 0 then 0 else s.beat + fin, if dr = 0 then 0 else s.beat + dr,
    s.cur.slot, s.beat, false, act, 0, false⟩

/-- Announce a land for the collision check of the bundle (R32, R129). -/
def claimLand (s : State) (key n : Nat) (mask : BitVec 128 := BitVec.allOnes 128) (soft : Bool := false) : State :=
  s.modMe fun x => { x with lands := ⟨key, s.beat + n, mask, soft, s.beat, s.cur.slot⟩ ::
    (x.lands.filter fun l => s.beat ≤ l.beat) }

/-- Land a value in a general register `n` beats from now; a write to g0 lands nowhere (R20, R30, R134). -/
def landG (s : State) (d : BitVec 6) (v : Word) (n : Nat) (mk : Bool := false) : State :=
  let r := greg s.regs.rotpos d.toNat
  if r = 0 then s else (s.claimLand (keyG r) n).push n (.g r v mk) n

/-- Land a predicate; a write to p0 lands nowhere (R20). -/
def landP (s : State) (d : Nat) (v : Bool) (n : Nat) : State :=
  let r := preg s.regs.rotpos d
  if r = 0 then s else (s.claimLand (keyP r) n).push n (.p r v false) n

/-- Land a mask register as a whole; a write to m0 lands nowhere (R127). -/
def landM (s : State) (d : Nat) (v : BitVec 128) (n : Nat) : State :=
  if d = 0 then s else (s.claimLand (keyM d) n).push n (.m d v false) n

/-- The mask of a list of lane numbers. -/
def laneMask (ls : List Nat) : BitVec 128 := ls.foldl (fun m l => m ||| (1#128 <<< l)) 0

/-- Physical vector register of a field (R133). -/
def vphys (s : State) (d : BitVec 6) : Nat := vreg s.regs.rotpos s.me.window d.toNat

/-- Land lanes of a vector register (R128, R129); no lane, no land. -/
def landV (s : State) (d : BitVec 6) (vals : List (Nat × Half)) (n : Nat) : State :=
  let r := s.vphys d
  if vals.isEmpty then s
  else (s.claimLand (keyV r) n (laneMask (vals.map (·.1)))).push n
    (.lanes r (vals.map fun x => (x.1, x.2, false))) n

/-- Raise FSTAT flags with a result (R22). -/
def landFlags (s : State) (f : BitVec 6) (n : Nat) : State := if f = 0 then s else s.push n (.flags f) n

end State

/-! ### Steps of the sequencer at the next bundle's cycle (R35, R39, R40, R135) -/

/-- Loop entries whose bodies a taken branch leaves are popped (R40). A target in the end bundle's bytes past its first
one counts as outside the body (log entry 26). Popping stops at the first entry whose body holds the target (log entry 70). -/
def popLoops (target : Nat) : List Loop → List Loop
  | [] => []
  | l :: r => if target < l.start.toNat || l.stop.toNat < target then popLoops target r else l :: r

/-- The target of a taken branch becomes the next bundle, and the loops it leaves are popped (R35, R40). -/
def Ctx.redirected (x : Ctx) : Ctx :=
  match x.redirect with
  | none => x
  | some t => { x with redirect := none, regs := { x.regs with pc := t, loops := popLoops t.toNat x.regs.loops } }

/-- ρ advances by one modulo M at a step of a rotating loop (R135). -/
def Ctx.rotate (x : Ctx) (rot : Bool) : Ctx :=
  if rot then { x with regs := { x.regs with rotpos := (x.regs.rotpos + 1) % rotMod x.window } } else x

/-- One iteration step of the innermost loop: count down and restart, or pop; an enclosing loop with the same end
bundle steps next (R39, R135). -/
def Ctx.stepLoop (x : Ctx) : Ctx :=
  match x.regs.loops with
  | [] => { x with loopStep := false }
  | l :: r =>
    if 1 < l.count then
      { x with loopStep := false, regs := { x.regs with pc := l.start, loops := { l with count := l.count - 1 } :: r } }.rotate l.rot
    else
      { x with regs := { x.regs with loops := r }, loopStep := match r with
        | [] => false
        | k :: _ => k.stop = l.stop }.rotate l.rot

/-- The context with every step made that falls at its next bundle's cycle: at most four loops step (R39, R40, R44). -/
def Ctx.settled (x : Ctx) : Ctx :=
  (List.range 4).foldl (fun y _ => if y.loopStep then y.stepLoop else y) x.redirected

/-- Address of the bundle at issue or next to issue (R385, R399). -/
def Ctx.pcNext (x : Ctx) : BitVec 16 := x.settled.regs.pc

/-! ### Fault records (R384, R385) -/

/-- The 64 bytes of a record. -/
def Record.bytes (r : Record) : List Byte :=
  leBytes 8 r.beat ++ leBytes 4 r.seq.toNat ++ leBytes 4 r.src ++ leBytes 1 r.code ++ leBytes 1 r.cls ++
  leBytes 1 r.detail ++ leBytes 1 r.slot ++ leBytes 2 r.pc.toNat ++
  leBytes 2 (r.more.toNat + 2 * r.gangRewind.toNat + 4 * r.rs.toNat + 8 * r.sc.toNat + 16 * r.frame.toNat +
    32 * r.second.toNat) ++
  leBytes 8 r.hcyc ++ leBytes 2 r.gang ++ leBytes 2 r.ctxn ++ leBytes 2 r.asid ++ leBytes 2 r.rply ++
  leBytes 8 r.tag.toNat ++ leBytes 8 r.aux0.toNat ++ leBytes 8 r.aux1.toNat

/-- Source kinds of SRC (R385). -/
def srcTile (t : Nat) : Nat := t
def srcEngine (t : Nat) : Nat := t + 1 * 2 ^ 16
def srcArray (t : Nat) : Nat := t + 2 * 2 ^ 16
def srcDispatch (d : Nat) : Nat := d + 3 * 2 ^ 16
def srcFabric (p : Nat) : Nat := p + 4 * 2 ^ 16
def srcFirmware : Nat := 5 * 2 ^ 16

/-- The die of a source: of the firmware and the fabric ports, die 0 (R385, log entry 77). -/
def srcDie (src : Nat) : Nat := if src < 3 * 2 ^ 16 then dieOf (src % 2 ^ 16) else if src < 4 * 2 ^ 16 then src % 4 else 0

namespace State

/-- Take the next sequence number of a source (R385); the first is 0 (log entry 5). -/
def nextSeq (s : State) (src : Nat) : BitVec 32 × State :=
  let n := tget 0 s.seqs src
  (n, { s with seqs := tset s.seqs src (n + 1) })

/-- Whether fault-domain entry `n` is well formed: LOGN in 1-16, RING 64-aligned, zero fields zero (R384). -/
def fdOk (s : State) (n : Nat) : Bool :=
  let a := s.fdtab + 32 * n
  let logn := s.ctlNat (a + 8) 1
  s.fdtab != 0 && 1 ≤ logn && logn ≤ 16 && s.ctlNat a 8 % 64 = 0 && s.ctlNat (a + 9) 3 = 0 && s.ctlNat (a + 0x1C) 4 = 0 &&
    s.ctlNat (a + 0x1A) 2 ≤ 1

/-- An MSI-X entry at reset: its mask bit is set (log entry 56). -/
def msixReset : BitVec 128 := 1#128 <<< 96

/-- Send an interrupt, or keep it pending while its MSI-X entry is masked (R425, R427, log entry 56). -/
def interrupt (s : State) (v : Nat) : State :=
  if (tget msixReset s.msix v).getLsbD 96 then
    { s with pendingIrqs := if s.pendingIrqs.contains v then s.pendingIrqs else v :: s.pendingIrqs }
  else { s with irqs := v :: s.irqs }

/-- Write a record into the ring of fault domain `n`: at TAIL, or LOST counts it when the ring is full (R384). -/
def ringRecord (s : State) (n : Nat) (bs : List Byte) : State :=
  let a := s.fdtab + 32 * n
  let size := 2 ^ s.ctlNat (a + 8) 1
  let tail := s.ctlNat (a + 0x0C) 4
  let head := s.ctlNat (a + 0x10) 4
  if (tail + 2 ^ 32 - head) % 2 ^ 32 = size then s.ctlWrNat (a + 0x14) 4 (s.ctlNat (a + 0x14) 4 + 1)
  else
    let t := (s.ctlWr (s.ctlNat a 8 + 64 * (tail % size)) bs).ctlWrNat (a + 0x0C) 4 (tail + 1)
    if s.ctlNat (a + 0x1A) 2 % 2 = 1 ∧ s.ctlNat (a + 0x18) 2 < 2048 then t.interrupt (s.ctlNat (a + 0x18) 2) else t

/-- Number a record by its source and log it (the most recent 65,536); where there is a fault-domain table it goes to its domain's
ring in an open interval (R210, R384, R385). -/
def postRecord (s : State) (fd : Nat) (r : Record) : State :=
  let (n, t) := s.nextSeq r.src
  let r := { r with
    seq := n,
    fd := if s.fdtab = 0 then 0 else fd }
  let t := { t with log := List.take 65536 (r :: t.log) }
  if s.fdtab = 0 then t else { t with dues := t.dues ++ [(srcDie r.src, .fault fd r)] }

/-- The next slot of a domain's ring. -/
def ringSlot (s : State) (n : Nat) : Nat × Nat :=
  let a := s.fdtab + 32 * n
  (s.ctlNat a 8 + 64 * (s.ctlNat (a + 0x0C) 4 % 2 ^ s.ctlNat (a + 8) 1), 64)

/-- What a record of domain `n` reads and writes: its entry and ring, or those of domain 0 where the entry is malformed. -/
def faultRuns (s : State) (n : Nat) : List (Nat × Nat) :=
  (s.fdtab + 32 * n, 32) :: (if s.fdOk n then [s.ringSlot n] else (s.fdtab, 32) :: if s.fdOk 0 then [s.ringSlot 0] else [])

/-- Write a record to its fault domain's ring, or to domain 0 where that entry is malformed (R384). -/
def ringNow (s : State) (n : Nat) (r : Record) : State :=
  let d := if s.fdOk n then n else 0
  let t := { s with log := s.log.map fun q => if q = r then { q with fd := d } else q }
  if t.fdOk d then t.ringRecord d r.bytes else t

/-- The record fields a context fills in. -/
def ctxRecord (s : State) (c code cls detail slot : Nat) : Record :=
  let x := s.ctx c
  { beat := s.beat, seq := 0, src := srcTile (tileOf c), code := code, cls := cls, detail := detail, slot := slot,
    pc := x.pcNext, rs := x.rs, sc := x.sc, hcyc := s.hcyc c, gang := x.gang, ctxn := x.ctxid.toNat % 65536,
    asid := x.asid.toNat, rply := x.rply.toNat, tag := (s.gang x.gang).slice.tag }

/-! ### Freezing, faulting, restarting (R378-R380, R387-R392) -/

/-- Keep a context as it is after the lands of this beat, before its reads and its bundle (log entries 8, 27). -/
def keepUndo (s : State) (c : Nat) : State :=
  match tfind s.undo c with
  | some _ => s
  | none => { s with undo := tset s.undo c (s.ctx c) }

/-- A context as it was before this beat's reads and bundle. -/
def before (s : State) (c : Nat) : Ctx := (tfind s.undo c).getD (s.ctx c)

/-- Contexts return to what they were before this beat's reads and bundles: a bundle has no effect, and reads are held; lands
of the beat stay in effect (R12, R268, R390; log entry 27). -/
def undoCtxs (s : State) (cs : List Nat) : State :=
  cs.foldl (fun t c => match tfind s.undo c with
    | some x => t.setCtx c { x with tried := (t.ctx c).tried }
    | none => t) s

/-- Reservations taken by contexts of a list at this beat are dropped. -/
def dropClaims (s : State) (gid : Nat) (cs : List Nat) : State :=
  s.modGang gid fun g =>
    { g with
      claims := (List.filter (fun c => !(c.issued == s.beat && cs.contains c.ctx)) g.claims),
      lines := (List.filter (fun c => !(c.issued == s.beat && cs.contains c.ctx)) g.lines) }

/-- Freeze a gang from beat `b` on: no member issues, and what has not happened by then is held (R390). -/
def freezeGang (s : State) (gid b : Nat) (why : Why) : State :=
  s.modGang gid fun g => { g with fz := some ⟨b, why, none⟩ }

/-- FIFO landing and free cycles move with a restart (R390). -/
def shiftFifo (b n : Nat) (f : Fifo) : Fifo :=
  let mv : Table Nat → Table Nat := fun t => t.map fun (p, x) => (p, if b ≤ x then x + n else x)
  { f with land := mv f.land, free := mv f.free }

/-- Move everything of a frozen member that had not happened by `b` later by `n` beats (R391). -/
def shiftCtx (b n : Nat) (x : Ctx) : Ctx :=
  { x with
    items := (x.items.map fun it => if it.rt then it else
      { it with due := if b ≤ it.due then it.due + n else it.due,
                fin := if b ≤ it.fin then it.fin + n else it.fin,
                dr := if b ≤ it.dr then it.dr + n else it.dr }),
    lands := (x.lands.map fun l => if b ≤ l.beat then { l with beat := l.beat + n } else l),
    regs := { x.regs with q0 := shiftFifo b n x.regs.q0, q1 := shiftFifo b n x.regs.q1 },
    nextAt := if b ≤ x.nextAt then x.nextAt + n else x.nextAt,
    hbase := x.hbase + n,
    rewAt := if b ≤ x.rewAt then x.rewAt + n else x.rewAt,
    ops := (x.ops.map fun (i, o) => (i, if b ≤ o.last then { o with last := o.last + n } else o)),
    wait := (x.wait.map fun w => if b ≤ w.ends then { w with ends := w.ends + n } else w) }

/-- Restart a frozen gang at this beat: HCYC resumes at h_z, held items keep their relative cycles (R391). The
return from a freeze. -/
def restartGang (s : State) (gid : Nat) : State :=
  let g := s.gang gid
  match g.fz with
  | none => s
  | some f =>
    let n := s.beat - f.beat
    (s.modAll g.members (shiftCtx f.beat n)).modGang gid fun g =>
      { g with
        fz := none,
        entry := (g.entry.map fun e => if f.beat ≤ e then e + n else e),
        claims := (g.claims.map fun c => if f.beat ≤ c.beat then { c with beat := c.beat + n } else c),
        lines := (g.lines.map fun l => if f.beat ≤ l.beat then { l with beat := l.beat + n } else l) }

/-- Whether a fault of this code is rewindable by its class (R377); POISON only where R383 allows it. -/
def rewindable (code : Nat) (found : Bool) : Bool := code = 0x0B || (code = 0x0A && found)

/-- Beat at which everything a context has issued has landed or performed, analog operations among it (R43, R149,
R280). -/
def lastFin (x : Ctx) : Nat :=
  x.ops.foldl (fun n o => max n (o.2.last + 1)) (x.items.foldl (fun n it => max n it.fin) 0)

/-- A member starts to rewind with HCYC `h` (R388): no further issue; outstanding items complete. -/
def rewindCtx (beat h : Nat) (all : Bool) (x : Ctx) : Ctx :=
  { x with run := .rewinding, rew := some beat, rewAll := all, rewAt := max beat (lastFin x), hz := h,
           wait := none, delay := none, redirect := none, loopStep := false }

/-- Members start to rewind at this beat. -/
def startRewind (s : State) (all : Bool) (cs : List Nat) : State :=
  cs.foldl (fun t c => t.modCtx c (rewindCtx s.beat (t.hcyc c) all)) s

/-- Whether a gang is failing: nothing of it rewinds any more (R378, R392). -/
def gangFailing (s : State) (gid : Nat) : Bool :=
  s.gangFrozen gid && match (s.gang gid).fz with
    | some f => f.why = .fail
    | none => false

/-- The record of the fault a tile has taken at this beat, if any (R380). -/
def faultNow (s : State) (tile : Nat) : Option Record := s.taken.find? fun r => r.src = srcTile tile

/-- Rewrite the record of the fault that a tile has taken at this beat (R380). -/
def rerecord (s : State) (tile : Nat) (f : Record → Record) : State :=
  { s with taken := s.taken.map fun r => if r.src = srcTile tile then f r else r }

/-- Set MORE in the record of the fault a tile has taken at this beat (R380). -/
def setMore (s : State) (c : Nat) : State := s.rerecord (tileOf c) fun r => { r with more := true }

/-- The record of a rewind that does not take place: a slice fault of the same code (R380). -/
def asSlice (r : Record) : Record :=
  if r.code = 0x25 then { r with code := r.detail, cls := 1, detail := 0, gangRewind := false } else r

/-- A slice fault at the beat at which members began to rewind: none rewinds, and their records are slice faults
(R380, R403). -/
def cancelRewinds (s : State) (gid : Nat) : State :=
  (s.gang gid).members.foldl (fun t m =>
    if (t.ctx m).rew != some s.beat then t
    else (t.modCtx m fun x => { x with run := .running, rew := none }).rerecord (tileOf m) asSlice) s

/-- Take a fault on context `c` at this beat: the bundles of the beat are undone, a rewindable fault whose conditions
hold starts a rewind with a REWOUND notice, and any other freezes the gang for good with the tile's own record
(R12, R378-R380, R387, R392; log entries 62, 63). Taking an exception. -/
def takeFault (s : State) (c code detail slot : Nat) (aux0 aux1 : Word) (second found : Bool) : State :=
  let x := s.before c
  let gid := x.gang
  let g := s.gang gid
  let set := if x.sc then [c] else g.members
  let ok := rewindable code found && x.rs && (x.sc || g.members.all fun m => (s.before m).rs) && !(s.gangFailing gid)
  let limit := ok && set.any fun m => 3 ≤ (s.ctx m).rply.toNat
  let s := s.modCur fun k => { k with faulted := true, poisoned := code = 0x0A }
  if (s.faultNow (tileOf c)).isSome then s.setMore c
  else if ok && !limit then
    let t := ((set.foldl keepUndo s).undoCtxs set).dropClaims gid set
    let t := (t.startRewind (!x.sc) set).modGang gid fun g => { g with entry := none }
    { t with taken := { t.ctxRecord c 0x25 0 code slot with
      gangRewind := !x.sc, aux0 := aux0, aux1 := aux1, second := second, hcyc := s.hcyc c, pc := (s.ctx c).pcNext } :: t.taken }
  else
    let t := ((s.cancelRewinds gid).undoCtxs g.members).dropClaims gid g.members
    let r := { t.ctxRecord c (if limit then 0x11 else code) 1 (if limit then code else detail) slot with
      aux0 := aux0, aux1 := aux1, second := second, hcyc := s.hcyc c, pc := (s.ctx c).pcNext }
    let t := if s.gangFrozen gid then t.modGang gid fun g =>
        { g with fz := g.fz.map fun f => { f with why := .fail, restart := none } }
      else t.freezeGang gid s.beat .fail
    { t with taken := r :: t.taken }

/-- A fault of the issuing slot. -/
def raise (s : State) (code detail : Nat) (aux0 : Word := 0) : State :=
  s.takeFault s.cur.ctx code detail s.cur.slot aux0 0 false false

/-- Illegal operation under an instruction's own rules: detail 0x0F (R83). -/
def illegal (s : State) : State := s.raise 0x03 0x0F

/-- Extent fault with its detail and address (R195, R218). -/
def extentFault (s : State) (detail : Nat) (addr : Word) : State := s.raise 0x04 detail addr

/-- Timetable slip with its cause (R377). -/
def slip (s : State) (cause : Nat) : State := s.raise 0x09 cause

/-- POISON on consuming a marked register unit of the issuing context (R382, R383). -/
def poisonReg (s : State) (u : Nat) : State :=
  s.takeFault s.cur.ctx 0x0A 0 s.cur.slot 0 0 false (tget false s.regs.marks u)

/-! ### Reading operands at issue (R28, R30, R133, R382) -/

/-- Read a general register and go on, or raise POISON. -/
def useG (s : State) (n : BitVec 6) (k : Word → State) : State :=
  let r := greg s.regs.rotpos n.toNat
  if s.regs.isMarked (keyG r) then s.poisonReg (keyG r) else k (s.regs.gr r)

/-- Read a predicate and go on. -/
def useP (s : State) (n : Nat) (k : Bool → State) : State :=
  let r := preg s.regs.rotpos n
  if s.regs.isMarked (keyP r) then s.poisonReg (keyP r) else k (s.regs.pr r)

/-- Read a mask register and go on. -/
def useM (s : State) (n : Nat) (k : BitVec 128 → State) : State :=
  if s.regs.isMarked (keyM n) then s.poisonReg (keyM n) else k (s.regs.mr n)

/-- The first marked lane among those of a mask. -/
def markedLane (s : State) (r : Nat) (lanes : BitVec 128) : Option Nat :=
  if s.regs.marks.isEmpty then none
  else ((List.range 128).filter fun l => lanes.getLsbD l && s.regs.isMarked (unitV r l)).head?

/-- Read lanes of a vector register and go on; only the lanes of `lanes` are consumed. -/
def useV (s : State) (n : BitVec 6) (lanes : BitVec 128) (k : List Half → State) : State :=
  let r := s.vphys n
  match s.markedLane r lanes with
  | some l => s.poisonReg (unitV r l)
  | none => k (s.regs.vec r)

/-- The guard: a false guard does nothing (R28). -/
def guarded (s : State) (g : BitVec 4) (k : State) : State :=
  s.useP g.toNat fun p => if p then k else s

/-! ### Extents (R195) and bank claims (R147, R148, R219) -/

/-- ext_addr for the pool kind alone: the pool offset, or the detail. -/
def poolAddr (s : State) (addr : Word) (n : Nat) : Except Nat Nat :=
  let off := (addr.extractLsb' 0 56).toNat
  if addr.extractLsb' 56 8 != 0 then
    let x := tget {} s.me.extents (addr.extractLsb' 56 8).toNat
    .error (if x.valid then 0x04 else 0x01)
  else if off < s.me.spLo ∨ s.me.spHi < off + n then .error 0x06 else .ok off

/-- Check a pool address and its alignment and go on with the offset (R195, R218). -/
def usePool (s : State) (addr : Word) (n align detail : Nat) (k : Nat → State) : State :=
  match s.poolAddr addr n with
  | .error e => s.extentFault e addr
  | .ok off => if off % align = 0 then k off else s.extentFault detail addr

/-- ext_addr for several pool addresses of `n` bytes each: the first that fails. -/
def poolExtents (s : State) (n : Nat) : List Word → Except (Nat × Word) (List (Nat × Word))
  | [] => .ok []
  | a :: r =>
    match s.poolAddr a n with
    | .error e => .error (e, a)
    | .ok off => match s.poolExtents n r with
      | .error e => .error e
      | .ok l => .ok ((off, a) :: l)

/-- Several pool addresses: every extent check comes before every alignment check (R195, R218; log entry 35). -/
def poolAddrs (s : State) (n align : Nat) (l : List Word) : Except (Nat × Word) (List Nat) :=
  match s.poolExtents n l with
  | .error e => .error e
  | .ok offs => match offs.find? fun x => x.1 % align ≠ 0 with
    | some x => .error (0x07, x.2)
    | none => .ok (offs.map (·.1))

/-- ext_addr for one kind of entry 1-255: the extent and offset, or the detail. -/
def extAddr (s : State) (addr : Word) (n : Nat) (write : Bool) (kind : Nat) : Except Nat (Extent × Nat) :=
  let off := (addr.extractLsb' 0 56).toNat
  let x := tget {} s.me.extents (addr.extractLsb' 56 8).toNat
  if addr.extractLsb' 56 8 = 0 then .error 0x04
  else if !x.valid then .error 0x01
  else if x.kind != kind then .error 0x04
  else if x.len < off + n then .error 0x02
  else if write && !x.wr then .error 0x03
  else .ok (x, off)

/-- The claims a reservation can meet: the gang's own, and for a memory slot of the ring every gang's (R408). -/
def rivals (s : State) (res : Res) : List Claim :=
  match res with
  | .ring _ _ slot => if 96 ≤ slot then s.gangs.flatMap fun (_, g) => g.claims else s.myGang.claims
  | _ => s.myGang.claims

/-- The reservation that a resource already carries at a beat, if any. -/
def holder (s : State) (res : Res) (beat : Nat) : Option Claim :=
  (s.rivals res).find? fun c => c.res = res && c.beat = beat

/-- The issuing slot's reservation of a resource at a beat; those of past beats go (R144, R148). -/
def addClaim (s : State) (res : Res) (beat : Nat) : State :=
  s.modGang s.me.gang fun g =>
    { g with claims := ⟨res, beat, s.cur.ctx, s.cur.slot, s.beat, s.hcyc s.cur.ctx⟩ :: (g.claims.filter fun c => s.beat ≤ c.beat) }

/-- Reserve a resource at a beat for the issuing slot and go on, or raise the collision `code` with its AUX0 (R144,
R148, R385, R408). -/
def claim (s : State) (code : Nat) (res : Res) (beat : Nat) (aux : Word) (k : State → State) : State :=
  match s.holder res beat with
  | some c =>
    s.takeFault s.cur.ctx code 0 s.cur.slot aux
      (Word.ofNat (tileOf c.ctx + c.slot * 2 ^ 12 + c.hcyc * 2 ^ 16)) true false
  | none => k (s.addClaim res beat)

/-- Reserve a list of resources, each with its beat and AUX0, in order. -/
def claimAll (s : State) (code : Nat) : List (Res × Nat × Word) → (State → State) → State
  | [], k => k s
  | (r, b, aux) :: rest, k => s.claim code r b aux fun t => t.claimAll code rest k

end State

/-- Bank of a pool offset (R147). -/
def bankOf (off : Nat) : Nat := off / 16 % 16

/-- The 16-byte chunks that accesses (offset, length) touch, each once (R219). -/
def chunksOf (accs : List (Nat × Nat)) : List Nat :=
  (accs.flatMap fun (o, n) => (List.range ((o % 16 + n + 15) / 16)).map fun i => o / 16 + i).dedup

/-- The bank claims of accesses of a tile's pool in one beat. -/
def bankClaims (tile beat : Nat) (accs : List (Nat × Nat)) : List (Res × Nat × Word) :=
  (chunksOf accs).map fun c => (.bank tile (c % 16), beat, Word.ofNat (16 * c))

namespace State

/-- Claim the banks of pool accesses `n` beats from now and go on (R148). -/
def claimBanks (s : State) (n : Nat) (accs : List (Nat × Nat)) (k : State → State) : State :=
  s.claimAll 0x06 (bankClaims (tileOf s.cur.ctx) (s.beat + n) accs) k

/-- Read pool bytes of the issuing tile. -/
def rdPool (s : State) (off n : Nat) : List Byte := s.rd (poolAt (tileOf s.cur.ctx) off) n

/-- Whether pool bytes of the issuing tile carry a mark. -/
def poolMarked (s : State) (off n : Nat) : Bool := s.marked (poolAt (tileOf s.cur.ctx) off) n

end State

/-! ### Latencies (R33) -/

namespace Lat
def alu : Nat := 1
def mul : Nat := 3
def div : Nat := 16
def cmp : Nat := 1
def fp : Nat := 4
def vint : Nat := 2
def vfp : Nat := 4
def sfu : Nat := 8
def perm : Nat := 3
def cross : Nat := 4
def red : Nat := 6
def isect : Nat := 4
def conv : Nat := 3
def load : Nat := 4
def vload : Nat := 5
def mma : Nat := 40
end Lat

end Sys2Proof.Machine
end

