-- ==== Sys2Proof/Machine/Operands.lean ====
section
/-! DEFINITION. Operand forms: the arithmetic modifier, immediates, memory operands, block and line descriptors
(spec 04 R78, R81, 05 R99, 10 R222, R229). -/

namespace Sys2Proof.Machine

/-- Operand width of an arithmetic modifier (R99). -/
def amWidth (m : Nat) : Nat := if m = 0 ∨ m = 3 ∨ m = 4 then 64 else 32

/-- Whether a modifier reads signed operands (R99). -/
def amSigned (m : Nat) : Bool := m = 0 || m = 1 || m = 3 || m = 5

/-- am_in of R99. -/
def amIn (m : Nat) (x : Word) : Int :=
  if amSigned m then sextN (amWidth m) x.toNat else ((x.toNat % 2 ^ amWidth m : Nat) : Int)

/-- am_out of R99: wrap or saturate the exact value, then extend to 64 bits. -/
def amOut (m : Nat) (v : Int) : Word :=
  let w := amWidth m
  let y : Int :=
    if m < 3 then v
    else if amSigned m then clampI v (-(2 ^ (w - 1) : Nat)) ((2 ^ (w - 1) : Nat) - 1)
    else clampI v 0 ((2 ^ w : Nat) - 1)
  if amSigned m then Word.ofInt (sextN w (y % (2 ^ w : Nat)).toNat) else Word.ofInt (y % (2 ^ w : Nat))

/-- A signed immediate: imm9 or X as INT32, sign-extended (R78, R101). -/
def immS {n : Nat} : Imm n → Word
  | .short v => v.signExtend 64
  | .ext v => v.signExtend 64

/-- An unsigned immediate: imm9 0-511 or X as NAT32 (R116). -/
def immU {n : Nat} : Imm n → Nat
  | .short v => v.toNat
  | .ext v => v.toNat

/-- The address of the memory operand of R81, with the X word where owned. -/
def memAddr (a b : BitVec 6) (x : Option Half) (ga gb : Word) : Word :=
  match x with
  | none => ga + gb
  | some v =>
    if a = 0 then (v.extractLsb' 24 8).zeroExtend 64 <<< 56 + (v.extractLsb' 0 24).zeroExtend 64 + gb
    else ga + v.signExtend 64 + (if b = 0 then 0 else gb)

/-- An owned X word as a signed 64-bit offset, 0 where none is owned. -/
def xOff (x : Option Half) : Word :=
  match x with
  | none => 0
  | some v => v.signExtend 64

/-- The line descriptor of R229. -/
structure LineDesc where
  n : Nat
  sp : Nat
  hs : Nat
  ps : Nat
  ok : Bool
  deriving DecidableEq, Repr

def lineDesc (v : Word) : LineDesc :=
  let w := v.toNat
  ⟨bits w 0 5 + 1, bits w 8 8, bits w 16 16, bits w 32 16, bits w 8 8 != 0 && bits w 5 3 = 0 && bits w 48 16 = 0⟩

end Sys2Proof.Machine
end

