-- ==== Sys2Proof/Machine/Flags.lean ====
section
/-! DEFINITION. Flag results and the generator of stochastic rounding (spec 02 R22-R24, 03 R50, R53, R54). -/

namespace Sys2Proof.Machine

/-- One mixing round of gen_next (R54). -/
def genMix (x : Word) : Word := (x ^^^ (x >>> 31)) * 0xD2B74C198E63A0F5#64

/-- gen_next(e) of R54 on a seed pair and a draw counter. -/
def genNext (lo hi dcnt : Word) (e : Nat) : Word :=
  let x := lo ^^^ hi.rotateLeft 23 ^^^ (dcnt * 0xA5C396D14E2B7F03#64)
  let x := x + Word.ofNat e * 0x6F1D8B27C4A93E55#64
  let x := genMix (genMix x)
  x ^^^ (x >>> 29)

namespace State

/-- The draw a drawing instruction of this slot takes: consecutive DCNT values in slot order (R54). -/
def drawWord (s : State) (e : Nat) : Word :=
  genNext s.regs.seedlo s.regs.seedhi (s.regs.dcnt + Word.ofNat s.cur.draws) e

/-- The low sixteen bits of the draw of element `e` (R53). -/
def rbits (s : State) (e : Nat) : Nat := (s.drawWord e).toNat % 65536

/-- Record that this slot draws: DCNT advances by 1 at issue + 1 (R54). -/
def drew (s : State) : State := (s.push 1 (.draws 1)).modCur fun c => { c with draws := c.draws + 1 }

/-- Record a draw where the rounding mode is stochastic. -/
def drewIf (s : State) (mode : Rnd) : State := if mode = .rs then s.drew else s

/-- Land an encoded floating-point result in a general register with its flags, upper bits zero (R98). -/
def landFp (s : State) (d : BitVec 6) (r : Nat × Flags) (n : Nat) : State :=
  (s.landG d (Word.ofNat r.1) n).landFlags r.2 n

end State

/-- The encoded operand a format takes from a 64-bit register (R98). -/
def fpArg (F : Fmt) (x : Word) : Nat := x.toNat % 2 ^ (F.p + 8)

/-- The encoded operand a format takes from a lane (R152). -/
def fpLane (F : Fmt) (x : Half) : Nat := x.toNat % 2 ^ (F.p + 8)

/-- Flags of every active lane, ORed (R50). -/
def orFlags (fs : List Flags) : Flags := fs.foldl (· ||| ·) 0

end Sys2Proof.Machine
end

