-- ==== Sys2Proof/Machine/Scalar.lean ====
section
/-! DEFINITION. Scalar integer, bit-field, multiply, divide, compare and predicate instructions (spec 05 R98-R108). -/

namespace Sys2Proof.Machine

/-- Every meaning below answers a next state. -/
abbrev Res1 := Host.Outcome State Fault Refusal

namespace State

/-- Two source registers, one result of latency `n`, under a guard (R98, R100). -/
def alu2 (s : State) (g : BitVec 4) (d a b : BitVec 6) (n : Nat) (f : Word → Word → Word) : State :=
  s.guarded g (s.useG a fun x => s.useG b fun y => s.landG d (f x y) n)

/-- One source register, one result, under a guard. -/
def alu1 (s : State) (g : BitVec 4) (d a : BitVec 6) (n : Nat) (f : Word → Word) : State :=
  s.guarded g (s.useG a fun x => s.landG d (f x) n)

/-- Two predicates to one (R108). -/
def pred2 (s : State) (g : BitVec 4) (d a b : BitVec 6) (f : Bool → Bool → Bool) : State :=
  s.guarded g (s.useP a.toNat fun x => s.useP b.toNat fun y => s.landP d.toNat (f x y) Lat.cmp)

end State

/-- asr of a 64-bit word (R4). -/
def asr64 (x : Word) (n : Nat) : Word := x.sshiftRight n

/-- Number of 1 bits (R100). -/
def popcount (x : Word) : Nat := ((List.range 64).filter fun i => x.getLsbD i).length

/-- Leading zero count, 64 for zero (R102). -/
def clz64 (x : Word) : Nat := if x = 0 then 64 else 63 - Nat.log2 x.toNat

/-- Trailing zero count, 64 for zero (R102). -/
def ctz64 (x : Word) : Nat := if x = 0 then 64 else ((List.range 64).find? fun i => x.getLsbD i).getD 64

/-! ### Integer register operations (R100) -/

def execAdd (g : BitVec 4) (d a b : BitVec 6) (m : BitVec 3) (s : State) : Res1 :=
  .next (s.alu2 g d a b Lat.alu fun x y => amOut m.toNat (amIn m.toNat x + amIn m.toNat y))

def execSub (g : BitVec 4) (d a b : BitVec 6) (m : BitVec 3) (s : State) : Res1 :=
  .next (s.alu2 g d a b Lat.alu fun x y => amOut m.toNat (amIn m.toNat x - amIn m.toNat y))

def execAnd (g : BitVec 4) (d a b : BitVec 6) (s : State) : Res1 := .next (s.alu2 g d a b Lat.alu (· &&& ·))

def execOr (g : BitVec 4) (d a b : BitVec 6) (s : State) : Res1 := .next (s.alu2 g d a b Lat.alu (· ||| ·))

def execXor (g : BitVec 4) (d a b : BitVec 6) (s : State) : Res1 := .next (s.alu2 g d a b Lat.alu (· ^^^ ·))

def execAndn (g : BitVec 4) (d a b : BitVec 6) (s : State) : Res1 :=
  .next (s.alu2 g d a b Lat.alu fun x y => x &&& ~~~y)

def execShl (g : BitVec 4) (d a b : BitVec 6) (s : State) : Res1 :=
  .next (s.alu2 g d a b Lat.alu fun x y => x <<< (y.toNat % 64))

def execShr (g : BitVec 4) (d a b : BitVec 6) (s : State) : Res1 :=
  .next (s.alu2 g d a b Lat.alu fun x y => x >>> (y.toNat % 64))

def execSar (g : BitVec 4) (d a b : BitVec 6) (s : State) : Res1 :=
  .next (s.alu2 g d a b Lat.alu fun x y => asr64 x (y.toNat % 64))

def execRotl (g : BitVec 4) (d a b : BitVec 6) (s : State) : Res1 :=
  .next (s.alu2 g d a b Lat.alu fun x y => x.rotateLeft (y.toNat % 64))

def execMin (g : BitVec 4) (d a b : BitVec 6) (s : State) : Res1 :=
  .next (s.alu2 g d a b Lat.alu fun x y => if y.toInt < x.toInt then y else x)

def execMax (g : BitVec 4) (d a b : BitVec 6) (s : State) : Res1 :=
  .next (s.alu2 g d a b Lat.alu fun x y => if x.toInt < y.toInt then y else x)

def execMinn (g : BitVec 4) (d a b : BitVec 6) (s : State) : Res1 :=
  .next (s.alu2 g d a b Lat.alu fun x y => if y.toNat < x.toNat then y else x)

def execMaxn (g : BitVec 4) (d a b : BitVec 6) (s : State) : Res1 :=
  .next (s.alu2 g d a b Lat.alu fun x y => if x.toNat < y.toNat then y else x)

/-- `sel` reads its predicate at issue (R100). -/
def execSel (g : BitVec 4) (d a b : BitVec 6) (p : BitVec 3) (s : State) : Res1 :=
  .next (s.guarded g (s.useG a fun x => s.useG b fun y => s.useP p.toNat fun q =>
    s.landG d (if q then x else y) Lat.alu))

def execPopc (g : BitVec 4) (d a : BitVec 6) (s : State) : Res1 :=
  .next (s.alu1 g d a Lat.alu fun x => Word.ofNat (popcount x))

/-! ### Immediate operations (R101) -/

def execAddi (g : BitVec 4) (d a : BitVec 6) (i : Imm 9) (s : State) : Res1 :=
  .next (s.alu1 g d a Lat.alu fun x => x + immS i)

def execAndi (g : BitVec 4) (d a : BitVec 6) (i : Imm 9) (s : State) : Res1 :=
  .next (s.alu1 g d a Lat.alu fun x => x &&& immS i)

def execOri (g : BitVec 4) (d a : BitVec 6) (i : Imm 9) (s : State) : Res1 :=
  .next (s.alu1 g d a Lat.alu fun x => x ||| immS i)

def execXori (g : BitVec 4) (d a : BitVec 6) (i : Imm 9) (s : State) : Res1 :=
  .next (s.alu1 g d a Lat.alu fun x => x ^^^ immS i)

def execShli (g : BitVec 4) (d a : BitVec 6) (i : BitVec 9) (s : State) : Res1 :=
  .next (s.alu1 g d a Lat.alu fun x => x <<< i.toNat)

def execShri (g : BitVec 4) (d a : BitVec 6) (i : BitVec 9) (s : State) : Res1 :=
  .next (s.alu1 g d a Lat.alu fun x => x >>> i.toNat)

def execSari (g : BitVec 4) (d a : BitVec 6) (i : BitVec 9) (s : State) : Res1 :=
  .next (s.alu1 g d a Lat.alu fun x => asr64 x i.toNat)

def execRotli (g : BitVec 4) (d a : BitVec 6) (i : BitVec 9) (s : State) : Res1 :=
  .next (s.alu1 g d a Lat.alu fun x => x.rotateLeft i.toNat)

/-! ### Constants and bit fields (R102, R103) -/

def execMovi (g : BitVec 4) (d : BitVec 6) (i : Imm 9) (s : State) : Res1 :=
  .next (s.guarded g (s.landG d (immS i) Lat.alu))

def execMovhi (g : BitVec 4) (d a : BitVec 6) (x : Half) (s : State) : Res1 :=
  .next (s.alu1 g d a Lat.alu fun y => x ++ y.extractLsb' 0 32)

def execClz (g : BitVec 4) (d a : BitVec 6) (s : State) : Res1 :=
  .next (s.alu1 g d a Lat.alu fun x => Word.ofNat (clz64 x))

def execCtz (g : BitVec 4) (d a : BitVec 6) (s : State) : Res1 :=
  .next (s.alu1 g d a Lat.alu fun x => Word.ofNat (ctz64 x))

/-- Field position and length of R103. -/
def fieldPos (b : Word) : Nat := b.toNat % 64
def fieldLen (b : Word) : Nat := min (b.toNat / 256 % 128) 64

/-- The field `bext` extracts (R103). -/
def bextVal (sx : Bool) (x b : Word) : Word :=
  let pos := fieldPos b
  let len := fieldLen b
  let v := x.toNat / 2 ^ pos % 2 ^ len
  if len = 0 then 0
  else if sx then Word.ofInt (sextN (if len + pos ≤ 64 then len else 64 - pos) v)
  else Word.ofNat v

def execBext (g : BitVec 4) (d a b : BitVec 6) (sx : BitVec 1) (s : State) : Res1 :=
  .next (s.alu2 g d a b Lat.alu (bextVal (sx = 1)))

/-- The register `bins` lands (R103). -/
def binsVal (old x b : Word) : Word :=
  let pos := fieldPos b
  let w := min (fieldLen b) (64 - pos)
  let msk := Word.ofNat ((2 ^ w - 1) * 2 ^ pos)
  (old &&& ~~~msk) ||| ((x <<< pos) &&& msk)

/-- `bins` reads gd as a third source at issue (R103). -/
def execBins (g : BitVec 4) (d a b : BitVec 6) (s : State) : Res1 :=
  .next (s.guarded g (s.useG a fun x => s.useG b fun y => s.useG d fun old => s.landG d (binsVal old x y) Lat.alu))

def execSxt (g : BitVec 4) (d a : BitVec 6) (w : BitVec 3) (s : State) : Res1 :=
  .next (s.alu1 g d a Lat.alu fun x => Word.ofInt (sextN (8 * 2 ^ w.toNat) x.toNat))

def execZxt (g : BitVec 4) (d a : BitVec 6) (w : BitVec 3) (s : State) : Res1 :=
  .next (s.alu1 g d a Lat.alu fun x => Word.ofNat (x.toNat % 2 ^ (8 * 2 ^ w.toNat)))

/-! ### Multiply and divide (R104, R105) -/

def execMul (g : BitVec 4) (d a b : BitVec 6) (m : BitVec 3) (s : State) : Res1 :=
  .next (s.alu2 g d a b Lat.mul fun x y => amOut m.toNat (amIn m.toNat x * amIn m.toNat y))

def execMulh (g : BitVec 4) (d a b : BitVec 6) (s : State) : Res1 :=
  .next (s.alu2 g d a b Lat.mul fun x y => Word.ofInt (x.toInt * y.toInt / 2 ^ 64))

def execMulhn (g : BitVec 4) (d a b : BitVec 6) (s : State) : Res1 :=
  .next (s.alu2 g d a b Lat.mul fun x y => Word.ofNat (x.toNat * y.toNat / 2 ^ 64))

def execMuli (g : BitVec 4) (d a : BitVec 6) (i : Imm 9) (s : State) : Res1 :=
  .next (s.alu1 g d a Lat.mul fun x => x * immS i)

/-- Signed quotient of R105. -/
def divS (x y : Word) : Word :=
  if y = 0 then BitVec.allOnes 64 else Word.ofInt (Int.tdiv x.toInt y.toInt)

/-- Signed remainder of R105. -/
def remS (x y : Word) : Word := if y = 0 then x else Word.ofInt (Int.tmod x.toInt y.toInt)

/-- Unsigned quotient of R105. -/
def divU (x y : Word) : Word := if y = 0 then BitVec.allOnes 64 else Word.ofNat (x.toNat / y.toNat)

/-- Unsigned remainder of R105. -/
def remU (x y : Word) : Word := if y = 0 then x else Word.ofNat (x.toNat % y.toNat)

def execDiv (g : BitVec 4) (d a b : BitVec 6) (s : State) : Res1 := .next (s.alu2 g d a b Lat.div divS)

def execDivn (g : BitVec 4) (d a b : BitVec 6) (s : State) : Res1 := .next (s.alu2 g d a b Lat.div divU)

def execRem (g : BitVec 4) (d a b : BitVec 6) (s : State) : Res1 := .next (s.alu2 g d a b Lat.div remS)

def execRemn (g : BitVec 4) (d a b : BitVec 6) (s : State) : Res1 := .next (s.alu2 g d a b Lat.div remU)

/-! ### Compares and predicates (R106-R108) -/

/-- The condition codes of `cmp` (R106). -/
def cmpCond (cc : Nat) (x y : Word) : Bool :=
  match cc with
  | 0 => x = y
  | 1 => x ≠ y
  | 2 => x.toInt < y.toInt
  | 3 => x.toInt ≤ y.toInt
  | 4 => x.toNat < y.toNat
  | 5 => x.toNat ≤ y.toNat
  | 6 => x &&& y ≠ 0
  | _ => x &&& y = 0

def execCmp (g : BitVec 4) (d a b : BitVec 6) (c : BitVec 3) (s : State) : Res1 :=
  .next (s.guarded g (s.useG a fun x => s.useG b fun y => s.landP d.toNat (cmpCond c.toNat x y) Lat.cmp))

/-- `cmpi` codes 0 eq, 1 ne, 2 lt, 3 ltn (R107). -/
def cmpiCond (cc : Nat) (x y : Word) : Bool := cmpCond (if cc = 3 then 4 else cc) x y

def execCmpi (g : BitVec 4) (c : BitVec 2) (p : BitVec 4) (a : BitVec 6) (i : Imm 9) (s : State) : Res1 :=
  .next (s.guarded g (s.useG a fun x => s.landP p.toNat (cmpiCond c.toNat x (immS i)) Lat.cmp))

def execPand (g : BitVec 4) (d a b : BitVec 6) (s : State) : Res1 := .next (s.pred2 g d a b fun x y => x && y)

def execPor (g : BitVec 4) (d a b : BitVec 6) (s : State) : Res1 := .next (s.pred2 g d a b fun x y => x || y)

def execPxor (g : BitVec 4) (d a b : BitVec 6) (s : State) : Res1 := .next (s.pred2 g d a b fun x y => x != y)

def execPandn (g : BitVec 4) (d a b : BitVec 6) (s : State) : Res1 := .next (s.pred2 g d a b fun x y => x && !y)

def execPset (g : BitVec 4) (d a : BitVec 6) (s : State) : Res1 :=
  .next (s.guarded g (s.useG a fun x => s.landP d.toNat (x ≠ 0) Lat.cmp))

/-- The fifteen lands of `pset.all`, each its own claim (R108). -/
def claimPreds (s : State) : List Nat → State
  | [] => s
  | r :: rs => claimPreds (s.claimLand (keyP r) Lat.cmp) rs

def execPsetAll (g : BitVec 4) (a : BitVec 6) (s : State) : Res1 :=
  .next (s.guarded g (s.useG a fun x =>
    let vals := (List.range' 1 15).map fun n => (preg s.regs.rotpos n, x.getLsbD n)
    (claimPreds s (vals.map (·.1))).push Lat.cmp (.preds vals) Lat.cmp))

def execPget (g : BitVec 4) (d a : BitVec 6) (s : State) : Res1 :=
  .next (s.guarded g (s.useP a.toNat fun x => s.landG d (if x then 1 else 0) Lat.alu))

/-- Read the whole predicate file under its rotated names and go on (R108, R133). -/
def usePreds (s : State) : List Nat → Nat → (Nat → State) → State
  | [], acc, k => k acc
  | n :: ns, acc, k => s.useP n fun p => usePreds s ns (acc + if p then 2 ^ n else 0) k

def execPgetAll (g : BitVec 4) (d : BitVec 6) (s : State) : Res1 :=
  .next (s.guarded g (usePreds s (List.range 16) 0 fun v => s.landG d (Word.ofNat v) Lat.alu))

end Sys2Proof.Machine
end

