-- ==== Sys2Proof/Machine/ScalarFp.lean ====
section
/-! DEFINITION. Scalar floating-point instructions and conversions (spec 05 R109-R111). -/

namespace Sys2Proof.Machine

namespace State

/-- Two encoded operands, one rounded result, a draw where the mode is stochastic (R109). -/
def fp2 (s : State) (F : Fmt) (g : BitVec 4) (d a b : BitVec 6) (r : BitVec 3) (n : Nat)
    (op : Fmt → Rnd → Nat → Nat → Nat → Nat × Flags) : State :=
  let mode := Rnd.ofCode r.toNat
  s.guarded g (s.useG a fun x => s.useG b fun y =>
    (s.landFp d (op F mode (s.rbits 0) (fpArg F x) (fpArg F y)) n).drewIf mode)

/-- One encoded operand (R109). -/
def fp1 (s : State) (F : Fmt) (g : BitVec 4) (d a : BitVec 6) (r : BitVec 3) (n : Nat)
    (op : Fmt → Rnd → Nat → Nat → Nat × Flags) : State :=
  let mode := Rnd.ofCode r.toNat
  s.guarded g (s.useG a fun x => (s.landFp d (op F mode (s.rbits 0) (fpArg F x)) n).drewIf mode)

/-- Fused multiply-add, gd read as the addend at issue (R109). -/
def fp3 (s : State) (F : Fmt) (g : BitVec 4) (d a b : BitVec 6) (r : BitVec 3) : State :=
  let mode := Rnd.ofCode r.toNat
  s.guarded g (s.useG a fun x => s.useG b fun y => s.useG d fun z =>
    (s.landFp d (fpFma F mode (s.rbits 0) (fpArg F x) (fpArg F y) (fpArg F z)) Lat.fp).drewIf mode)

/-- Minimum or maximum under R58. -/
def fpMm (s : State) (isMax : Bool) (F : Fmt) (g : BitVec 4) (d a b : BitVec 6) : State :=
  s.guarded g (s.useG a fun x => s.useG b fun y =>
    s.landFp d (fpMinMax isMax F (fpArg F x) (fpArg F y)) Lat.fp)

/-- Compare to a predicate with NV under R110. -/
def fpCc (s : State) (F : Fmt) (g : BitVec 4) (d a b : BitVec 6) (c : BitVec 3) : State :=
  s.guarded g (s.useG a fun x => s.useG b fun y =>
    let r := fpCmp c.toNat (Ex.ofBits F (fpArg F x)) (Ex.ofBits F (fpArg F y))
    (s.landP d.toNat r.1 Lat.fp).landFlags r.2 Lat.fp)

end State

def execFadd (g : BitVec 4) (d a b : BitVec 6) (r : BitVec 3) (s : State) : Res1 :=
  .next (s.fp2 .fp32 g d a b r Lat.fp fpAdd)

def execFsub (g : BitVec 4) (d a b : BitVec 6) (r : BitVec 3) (s : State) : Res1 :=
  .next (s.fp2 .fp32 g d a b r Lat.fp fpSub)

def execFmul (g : BitVec 4) (d a b : BitVec 6) (r : BitVec 3) (s : State) : Res1 :=
  .next (s.fp2 .fp32 g d a b r Lat.fp fpMul)

def execFdiv (g : BitVec 4) (d a b : BitVec 6) (r : BitVec 3) (s : State) : Res1 :=
  .next (s.fp2 .fp32 g d a b r Lat.div fpDiv)

def execFsqrt (g : BitVec 4) (d a : BitVec 6) (r : BitVec 3) (s : State) : Res1 :=
  .next (s.fp1 .fp32 g d a r Lat.div fpSqrt)

def execFma (g : BitVec 4) (d a b : BitVec 6) (r : BitVec 3) (s : State) : Res1 := .next (s.fp3 .fp32 g d a b r)

def execFmin (g : BitVec 4) (d a b : BitVec 6) (s : State) : Res1 := .next (s.fpMm false .fp32 g d a b)

def execFmax (g : BitVec 4) (d a b : BitVec 6) (s : State) : Res1 := .next (s.fpMm true .fp32 g d a b)

def execFcmp (g : BitVec 4) (d a b : BitVec 6) (c : BitVec 3) (s : State) : Res1 := .next (s.fpCc .fp32 g d a b c)

def execFaddBf16 (g : BitVec 4) (d a b : BitVec 6) (r : BitVec 3) (s : State) : Res1 :=
  .next (s.fp2 .bf16 g d a b r Lat.fp fpAdd)

def execFsubBf16 (g : BitVec 4) (d a b : BitVec 6) (r : BitVec 3) (s : State) : Res1 :=
  .next (s.fp2 .bf16 g d a b r Lat.fp fpSub)

def execFmulBf16 (g : BitVec 4) (d a b : BitVec 6) (r : BitVec 3) (s : State) : Res1 :=
  .next (s.fp2 .bf16 g d a b r Lat.fp fpMul)

def execFdivBf16 (g : BitVec 4) (d a b : BitVec 6) (r : BitVec 3) (s : State) : Res1 :=
  .next (s.fp2 .bf16 g d a b r Lat.div fpDiv)

def execFsqrtBf16 (g : BitVec 4) (d a : BitVec 6) (r : BitVec 3) (s : State) : Res1 :=
  .next (s.fp1 .bf16 g d a r Lat.div fpSqrt)

def execFmaBf16 (g : BitVec 4) (d a b : BitVec 6) (r : BitVec 3) (s : State) : Res1 := .next (s.fp3 .bf16 g d a b r)

def execFminBf16 (g : BitVec 4) (d a b : BitVec 6) (s : State) : Res1 := .next (s.fpMm false .bf16 g d a b)

def execFmaxBf16 (g : BitVec 4) (d a b : BitVec 6) (s : State) : Res1 := .next (s.fpMm true .bf16 g d a b)

def execFcmpBf16 (g : BitVec 4) (d a b : BitVec 6) (c : BitVec 3) (s : State) : Res1 :=
  .next (s.fpCc .bf16 g d a b c)

/-- FP32 to BF16 (R55, R111). -/
def execFcvtBf16Fp32 (g : BitVec 4) (d a : BitVec 6) (r : BitVec 3) (s : State) : Res1 :=
  let mode := Rnd.ofCode r.toNat
  .next (s.guarded g (s.useG a fun x =>
    (s.landFp d (bf16OfFp32 mode (s.rbits 0) (fpArg .fp32 x)) Lat.conv).drewIf mode))

/-- BF16 to FP32, exact (R55, R111). -/
def execFcvtFp32Bf16 (g : BitVec 4) (d a : BitVec 6) (s : State) : Res1 :=
  .next (s.guarded g (s.useG a fun x => s.landFp d (fp32OfBf16 (fpArg .bf16 x)) Lat.conv))

/-- The format an F bit selects: 0 FP32, 1 BF16. -/
def fmtBit (f : BitVec 1) : Fmt := if f = 1 then .bf16 else .fp32

/-- Float to integer; the result extended by its own signedness (R56, R111). -/
def execFicvt (g : BitVec 4) (d a : BitVec 6) (f : BitVec 1) (i : BitVec 3) (r : BitVec 3) (s : State) : Res1 :=
  .next (s.guarded g (s.useG a fun x =>
    let v := intOfEx i.toNat (Rnd.ofCode r.toNat) (Ex.ofBits (fmtBit f) (fpArg (fmtBit f) x))
    (s.landG d (Word.ofInt v.1) Lat.conv).landFlags v.2 Lat.conv))

/-- The integer a format code reads from a register (R46, R111). -/
def intArg (code : Nat) (x : Word) : Int :=
  let n := 8 * 2 ^ (code % 4)
  if code < 4 then sextN n x.toNat else ((x.toNat % 2 ^ n : Nat) : Int)

/-- Integer to float: NX alone can be raised (R57, R111). -/
def execIfcvt (g : BitVec 4) (d a : BitVec 6) (f : BitVec 1) (i : BitVec 3) (r : BitVec 3) (s : State) : Res1 :=
  let mode := Rnd.ofCode r.toNat
  .next (s.guarded g (s.useG a fun x =>
    (s.landFp d (floatOfInt (fmtBit f) mode (s.rbits 0) (intArg i.toNat x)) Lat.conv).drewIf mode))

end Sys2Proof.Machine
end

