-- ==== Sys2Proof/Machine/Control.lean ====
section
/-! DEFINITION. Branches, loops, `pin` and the rendezvous forms of the S map (spec 02 R35-R44, 05 R112-R119,
16 R357, R358). -/

namespace Sys2Proof.Machine

/-- Length of the bundle whose template and following bytes these are (R71). -/
def bundleLen (t : Byte) : Nat :=
  1 + (t.getLsbD 7).toNat + 4 * ((List.range 6).filter fun i => t.getLsbD i).length + 4 * (t.getLsbD 6).toNat

namespace State

/-- A byte of a tile's instruction store. -/
def code (s : State) (tile a : Nat) : Byte := mget s.mem (storeAt tile a)

/-- The address of the bundle met in sequence at `pc`: padding moves to the next line (R73, R112). -/
def seqAddr (s : State) (tile pc : Nat) : Nat :=
  if s.code tile pc = 0 ∧ pc % 64 ≠ 0 then (pc - pc % 64 + 64) % 65536 else pc % 65536

/-- The byte after the bundle met in sequence at `pc`. -/
def seqNext (s : State) (tile pc : Nat) : Nat :=
  let a := s.seqAddr tile pc
  (a + bundleLen (s.code tile a)) % 65536

/-- Addresses of this bundle and of the two that follow it in memory. -/
def three (s : State) : List Nat :=
  let t := tileOf s.cur.ctx
  let n0 := (s.cur.pc.toNat + s.cur.len) % 65536
  [s.cur.pc.toNat, s.seqAddr t n0, s.seqAddr t (s.seqNext t n0)]

/-- The address of the byte that follows the second delay bundle: the link of R112. -/
def linkAddr (s : State) : Nat :=
  let t := tileOf s.cur.ctx
  s.seqNext t (s.seqNext t ((s.cur.pc.toNat + s.cur.len) % 65536))

/-- Whether R37 forbids a branch here: in a delay bundle, or in the last three bundles of the innermost loop body. -/
def branchForbidden (s : State) : Bool :=
  s.me.delay.isSome || match s.regs.loops with
    | [] => false
    | l :: _ => s.three.contains l.stop.toNat

/-- Start a branch: its delay bundles issue whether or not it is taken (R35, R36). -/
def branch (s : State) (taken : Bool) (target : Nat) : State :=
  s.modMe fun x => { x with delay := some ⟨taken, BitVec.ofNat 16 target, 3⟩ }

/-- A branch with a target known at issue and an optional link (R112). -/
def branchTo (s : State) (g : BitVec 4) (link : Option (BitVec 6)) (target : (Nat → State) → State) : State :=
  s.useP g.toNat fun p =>
    if p then target fun t =>
      if s.branchForbidden then s.illegal
      else match link with
      | some d => (s.landG d (Word.ofNat s.linkAddr) Lat.alu).branch true t
      | none => s.branch true t
    else if s.branchForbidden then s.illegal
    else s.branch false 0

/-- Target of `br` and `brl`: the branch bundle's address plus the offset, modulo 65,536 (R112). -/
def relTarget (s : State) (i : Imm 9) : Nat := (s.cur.pc.setWidth 64 + immS i).toNat % 65536

end State

def execBr (g : BitVec 4) (i : Imm 9) (s : State) : Res1 :=
  .next (s.branchTo g none fun k => k (s.relTarget i))

def execBrl (g : BitVec 4) (d : BitVec 6) (i : Imm 9) (s : State) : Res1 :=
  .next (s.branchTo g (some d) fun k => k (s.relTarget i))

def execBrx (g : BitVec 4) (a : BitVec 6) (s : State) : Res1 :=
  .next (s.branchTo g none fun k => s.useG a fun x => k (x.toNat % 65536))

def execBrlx (g : BitVec 4) (d a : BitVec 6) (s : State) : Res1 :=
  .next (s.branchTo g (some d) fun k => s.useG a fun x => k (x.toNat % 65536))

namespace State

/-- Start a loop of `count` iterations whose end bundle lies `off` bytes after this bundle (R38, R40, R114). -/
def startLoop (s : State) (rot : Bool) (count off : Nat) : State :=
  let stop := s.cur.pc.toNat + off
  if 65536 ≤ stop then s.illegal
  else if 4 ≤ s.regs.loops.length then s.illegal
  else if count = 0 then
    s.modCur fun c => { c with jump := some (BitVec.ofNat 16 (s.seqNext (tileOf s.cur.ctx) stop)) }
  else s.modMe fun x => { x with regs := { x.regs with
    loops := ⟨BitVec.ofNat 16 (s.cur.pc.toNat + s.cur.len), BitVec.ofNat 16 stop, count, rot⟩ :: x.regs.loops } }

end State

namespace State

/-- An effect that may not stand in a delay bundle, whatever its guard (R37). -/
def noDelay (s : State) (k : State) : State := if s.me.delay.isSome then s.illegal else k

/-- A guarded form that may not stand in a delay bundle (R28, R37). -/
def guardedNoDelay (s : State) (g : BitVec 4) (k : State) : State := s.useP g.toNat fun p => if p then k else s.noDelay s

end State

def execLoop (g : BitVec 4) (r : BitVec 1) (x : Half) (s : State) : Res1 :=
  .next (s.guardedNoDelay g (s.noDelay (s.startLoop (r = 1) (x.extractLsb' 0 16).toNat (x.extractLsb' 16 16).toNat)))

def execLoopg (g : BitVec 4) (r : BitVec 1) (a : BitVec 6) (i : Imm 9) (s : State) : Res1 :=
  .next (s.guardedNoDelay g (s.useG a fun v => s.noDelay (s.startLoop (r = 1) (v.toNat % 2 ^ 32) (immU i))))

/-- `pin N`: the next bundle issues at HCYC N; a late pin slips (R42, R116). -/
def execPin (g : BitVec 4) (i : Imm 9) (s : State) : Res1 :=
  .next (s.guarded g (if immU i < s.hcyc s.cur.ctx then s.slip 0x01
    else s.modCur fun c => { c with pin := some (immU i) }))

namespace State

/-- A rendezvous form: it may not stand in a delay bundle; a false guard has no effect (R37, R43, R113, R117). -/
def rendezvous (s : State) (g : BitVec 4) (w : Wait) : State :=
  s.guardedNoDelay g (s.noDelay (s.modCur fun c => { c with wait := some w }))

end State

def execRdv (g : BitVec 4) (s : State) : Res1 := .next (s.rendezvous g ⟨.rdv, 0, 0, 0, false, 0, 0⟩)

def execRdvfin (g : BitVec 4) (s : State) : Res1 := .next (s.rendezvous g ⟨.rdvfin, 0, 0, 0, false, 0, 0⟩)

def execPredwait (g : BitVec 4) (s : State) : Res1 := .next (s.rendezvous g ⟨.predwait, 0, 0, 0, false, 0, 0⟩)

def execSwapctx (g : BitVec 4) (s : State) : Res1 := .next (s.rendezvous g ⟨.swapctx, 0, 0, 0, false, 0, 0⟩)

/-- `waitk kN, n` with an immediate (R357). -/
def execWaitk (g k : BitVec 4) (i : BitVec 9) (s : State) : Res1 :=
  .next (s.rendezvous g ⟨.waitk, 0, k.toNat, i.setWidth 16, false, 0, 0⟩)

/-- `waitk kN, gA` (R357). -/
def execWaitkReg (g k : BitVec 4) (a : BitVec 6) (s : State) : Res1 :=
  .next (s.guardedNoDelay g (s.useG a fun x =>
    s.noDelay (s.modCur fun c => { c with wait := some ⟨.waitk, 0, k.toNat, x.setWidth 16, false, 0, 0⟩ })))

end Sys2Proof.Machine
end

