-- ==== Sys2Proof/Machine/System.lean ====
section
/-! DEFINITION. Special registers and system instructions of the S map (spec 02 R21, 05 R120-R125). -/

namespace Sys2Proof.Machine

namespace State

/-- The value `mfs` returns at issue, zero-extended (R21, R121). -/
def sreg (s : State) (i : Nat) : Word :=
  let x := s.me
  match i with
  | 0x00 => Word.ofNat (s.hcyc s.cur.ctx)
  | 0x01 => Word.ofNat s.beat
  | 0x02 => Word.ofNat (tileOf s.cur.ctx)
  | 0x03 => Word.ofNat (x.gang % 65536)
  | 0x04 => x.ctxid.setWidth 64
  | 0x05 => x.asid.setWidth 64
  | 0x06 => x.part.setWidth 64
  | 0x07 => x.regs.fstat.setWidth 64
  | 0x08 => x.regs.burg
  | 0x09 => x.regs.seedlo
  | 0x0A => x.regs.seedhi
  | 0x0B => x.regs.dcnt
  | 0x0C => Word.ofNat x.regs.rotpos
  | 0x0D => x.budget
  | 0x0E => x.deadln
  | 0x10 => x.regs.tcode.setWidth 64
  | 0x11 => x.regs.targ
  | 0x12 => x.regs.tbeat
  | 0x13 => x.rply.setWidth 64
  | _ => 0

/-- Whether `mts` may write an index (R21, R121). -/
def sregWritable (i : Nat) : Bool := i = 0x07 || i = 0x08 || i = 0x09 || i = 0x0A || i = 0x11

/-- Land a value in a special register, or an illegal operation on a read-only one (R21, R120). -/
def mtsTo (s : State) (i : Nat) (v : Word) : State :=
  if sregWritable i then (s.claimLand (keyS i) Lat.alu).push Lat.alu (.sreg i v) Lat.alu else s.illegal

end State

def execMfs (g : BitVec 4) (d u : BitVec 6) (s : State) : Res1 :=
  .next (s.guarded g (s.landG d (s.sreg u.toNat) Lat.alu))

def execMts (g : BitVec 4) (u a : BitVec 6) (s : State) : Res1 :=
  .next (s.guarded g (s.useG a fun x => s.mtsTo u.toNat x))

def execMtsi (g : BitVec 4) (u : BitVec 6) (i : Imm 9) (s : State) : Res1 :=
  .next (s.guarded g (s.mtsTo u.toNat (immS i)))

/-- `trig`: the member's first one releases its successor's dispatch once every member has (R122). The release
orders nothing further here: writes reach memory in the order of their beats. -/
def execTrig (g : BitVec 4) (s : State) : Res1 :=
  .next (s.guarded g (s.modMe fun x => { x with trig := true }))

/-- `trap code`: TCODE and TBEAT are written at the issue beat, the gang freezes at the next (R123). -/
def execTrap (g : BitVec 4) (i : BitVec 9) (s : State) : Res1 :=
  .next (s.guarded g ((s.modMe fun x => { x with regs := { x.regs with
      tcode := i.setWidth 16, tbeat := Word.ofNat s.beat } }).modCur fun c => { c with trap := some i }))

/-- Fold a list of words into BURG at a latency; folds of one cycle never collide with each other (R124). -/
def State.foldBurg (s : State) (ws : List Word) (n : Nat) : State :=
  (s.claimLand (keyS 0x08) n (soft := true)).push n (.fold ws) n

def execSburg (g : BitVec 4) (a : BitVec 6) (s : State) : Res1 :=
  .next (s.guarded g (s.useG a fun x => s.foldBurg [x] Lat.alu))

/-- `draw gd`: gen_next(0) (R125). -/
def execDraw (g : BitVec 4) (d : BitVec 6) (s : State) : Res1 :=
  .next (s.guarded g (s.landG d (s.drawWord 0) Lat.alu).drew)

end Sys2Proof.Machine
end

