-- ==== Sys2Proof/Machine/Issue.lean ====
section
/-! DEFINITION. Fetching and finishing a bundle, and the sequencer's own events: landings, draw advances, branch
redirects, loop steps (spec 02 R27-R44, 04 R71-R83, 05 R112-R115, 19 R380). -/

namespace Sys2Proof.Machine

namespace State

/-- Whether the frame that holds an address is valid for a context (R74, R191). -/
def frameValid (s : State) (c pc : Nat) : Bool :=
  let f := tget {} s.frames (16 * tileOf c + pc / 4096 % 16)
  f.valid && f.owner = some c

/-- The bytes of the fetch line from an address to the line's end (R74). -/
def lineFrom (s : State) (tile pc : Nat) : List Byte := s.rd (storeAt tile pc) (64 - pc % 64)

/-- Whether the innermost active loop's body has been left in sequence past its end (R115), also by the skip of a loop of count
0 that ends where it ends (R38, log entry 26). -/
def pastLoop (s : State) (pc : Nat) : Bool :=
  match s.regs.loops with
  | [] => false
  | l :: _ => pc < l.start.toNat || l.stop.toNat < pc

/-- What the bytes at the issuing context's program counter are (R83). -/
def fetched (s : State) : Fetched :=
  let pc := s.regs.pc.toNat
  fetchBundle s.me.accs (pc % 64) (s.lineFrom (tileOf s.cur.ctx) pc)

/-- Stage a fetched bundle in the cursor. -/
def stage (s : State) (b : Bundle) : State :=
  s.modCur fun c => { c with pc := s.regs.pc, len := b.len, idle := b.idle, slots := b.slots }

end State

/-- The path of R83 from the program counter of the issuing context: a fetch from an invalid frame slips, a poisoned
line is consumed, padding moves to the next line, a decoding fault is raised, and a bundle is staged (R74, R75, R115,
R382). -/
def execBundleFetch (s : State) : Res1 :=
  let pc := s.regs.pc.toNat
  let tile := tileOf s.cur.ctx
  .next (if !(s.frameValid s.cur.ctx pc) then s.slip 0x02
    else if s.marked (storeAt tile pc) 1 then s.raise 0x0A 0
    else match s.fetched with
      | .padding => (s.modMe fun x => { x with regs := { x.regs with
          pc := BitVec.ofNat 16 (pc - pc % 64 + 64) } }).modCur fun c => { c with moved := true }
      | .bad f => (s.modCur fun c => { c with slot := f.slot }).raise f.code f.detail
      | .bundle b => if s.pastLoop pc then s.illegal else s.stage b)

namespace State

/-- Whether two of a list of land claims collide (R32, R124, R129). -/
def clash (a b : LandClaim) : Bool :=
  a.key = b.key && a.beat = b.beat && a.mask &&& b.mask != 0 && !(a.soft && b.soft)

/-- The slot of the first land announced at this beat that collides with one announced before it; newest first
(log entry 32). -/
def collides (beat : Nat) : List LandClaim → Option Nat
  | [] => none
  | l :: r => (collides beat r).or (if l.issued = beat && r.any (clash l) then some l.slot else none)

/-- Completion cycle of a `drain` (R237). -/
def lastDrain (x : Ctx) : Nat := x.items.foldl (fun n it => max n it.dr) 0

/-- Program counter after the bundle. -/
def nextPc (s : State) : BitVec 16 :=
  match s.cur.jump with
  | some t => t
  | none => s.cur.pc + BitVec.ofNat 16 s.cur.len

/-- The beat the next bundle issues at (R27, R42, R237). -/
def nextBeat (s : State) : Nat :=
  let base := match s.cur.idle with
    | some n => s.beat + 2 + n.toNat
    | none => s.beat + 1
  let base := match s.cur.pin with
    | some n => max base (s.me.hbase + n)
    | none => base
  if s.cur.drain then max base (max (lastDrain s.me) (s.beat + 1)) else base

/-- One bundle nearer to the end of a branch's delay bundles (R35). -/
def stepDelay (x : Ctx) : Ctx :=
  match x.delay with
  | none => x
  | some d =>
    if d.left ≤ 1 then { x with delay := none, redirect := if d.taken then some d.target else none }
    else { x with delay := some { d with left := d.left - 1 } }

/-- Whether the bundle is the end bundle of the innermost active loop, a loop that it has itself begun included (R39, log entry
60). -/
def atLoopEnd (s : State) : Bool :=
  match s.regs.loops with
  | [] => false
  | l :: _ => l.stop = s.cur.pc

/-- The sequencer moves past the issued bundle (R27, R35, R39). Where the end bundle of the innermost active loop holds a `loop` of
count 0, the enclosing body starts again while its own count is above 1, else the skip's target follows (log entry 69). -/
def advance (s : State) : State :=
  let pc := s.nextPc
  let at' := s.nextBeat
  let le := s.atLoopEnd
  s.modMe fun x => stepDelay { x with regs := { x.regs with pc := pc }, nextAt := at', loopStep := le }

/-- Whether counter k has reached n (R356). -/
def reached (x : Ctx) (k : Nat) (n : BitVec 16) : Bool := (tget 0 x.regs.k k - n).toNat < 32768

/-- Begin the wait of a rendezvous form: e is max(b + 1, L); a `waitk` also waits for its counter (R43, R117, R357). -/
def beginWait (s : State) (w : Wait) : State :=
  let h := s.hcyc s.cur.ctx
  s.modMe fun x => { x with run := .waiting, hz := h + 1, wait := some { w with
    ends := max (s.beat + 1) (lastFin x), pend := w.form = .waitk && !(reached x w.k w.n), w := s.beat,
    hc := max (s.beat + 1) (lastFin x) - x.hbase } }

/-- After the slots: the write-collision check, then the sequencer's step, and the forms that hold it (R32, R43, R123,
R237, R380). -/
def finishBundle (s : State) : State :=
  match collides s.beat s.me.lands with
  | some k => (s.modCur fun c => { c with slot := k }).raise 0x05 0
  | none =>
    let t := s.advance
    let t := match s.cur.wait with
      | some w => t.beginWait w
      | none => t
    if s.cur.trap.isSome then t.freezeGang t.me.gang (s.beat + 1) .trap else t

end State

/-- Template 0x80: an empty bundle that occupies n + 2 cycles (R73). -/
def execEmptyBundle (s : State) : Res1 := .next s.advance

/-! ### Events of a context: its number is the event's first operand -/

/-- Event operand `k`. -/
def State.arg (s : State) (k : Nat) : Nat := s.ev.getD k 0

/-- Whether an item is to happen now: its beat has come, its read has not failed, and its gang is not frozen, or it runs on
in a freeze, or it falls at the very beat of a slice fault, where lands take effect and a read may fail too (R268, R379,
R380, R390; log entry 27). -/
def State.itemDue (s : State) (c : Nat) (it : Item) : Bool :=
  it.due ≤ s.beat && it.tries < 255 && (it.rt || match (s.gang (s.ctx c).gang).fz with
    | none => true
    | some f => s.beat < f.beat || (f.beat = s.beat && f.why = .fail && it.act.rank < 12))

/-- Take item `k` of a context, where it is to happen now and satisfies `p`. -/
def State.takeItem (s : State) (c k : Nat) (p : Act → Bool) : Option (Item × State) :=
  match (s.ctx c).items[k]? with
  | none => none
  | some it =>
    if s.itemDue c it && p it.act then
      some (it, (if it.act.rank < 10 then s else s.keepUndo c).modCtx c fun x => { x with items := x.items.erase it })
    else none

/-- Apply item `k` of the context the event names, where it satisfies `p` and is to happen now; nothing happens otherwise. -/
def State.onItemAt (s : State) (k : Nat) (p : Act → Bool) (f : State → Nat → Item → State) : State :=
  match s.takeItem (s.arg 0) k p with
  | none => s
  | some (it, t) => f t (s.arg 0) it

/-- The same for an event whose second operand is the item's place among the context's items in flight. -/
def State.onItem (s : State) (p : Act → Bool) (f : State → Nat → Item → State) : State := s.onItemAt (s.arg 1) p f

/-- Lands on registers (R20, R22-R24, R54, R124, R127, R129). -/
def Regs.land (r : Regs) : Act → Regs
  | .g n v pm => { r with g := tset r.g n v }.mark (keyG n) pm
  | .p n v pm => { r with p := tset r.p n v }.mark (keyP n) pm
  | .preds vs => vs.foldl (fun t x => { t with p := tset t.p x.1 x.2 }.mark (keyP x.1) false) r
  | .lanes n vs => vs.foldl (fun t x =>
      { t with v := tset t.v n (tset (tget [] t.v n) x.1 x.2.1) }.mark (unitV n x.1) x.2.2) r
  | .m n v pm => { r with m := tset r.m n v }.mark (keyM n) pm
  | .sreg i v =>
    if i = 0x07 then { r with fstat := v.setWidth 6 }
    else if i = 0x08 then { r with burg := v }
    else if i = 0x09 then { r with seedlo := v, dcnt := 0 }
    else if i = 0x0A then { r with seedhi := v, dcnt := 0 }
    else if i = 0x11 then { r with targ := v } else r
  | .flags f => { r with fstat := r.fstat ||| f }
  | .fold ws => { r with burg := ws.foldl (fun d w => d.rotateLeft 5 ^^^ w) r.burg }
  | .awin p v => { r with awin := tset r.awin p v }
  | .again p v => { r with again := tset r.again p v }
  | _ => r

/-- The items that land in a register of the context. -/
def Act.isResult : Act → Bool
  | .g _ _ _ | .p _ _ _ | .preds _ | .lanes _ _ | .m _ _ _ | .sreg _ _ | .flags _ | .fold _
  | .awin _ _ | .again _ _ | .xseed _ _ => true
  | _ => false

def Act.isDraw : Act → Bool
  | .draws _ => true
  | _ => false

/-- A result reaches its landing cycle: a register of the context, or XSEED with STEP at zero (R30, R31, R313). -/
def execResultLand (s : State) : Res1 :=
  .next (s.onItem Act.isResult fun t c it => match it.act with
    | .xseed pid v => t.modPair pid fun p => { p with xseed := v, step := 0 }
    | a => t.modRegs c fun r => r.land a)

/-- DCNT advances by the draws of one bundle; a seed write of the same cycle resets it after (R24, R54). -/
def execDrawCounterAdvance (s : State) : Res1 :=
  .next (s.onItem Act.isDraw fun t c it => match it.act with
    | .draws n => t.modRegs c fun r => { r with dcnt := r.dcnt + Word.ofNat n }
    | _ => t)

/-- At the target's cycle the target bundle of a taken branch is the next to issue; a fault of it takes the pops back
(R12, R35, R40). -/
def execBranchTakenRedirect (s : State) : Res1 :=
  .next ((s.keepUndo (s.arg 0)).modCtx (s.arg 0) Ctx.redirected)

/-- At the cycle of the end bundle's successor, one iteration step of the innermost loop (R39, R135). -/
def execLoopIterationStep (s : State) : Res1 := .next (s.modCtx (s.arg 0) Ctx.stepLoop)

end Sys2Proof.Machine
end

