-- ==== Sys2Proof/Machine/Matrix.lean ====
section
/-! DEFINITION. The digital matrix unit: MMA, accumulator movement, FIFO drop (spec 08 R174-R185). -/

namespace Sys2Proof.Machine

/-- A FIFO entry: 64 payload bytes and the scale tag. -/
abbrev Entry := BitVec 512 × BitVec 32

/-- Bits [lo + n - 1 : lo] of an entry's payload. -/
def Entry.get (e : Entry) (lo n : Nat) : Nat := (e.1.extractLsb' lo n).toNat

/-- The exact elements of an entry by consumer: 0 BF16, 1 DXB8, 2 MXFP8 of the given type (R176). -/
def Entry.elems (kind : Nat) (e5 : Bool) (e : Entry) : List Ex :=
  let t := e.2.toNat
  match kind with
  | 0 => (List.range 32).map fun k => Ex.ofBits .bf16 (Entry.get e (16 * k) 16)
  | 1 => (List.range 64).map fun k => dxb8Value (Entry.get e (8 * k) 8) (bits t (k / 32 * 16) 8) (bits t (k / 32 * 16 + 8) 8)
  | _ => (List.range 64).map fun k => mx8Value e5 (Entry.get e (8 * k) 8) (bits t (k / 32 * 8) 8)

/-- One product leaf, under zero-skip where set (R68, R180, R181). -/
def mmaLeaf (zs : Bool) (x y : Ex) : Ex × Flags :=
  if zs && (x.isZero || y.isZero) then (.zero, flagIf (x.isInf || x.isNan || y.isInf || y.isNan) fSKIP)
  else Ex.mul x y

/-- One output element: the leaves, then one or two trees into the accumulator (R180). -/
def mmaElem (zs : Bool) (xs ys : List Ex) (acc : Half) : Half × Flags :=
  let ps := List.zipWith (mmaLeaf zs) xs ys
  let f := orFlags (ps.map (·.2))
  let ls := ps.map (·.1)
  let (r, g) := treeSum32 (ls.take 32) (Ex.ofBits .fp32 acc.toNat)
  if ls.length ≤ 32 then (BitVec.ofNat 32 r, f ||| g)
  else
    let (r2, g2) := treeSum32 (ls.drop 32) (Ex.ofBits .fp32 r)
    (BitVec.ofNat 32 r2, f ||| g ||| g2)

namespace State

/-- Whether `n` positions from Cq on are reserved, by C slots of the bundle too, and land by their read beats `rd i`
(R178). -/
def fifoReady (s : State) (q n : Nat) (rd : Nat → Nat) : Bool :=
  let f := s.regs.fifo q
  let (wq, land) := (tfind s.cur.ahead q).getD (f.wq, f.land)
  (List.range n).all fun i => f.cq + i < wq && tget 0 land (f.cq + i) ≤ s.beat + rd i

/-- The claim of `n` positions: Cq moves past them, each is free the beat after its read (R178). -/
def fifoClaimed (s : State) (q n : Nat) (rd : Nat → Nat) : State :=
  let f := s.regs.fifo q
  s.modMe fun x => { x with regs := x.regs.setFifo q { f with
    cq := f.cq + n, free := (List.range n).foldl (fun t i => tset t (f.cq + i) (s.beat + rd i + 1)) f.free } }

/-- Claim `n` positions of a FIFO of the issuing context, position i read at `rd i` beats from now and free the beat
after; underflow slips (R178). -/
def claimFifo (s : State) (q n : Nat) (rd : Nat → Nat) (k : State → State) : State :=
  if s.fifoReady q n rd then k (s.fifoClaimed q n rd) else s.slip 0x03

/-- Whether `n` positions from Wq on can land at beats `at' i`: the entries they replace are claimed and free (R177). -/
def fifoRoom (s : State) (q n : Nat) (at' : Nat → Nat) : Bool :=
  let f := s.regs.fifo q
  (List.range n).all fun i => f.wq + i < 64 || (f.wq + i - 64 < f.cq && tget 0 f.free (f.wq + i - 64) ≤ at' i)

/-- The reservation of `n` positions with their landing beats; Wq moves past them (R177). -/
def fifoReserved (s : State) (q n : Nat) (at' : Nat → Nat) : State :=
  let f := s.regs.fifo q
  s.modMe fun x => { x with regs := x.regs.setFifo q { f with
    wq := f.wq + n,
    land := (List.range n).foldl (fun t i => tset t (f.wq + i) (at' i)) (f.land.filter fun x => f.wq + n ≤ x.1 + 64 || s.beat ≤ x.2),
    free := (f.free.filter fun x => f.wq + n ≤ x.1 + 64) } }

/-- Reserve `n` positions of a FIFO with landing beats `at' i`, the first being Wq; overflow slips (R177). -/
def reserveFifo (s : State) (q n : Nat) (at' : Nat → Nat) (k : State → Nat → State) : State :=
  if s.fifoRoom q n at' then k (s.fifoReserved q n at') (s.regs.fifo q).wq else s.slip 0x04

/-- The six MMA forms at issue (R180). -/
def mma (s : State) (g : BitVec 4) (kind : Nat) (zs ta tb : Bool) (z : BitVec 3) : State :=
  s.guarded g (
    let h := s.hcyc s.cur.ctx
    if s.regs.lastMma.any fun l => h < l + 32 then s.illegal
    else
      let c0 := s.regs.q0.cq
      let c1 := s.regs.q1.cq
      s.claimFifo 0 32 id fun t => t.claimFifo 1 32 id fun u =>
        (u.modMe fun x => { x with regs := { x.regs with lastMma := some h } }).push 0
          (.mmaRead kind zs ta tb z.toNat c0 c1 0 [] []) Lat.mma)

end State

def execMma (g : BitVec 4) (z : BitVec 3) (s : State) : Res1 := .next (s.mma g 0 false false false z)

def execMmaZs (g : BitVec 4) (z : BitVec 3) (s : State) : Res1 := .next (s.mma g 0 true false false z)

def execMmad (g : BitVec 4) (z : BitVec 3) (s : State) : Res1 := .next (s.mma g 1 false false false z)

def execMmadZs (g : BitVec 4) (z : BitVec 3) (s : State) : Res1 := .next (s.mma g 1 true false false z)

def execMmx (g : BitVec 4) (b a : BitVec 1) (z : BitVec 3) (s : State) : Res1 :=
  .next (s.mma g 2 false (a = 1) (b = 1) z)

def execMmxZs (g : BitVec 4) (b a : BitVec 1) (z : BitVec 3) (s : State) : Res1 :=
  .next (s.mma g 2 true (a = 1) (b = 1) z)

/-- All 1,024 elements at +0 (R182). -/
def execZclr (g : BitVec 4) (z : BitVec 3) (s : State) : Res1 :=
  .next (s.guarded g (s.push Lat.mma (.zland z.toNat ((List.range 1024).map fun e => (e, 0)) []) Lat.mma))

namespace State

/-- The scratchpad side of `zld`, `zst` and `zstb`: extent 0 alone, then the area, then alignment (R183). -/
def useZ (s : State) (a : BitVec 6) (groups : Nat) (k : Nat → State) : State :=
  s.useG a fun addr =>
    let off := (addr.extractLsb' 0 56).toNat
    if addr.extractLsb' 56 8 != 0 then s.extentFault 0x04 addr
    else if off < s.me.spLo ∨ s.me.spHi < off + 256 * groups then s.extentFault 0x06 addr
    else if off % 256 ≠ 0 then s.extentFault 0x07 addr
    else k off

/-- All 16 banks of each row group's cycle (R183). -/
def claimGroups (s : State) (first groups off : Nat) (k : State → State) : State :=
  s.claimAll 0x06 ((List.range groups).flatMap fun i =>
    bankClaims (tileOf s.cur.ctx) (s.beat + first + i) [(off + 256 * i, 256)]) k

end State

def execZld (g : BitVec 4) (a : BitVec 6) (f : BitVec 1) (z : BitVec 3) (s : State) : Res1 :=
  let n := if f = 1 then 8 else 16
  .next (s.guarded g (s.useZ a n fun off => s.claimGroups 1 n off fun t =>
    t.push 1 (.zldRow (f = 1) z.toNat off 0 [] [] 0) Lat.mma))

def execZst (g : BitVec 4) (a : BitVec 6) (z : BitVec 3) (s : State) : Res1 :=
  .next (s.guarded g (s.useZ a 16 fun off => s.claimGroups 25 16 off fun t =>
    t.push 24 (.zstRead false 0 z.toNat off 0 0 0) 40 41))

/-- `zstb`: a drawing instruction in mode `.rs` (R183). -/
def execZstb (g : BitVec 4) (a : BitVec 6) (r : BitVec 3) (z : BitVec 3) (s : State) : Res1 :=
  .next (s.guarded g (s.useZ a 8 fun off => s.claimGroups 33 8 off fun t =>
    (t.push 32 (.zstRead true r.toNat z.toNat off t.regs.seedlo t.regs.seedhi
      (t.regs.dcnt + Word.ofNat t.cur.draws)) 40 41).drewIf (Rnd.ofCode r.toNat)))

/-- `qdrop`: n landed positions, or every reserved one with n = 0, but for those the same bundle reserves (R184, log entry
52). -/
def execQdrop (g : BitVec 4) (a : BitVec 6) (i : BitVec 9) (s : State) : Res1 :=
  let q := a.toNat
  .next (s.guarded g (if i.toNat ≠ 0 then s.claimFifo q i.toNat (fun _ => 0) id
    else s.modMe fun x =>
      let f := x.regs.fifo q
      let ps := (List.range (f.wq - f.cq)).map fun i => f.cq + i
      { x with regs := x.regs.setFifo q { f with
        cq := f.wq, free := ps.foldl (fun t p => tset t p (s.beat + 1)) f.free,
        land := ps.foldl (fun t p => if s.beat < tget 0 f.land p then tdel t p else t) f.land } }))

/-! ### Steps of the matrix unit -/

/-- Items the matrix unit runs: entry reads, the accumulator read, accumulator lands and movement. -/
def Act.isMatrix : Act → Bool
  | .mmaRead _ _ _ _ _ _ _ _ _ _ | .mmaAcc _ _ _ _ _ _ _ | .zland _ _ _ | .zldRow _ _ _ _ _ _ _
  | .zstRead _ _ _ _ _ _ _ => true
  | _ => false

namespace State

/-- Put the next step of an item in flight, `n` beats on. -/
def follow (s : State) (c : Nat) (it : Item) (n : Nat) (act : Act) : State :=
  s.addItem c { it with due := it.due + n, act := act }

/-- Replace an item in flight, in the context and in what an undone beat returns to. -/
def swapItem (s : State) (c : Nat) (it new : Item) : State :=
  let f (x : Ctx) : Ctx := { x with items := insItem new (x.items.erase it), rewAt := max x.rewAt it.fin }
  let t := s.modCtx c f
  { t with undo := t.undo.map fun (d, x) => (d, if d = c then f x else x) }

/-- An item whose read has consumed poison: in a rewind it completes with marked results, in a frozen gang it is held
(R386, R406). -/
def failItem (s : State) (c : Nat) (it : Item) : State := s.swapItem c it { it with bad := true }

/-- An abandoned transfer whose fault has been taken: it is not performed, and stays listed (R386, R409). -/
def dropItem (s : State) (c : Nat) (it : Item) : State := s.swapItem c it { it with tries := 255 }

/-- POISON taken by an item in flight at the beat of its read (R379, R382, R383). -/
def poisonItem (s : State) (c : Nat) (it : Item) (found : Bool) (aux : Word := 0) : State :=
  (s.takeFault c 0x0A 0 it.slot aux 0 false found).failItem c it

/-- One entry pair of an MMA, read at c + r (R180, R382). -/
def stepMmaRead (s : State) (c : Nat) (it : Item) (kind : Nat) (zs ta tb : Bool) (z c0 c1 r : Nat)
    (rows cols : List Entry) : State :=
  let x := (s.ctx c).regs
  let u0 := unitQ 0 (c0 + r)
  let u1 := unitQ 1 (c1 + r)
  if !it.bad && x.isMarked u0 then s.poisonItem c it (tget false x.marks u0)
  else if !it.bad && x.isMarked u1 then s.poisonItem c it (tget false x.marks u1)
  else
    let rows := rows ++ [tget (0, 0) x.q0.slots ((c0 + r) % 64)]
    let cols := cols ++ [tget (0, 0) x.q1.slots ((c1 + r) % 64)]
    if r < 31 then s.follow c it 1 (.mmaRead kind zs ta tb z c0 c1 (r + 1) rows cols)
    else s.follow c it 8 (.mmaAcc kind zs ta tb z rows cols)

/-- The first marked row of an accumulator. -/
def markedRow (x : Regs) (z : Nat) : Option Nat :=
  if x.marks.isEmpty then none else (List.range 32).find? fun i => x.isMarked (unitZ z i)

/-- The accumulator read at c + 39 and the products' trees (R175, R180). -/
def stepMmaAcc (s : State) (c : Nat) (it : Item) (kind : Nat) (zs ta tb : Bool) (z : Nat) (rows cols : List Entry) :
    State :=
  let x := (s.ctx c).regs
  match if it.bad then none else markedRow x z with
  | some i => s.poisonItem c it (tget false x.marks (unitZ z i))
  | none =>
    let as := rows.map (Entry.elems kind ta)
    let bs := cols.map (Entry.elems kind tb)
    let out := ((List.range 32).zip as).flatMap fun (i, a) => ((List.range 32).zip bs).map fun (j, b) =>
      (32 * i + j, mmaElem zs a b (x.acc z (32 * i + j)))
    let f := orFlags (out.map fun (_, v) => v.2)
    let t := s.follow c it 1 (.zland z (out.map fun (e, v) => (e, v.1)) [])
    if f = 0 then t else t.follow c it 1 (.flags f)

/-- One row group of `zld` (R183): FP32 carries marks, BF16 consumes them (R382). -/
def stepZldRow (s : State) (c : Nat) (it : Item) (bf : Bool) (z off g : Nat) (vals : List (Nat × Half))
    (rows : List Nat) (f : Flags) : State :=
  let a := poolAt (tileOf c) (off + 256 * g)
  let mk := s.marked a 256
  if bf && mk && !it.bad then s.poisonItem c it false (Word.ofNat (off + 256 * g))
  else
    let new := if bf
      then (List.range 128).map fun i => let r := fp32OfBf16 (s.rdNat (a + 2 * i) 2); (128 * g + i, r)
      else (List.range 64).map fun i => (64 * g + i, (s.rdNat (a + 4 * i) 4, (0 : Flags)))
    let vals := vals ++ new.map fun (e, r) => (e, BitVec.ofNat 32 r.1)
    let f := f ||| orFlags (new.map fun (_, r) => r.2)
    let rows := rows ++ ((List.range 2).filter fun h => s.marked (a + 128 * h) 128).map fun h => 2 * g + h
    if g + 1 < (if bf then 8 else 16) then s.follow c it 1 (.zldRow bf z off (g + 1) vals rows f)
    else
      let n := Lat.mma - (if bf then 8 else 16)
      let t := s.addItem c { it with due := it.due + n, act := .zland z vals rows }
      if f = 0 then t else t.addItem c { it with due := it.due + n, act := .flags f }

/-- Bytes of a list of 32-bit values, little-endian, `n` bytes each. -/
def packVals (n : Nat) (vs : List Nat) : List Byte := vs.flatMap fun v => leBytes n v

/-- The accumulator read of `zst` and `zstb`, and the row-group writes that follow one a cycle (R183). -/
def stepZstRead (s : State) (c : Nat) (it : Item) (bf : Bool) (mode z off : Nat) (lo hi dc : Word) : State :=
  let x := (s.ctx c).regs
  let wr (t : State) (g : Nat) (bs : List Byte) (mk : Bool) : State :=
    t.addItem c { it with due := it.due + 1 + g, act := .pool (tileOf c) [(off + 256 * g, bs, mk)] }
  if bf then
    match if it.bad then none else markedRow x z with
    | some i => s.poisonItem c it (tget false x.marks (unitZ z i))
    | none =>
      let out := (List.range 1024).map fun e =>
        bf16OfFp32 (Rnd.ofCode mode) ((genNext lo hi dc e).toNat % 65536) (x.acc z e).toNat
      let f := orFlags (out.map (·.2))
      let t := (List.range 8).foldl (fun t g =>
        wr t g (packVals 2 (((out.drop (128 * g)).take 128).map (·.1))) it.bad) s
      if f = 0 then t else t.addItem c { it with due := it.due + 8, act := .flags f }
  else
    (List.range 16).foldl (fun t g =>
      let row (h : Nat) : List Byte := packVals 4 ((List.range 32).map fun j => (x.acc z (64 * g + 32 * h + j)).toNat)
      let chunk (h : Nat) : Act :=
        .pool (tileOf c) [(off + 256 * g + 128 * h, row h, x.isMarked (unitZ z (2 * g + h)))]
      let w (u : State) (h : Nat) : State := u.addItem c { it with due := it.due + 1 + g, act := chunk h }
      w (w t 0) 1) s

/-- Lands on an accumulator: elements, marks of its rows (R175, R381). -/
def landZ (s : State) (c z : Nat) (vals : List (Nat × Half)) (rows : List Nat) : State :=
  s.modRegs c fun r =>
    let r := { r with z := tset r.z z (vals.foldl (fun t (e, v) => tset t e v) (tget [] r.z z)) }
    (List.range 32).foldl (fun r i => r.mark (unitZ z i) (rows.contains i)) r

end State

/-- The matrix unit's step for the first due item: an entry read, the accumulator read at issue + 39, or the land at
issue + 40 (R175, R180, R183). -/
def execMmaAccumulatorLand (s : State) : Res1 :=
  .next (s.onItem Act.isMatrix fun t c it => match it.act with
    | .mmaRead kind zs ta tb z c0 c1 r rows cols => t.stepMmaRead c it kind zs ta tb z c0 c1 r rows cols
    | .mmaAcc kind zs ta tb z rows cols => t.stepMmaAcc c it kind zs ta tb z rows cols
    | .zland z vals rows => t.landZ c z vals (if it.bad then List.range 32 else rows)
    | .zldRow bf z off g vals rows f => t.stepZldRow c it bf z off g vals rows f
    | .zstRead bf mode z off lo hi dc => t.stepZstRead c it bf mode z off lo hi dc
    | _ => t)

end Sys2Proof.Machine
end

