-- ==== Sys2Proof/Machine/TileMem.lean ====
section
/-! DEFINITION. Scratchpad, block, gather and stream loads and stores, sends, timetabled HBM transfers, code fill and
drain (spec 06 R141-R148, 09 R205-R208, 10 R218-R238). -/

namespace Sys2Proof.Machine

namespace State

/-- The effective address of a memory operand (R81). -/
def useMem (s : State) (a b : BitVec 6) (x : Option Half) (k : Word → State) : State :=
  s.useG a fun ga => s.useG b fun gb => k (memAddr a b x ga gb)

/-- A source register copied without consuming its mark (R382). -/
def copyG (s : State) (n : BitVec 6) : Word × Bool :=
  let r := greg s.regs.rotpos n.toNat
  (s.regs.gr r, s.regs.isMarked (keyG r))

/-- Lanes of a vector register copied with their marks (R382). -/
def copyV (s : State) (n : BitVec 6) : List (Half × Bool) :=
  let r := s.vphys n
  ((List.range 128).zip (s.regs.vec r)).map fun (l, x) => (x, s.regs.isMarked (unitV r l))

/-- Push a pool write of the issuing tile, performed `n` beats from now (R33, R219, R237). -/
def pushPool (s : State) (n : Nat) (chunks : List (Nat × List Byte × Bool)) : State :=
  s.push n (.pool (tileOf s.cur.ctx) chunks) n (n + 1)

end State

/-- Bytes of a scalar access by size code (R221). -/
def sizeOf (m : Nat) : Nat := 2 ^ (m % 4)

/-- Lanes of bytes, four a lane, little-endian. -/
def lanesOfBytes : Nat → List Byte → List Half
  | 0, _ => []
  | n + 1, bs => word32 bs :: lanesOfBytes n (bs.drop 4)

/-- Bytes of lanes. -/
def bytesOfLanes (ls : List Half) : List Byte := ls.flatMap fun x => leBytes 4 x.toNat

/-! ### Scalar and vector loads and stores (R221) -/

def execLd (g : BitVec 4) (d a b : BitVec 6) (u : BitVec 3) (x : Option Half) (s : State) : Res1 :=
  let n := sizeOf u.toNat
  .next (s.guarded g (s.useMem a b x fun addr => s.usePool addr n n 0x07 fun off => s.claimBanks 0 [(off, n)] fun t =>
    let v := leNat (t.rdPool off n)
    t.landG d (if 4 ≤ u.toNat then Word.ofInt (sextN (8 * n) v) else Word.ofNat v) Lat.load (t.poolMarked off n)))

def execSt (g : BitVec 4) (d a b : BitVec 6) (u : BitVec 3) (x : Option Half) (s : State) : Res1 :=
  let n := sizeOf u.toNat
  .next (s.guarded g (s.useMem a b x fun addr => s.usePool addr n n 0x07 fun off => s.claimBanks 1 [(off, n)] fun t =>
    let v := t.copyG d
    t.pushPool 1 [(off, leBytes n v.1.toNat, v.2)]))

namespace State

/-- Lanes read from pool bytes, with marks, numbered from `l0`. -/
def poolLanes (s : State) (tile off n l0 : Nat) : List (Nat × Half × Bool) :=
  let a := poolAt tile off
  (((List.range n).zip (lanesOfBytes n (s.rd a (4 * n))))).map fun (i, x) => (l0 + i, x, s.marked (a + 4 * i) 4)

end State

/-- `vld`: the halves are read one cycle apart, all lanes land at issue + 5 (R220, R221). -/
def execVld (g : BitVec 4) (d a b : BitVec 6) (x : Option Half) (s : State) : Res1 :=
  .next (s.guarded g (s.useMem a b x fun addr => s.usePool addr 512 16 0x07 fun off =>
    s.claimBanks 0 [(off, 256)] fun t => t.claimBanks 1 [(off + 256, 256)] fun t =>
      let r := t.vphys d
      ((t.claimLand (keyV r) Lat.vload).push Lat.vload (.lanes r (t.poolLanes (tileOf t.cur.ctx) off 64 0))
        Lat.vload).push 1 (.vldHalf r (off + 256)) Lat.vload))

/-- `vld.bc`: sixteen words, repeated in every cluster (R221). -/
def execVldBc (g : BitVec 4) (d a b : BitVec 6) (x : Option Half) (s : State) : Res1 :=
  .next (s.guarded g (s.useMem a b x fun addr => s.usePool addr 64 16 0x07 fun off => s.claimBanks 0 [(off, 64)] fun t =>
    let r := t.vphys d
    let ls := t.poolLanes (tileOf t.cur.ctx) off 16 0
    (t.claimLand (keyV r) Lat.vload).push Lat.vload
      (.lanes r ((List.range 8).flatMap fun c => ls.map fun (i, v) => (16 * c + i, v))) Lat.vload))

/-- The pool write of marked lanes: one piece per chunk of four, marked if any of them is (R381, R382). -/
def lanePieces : Nat → Nat → List (Half × Bool) → List (Nat × List Byte × Bool)
  | 0, _, _ => []
  | n + 1, off, ls =>
    (off, bytesOfLanes ((ls.take 4).map (·.1)), (ls.take 4).any (·.2)) :: lanePieces n (off + 16) (ls.drop 4)

/-- A run of lanes from a chunk boundary on, written as one piece when none is marked. -/
def laneWrite (off : Nat) (ls : List (Half × Bool)) : List (Nat × List Byte × Bool) :=
  if ls.any (·.2) then lanePieces (ls.length / 4) off ls else [(off, bytesOfLanes (ls.map (·.1)), false)]

/-- `vst`: the halves are written one cycle apart (R220, R221). -/
def execVst (g : BitVec 4) (d a b : BitVec 6) (x : Option Half) (s : State) : Res1 :=
  .next (s.guarded g (s.useMem a b x fun addr => s.usePool addr 512 16 0x07 fun off =>
    s.claimBanks 1 [(off, 256)] fun t => t.claimBanks 2 [(off + 256, 256)] fun t =>
      let ls := t.copyV d
      (t.pushPool 1 (laneWrite off (ls.take 64))).pushPool 2 (laneWrite (off + 256) (ls.drop 64))))

/-! ### Block loads and stores (R222, R223) -/

/-- Offsets of a block access, or the extent detail and address: every block is checked before alignment (R195). -/
def State.blockAddrs (s : State) (pay sc : Word) (w : Nat) (j0 : Word) : Except (Nat × Word) (List (Nat × Nat × Nat)) :=
  let rows := (List.range 8).map fun c =>
    let j := j0 + Word.ofNat c
    (c, pay + 32 * j, sc + Word.ofNat w * j)
  let rec go : List (Nat × Word × Word) → Except (Nat × Word) (List (Nat × Nat × Nat))
    | [] => .ok []
    | (c, p, q) :: r =>
      match s.poolAddr p 32, s.poolAddr q w with
      | .error e, _ => .error (e, p)
      | _, .error e => .error (e, q)
      | .ok a, .ok b =>
        match go r with
        | .error e => .error e
        | .ok l => .ok ((c, a, b) :: l)
  match go rows with
  | .error e => .error e
  | .ok l =>
    if pay.toNat % 32 ≠ 0 then .error (0x05, pay)
    else if w = 2 ∧ sc.toNat % 2 ≠ 0 then .error (0x05, sc)
    else .ok l

/-- Payload in one cycle, scales in the next, claimed in that order (R220, R222). -/
def State.useBlocks (s : State) (a b : BitVec 6) (t : BitVec 1) (x : Option Half) (first : Nat)
    (k : State → List (Nat × Nat × Nat) → State) : State :=
  let w := if t = 1 then 1 else 2
  s.useG a fun pay => s.useG b fun sc =>
    match s.blockAddrs pay sc w (xOff x) with
    | .error (e, p) => s.extentFault e p
    | .ok l =>
      s.claimBanks first (l.map fun (_, p, _) => (p, 32)) fun u =>
        u.claimBanks (first + 1) (l.map fun (_, _, q) => (q, w)) fun u => k u l

def execVldb (g : BitVec 4) (d a b : BitVec 6) (t : BitVec 1) (x : Option Half) (s : State) : Res1 :=
  .next (s.guarded g (s.useBlocks a b t x 0 fun u l =>
    let r := u.vphys d
    let parts := l.map fun (c, p, q) => (c, q, (u.poolLanes (tileOf u.cur.ctx) p 8 0).map fun (_, v) => v)
    (u.claimLand (keyV r) Lat.vload).push 1 (.vldbScale r (t = 0) parts) Lat.vload))

def execVstb (g : BitVec 4) (d a b : BitVec 6) (t : BitVec 1) (x : Option Half) (s : State) : Res1 :=
  .next (s.guarded g (s.useBlocks a b t x 1 fun u l =>
    let ls := u.copyV d
    let scale (c : Nat) : List Byte × Bool :=
      let v := ls.getD (16 * c + 8) (0, false)
      (leBytes (if t = 1 then 1 else 2) v.1.toNat, v.2)
    (u.pushPool 1 (l.flatMap fun (c, p, _) => laneWrite p ((ls.drop (16 * c)).take 8))).pushPool 2
      (l.map fun (c, _, q) => (q, scale c))))

/-! ### Gather and scatter (R224) -/

/-- The sixteen word offsets of a gather or scatter, or the first failing detail. -/
def State.gatherAddrs (s : State) (base : Word) (os : List Half) : Except (Nat × Word) (List Nat) :=
  s.poolAddrs 4 4 (os.map fun o => base + o.setWidth 64)

/-- Check and claim the words of cluster `c` of a gather or scatter. -/
def State.useGather (s : State) (a b : BitVec 6) (c n : Nat) (k : State → List Nat → State) : State :=
  s.useG b fun base => s.useV a (State.laneMask (List.range' (16 * c) 16)) fun xs =>
    match s.gatherAddrs base ((xs.drop (16 * c)).take 16) with
    | .error (e, p) => s.extentFault e p
    | .ok offs => s.claimBanks n (offs.map fun o => (o, 4)) fun t => k t offs

def execGath (g : BitVec 4) (d a b : BitVec 6) (c : BitVec 3) (s : State) : Res1 :=
  .next (s.guarded g (s.useGather a b c.toNat 0 fun t offs =>
    let r := t.vphys d
    let vals := ((List.range' (16 * c.toNat) 16).zip offs).map fun (l, o) =>
      (l, word32 (t.rdPool o 4), t.poolMarked o 4)
    (t.claimLand (keyV r) Lat.vload (State.laneMask (vals.map (·.1)))).push Lat.vload (.lanes r vals) Lat.vload))

def execScat (g : BitVec 4) (d a b : BitVec 6) (c : BitVec 3) (s : State) : Res1 :=
  .next (s.guarded g (s.useGather a b c.toNat 1 fun t offs =>
    let ls := ((t.copyV d).drop (16 * c.toNat)).take 16
    t.pushPool 1 ((offs.zip ls).map fun (o, x, pm) => (o, leBytes 4 x.toNat, pm))))

/-- `drain` holds the tile until its own traffic has come to rest (R237). -/
def execDrain (g : BitVec 4) (s : State) : Res1 :=
  .next (s.guarded g (s.modCur fun c => { c with drain := true }))

/-! ### Mesh and cross-die sends (R141-R145, R227, R228) -/

/-- The dimension-order route between two tiles of a die: the link (router, direction) crossed at each hop, directions
0 east, 1 west, 2 down, 3 up (R141). -/
def route (src dst : Nat) : List (Nat × Nat) :=
  let y := rowOf src
  let x := colOf src
  let y2 := rowOf dst
  let x2 := colOf dst
  let base := src / 256 * 256
  let xs := if x ≤ x2 then (List.range (x2 - x)).map fun i => (base + 16 * y + x + i, 0)
    else (List.range (x - x2)).map fun i => (base + 16 * y + x - i, 1)
  let ys := if y ≤ y2 then (List.range (y2 - y)).map fun i => (base + 16 * (y + i) + x2, 2)
    else (List.range (y - y2)).map fun i => (base + 16 * (y - i) + x2, 3)
  xs ++ ys

/-- The reservations of a mesh delivery at issue beat `c`: links at c + 1 + k, ejection and banks at c + 2 + h. -/
def meshClaims (c src dst : Nat) : List (Res × Nat × Word) :=
  let r := route src dst
  ((List.range r.length).zip r).map fun (i, t, d) => (.link t d, c + 2 + i, 0)

namespace State

/-- The gang member on a tile, if any. -/
def memberOn (s : State) (tile : Nat) : Option Nat := s.myGang.members.find? fun m => tileOf m = tile

/-- Read the 64 source bytes of a send in cycle c, with the marks of their four chunks (R228, R382). -/
def flitOf (s : State) (off : Nat) : List Byte × List Bool :=
  (s.rdPool off 64, (List.range 4).map fun i => s.poolMarked (off + 16 * i) 16)

/-- Put a flit in flight to a member: written in its ejection cycle, observable one cycle later (R228). -/
def pushFlit (s : State) (dies : Bool) (m off eject : Nat) (f : List Byte × List Bool) : State :=
  (s.push eject (.flit dies (tileOf m) off f.1 f.2) (eject + 1) (eject + 1)).push (eject + 1) (.arrive dies m)
    (eject + 1) (eject + 1)

/-- Sends and timetabled lines clear SC live (R387). -/
def clearSc (s : State) : State := s.modMe fun x => { x with sc := false }

/-- The three operands of a send: target word, source and destination (R227). -/
def sendOps (s : State) (d a b : BitVec 6) (k : Nat → Word → Word → State) : State :=
  s.useG d fun w => s.useG a fun src => s.useG b fun dst => k w.toNat src dst

/-- The common checks of the sends: source and destination in the scratchpad, 16-aligned; then the source's banks. -/
def useSend (s : State) (src dst : Word) (k : State → Nat → Nat → State) : State :=
  match s.poolAddrs 64 16 [src, dst] with
  | .ok [so, dO] => s.claimBanks 0 [(so, 64)] fun t => k t so dO
  | .ok _ => s
  | .error (e, addr) => s.extentFault e addr

/-- Cycles from issue to the ejection of a mesh flit at a tile (R141). -/
def ejectAfter (s : State) (tile : Nat) : Nat := 2 + (route (tileOf s.cur.ctx) tile).length

/-- The bank reservations of a mesh delivery to a list of members. -/
def meshBanks (s : State) (dsts : List Nat) (dO : Nat) : List (Res × Nat × Word) :=
  dsts.flatMap fun m => bankClaims (tileOf m) (s.beat + s.ejectAfter (tileOf m)) [(dO, 64)]

/-- The links and ejection ports it reserves, each once. -/
def meshLinks (s : State) (dsts : List Nat) : List (Res × Nat × Word) :=
  (dsts.flatMap fun m => meshClaims s.beat (tileOf s.cur.ctx) (tileOf m)).dedup ++
    dsts.map fun m => (Res.eject (tileOf m), s.beat + s.ejectAfter (tileOf m), 0)

/-- The flits in flight, one to each member. -/
def meshFlits (s : State) (dsts : List Nat) (so dO : Nat) : State :=
  let f := s.flitOf so
  (dsts.foldl (fun t m => t.pushFlit false m dO (s.ejectAfter (tileOf m)) f) s).clearSc

/-- Deliver one flit over the mesh to a list of members (R141, R142): links and ejection ports are reserved before the
destinations' banks (R144, R238; log entry 41). -/
def meshSend (s : State) (dsts : List Nat) (so dO : Nat) : State :=
  s.claimAll 0x07 (s.meshLinks dsts) fun t =>
    t.claimAll 0x06 (s.meshBanks dsts dO) fun t => t.meshFlits dsts so dO

end State

def execMsend (g : BitVec 4) (d a b : BitVec 6) (s : State) : Res1 :=
  .next (s.guarded g (s.sendOps d a b fun w src dst =>
    let t := w % 1024
    if 1024 ≤ w || dieOf t != dieOf (tileOf s.cur.ctx) then s.illegal
    else match s.memberOn t with
      | none => s.illegal
      | some m => s.useSend src dst fun u so dO => u.meshSend [m] so dO))

def execMcast (g : BitVec 4) (d a b : BitVec 6) (s : State) : Res1 :=
  .next (s.guarded g (s.sendOps d a b fun v src dst =>
    let x0 := bits v 0 4
    let y0 := bits v 4 4
    let x1 := bits v 8 4
    let y1 := bits v 12 4
    let die := dieOf (tileOf s.cur.ctx)
    let tiles := (List.range' y0 (y1 + 1 - y0)).flatMap fun y =>
      (List.range' x0 (x1 + 1 - x0)).map fun x => die * 256 + 16 * y + x
    let ms := tiles.filterMap s.memberOn
    if 65536 ≤ v || x1 < x0 || y1 < y0 || ms.length != tiles.length then s.illegal
    else s.useSend src dst fun u so dO => u.meshSend ms so dO))

/-- The boundaries a cross-die send crosses, each at its cycle offset (R145). -/
def dieHops (src dst : Nat) : List (Nat × Nat × Nat) :=
  if src + dst = 3 then
    let via := if src = 0 ∨ dst = 0 then 1 else 0
    [(src, via, 16), (via, dst, 28)]
  else [(src, dst, 16)]

/-- The ring slots and the ejection port of a cross-die send (R144, R145). -/
def State.dieLinks (s : State) (t slot : Nat) : List (Res × Nat × Word) :=
  ((dieHops (dieOf (tileOf s.cur.ctx)) (dieOf t)).map fun (p, q, n) =>
    (Res.ring p q (s.myGang.ring0 + slot), s.beat + n, (0 : Word))) ++ [(.eject t, s.beat + 63, 0)]

/-- The flit in flight to a member of another die (R145, R228). -/
def State.dieFlit (s : State) (m so dO : Nat) : State := (s.pushFlit true m dO 63 (s.flitOf so)).clearSc

def execDsend (g : BitVec 4) (d a b : BitVec 6) (s : State) : Res1 :=
  .next (s.guarded g (s.sendOps d a b fun v src dst =>
    let t := v % 1024
    let slot := bits v 16 7
    let me := tileOf s.cur.ctx
    if bits v 10 6 != 0 || 2 ^ 23 ≤ v || dieOf t = dieOf me || s.myGang.ringN ≤ slot then s.illegal
    else match s.memberOn t with
      | none => s.illegal
      | some m => s.useSend src dst fun u so dO =>
        u.claimAll 0x07 (u.dieLinks t slot) fun v =>
          v.claimAll 0x06 (bankClaims t (u.beat + 63) [(dO, 64)]) fun v => v.dieFlit m so dO))

/-! ### Stream-FIFO loads (R225, R226) -/

/-- Split a list into groups of four with their numbers. -/
def groups4 {α : Type} (l : List α) : List (Nat × List α) :=
  (List.range ((l.length + 3) / 4)).map fun i => (i, (l.drop (4 * i)).take 4)

/-- The entries of a stream load in groups of four: position, payload and scale offsets (R226). -/
def qldGroups (n w off so sc : Nat) : List (Nat × List (Nat × Nat × Nat)) :=
  groups4 ((List.range n).map fun r => (w + r, off + 64 * r, so + sc * r))

namespace State

/-- Banks of a plain stream load: group i at issue + i (R226). -/
def plainBanks (s : State) (es : List (Nat × List (Nat × Nat × Nat))) : List (Res × Nat × Word) :=
  es.flatMap fun (i, l) => bankClaims (tileOf s.cur.ctx) (s.beat + i) (l.map fun (_, p, _) => (p, 64))

/-- Banks of a block stream load: payloads of group i at issue + 2i, scales at issue + 2i + 1 (R226). -/
def blockBanks (s : State) (w : Nat) (es : List (Nat × List (Nat × Nat × Nat))) : List (Res × Nat × Word) :=
  es.flatMap fun (i, l) => bankClaims (tileOf s.cur.ctx) (s.beat + 2 * i) (l.map fun (_, p, _) => (p, 64)) ++
    bankClaims (tileOf s.cur.ctx) (s.beat + (2 * i + 1)) (l.map fun (_, _, c) => (c, w))

/-- The reads of a plain stream load in flight (R226). -/
def plainReads (s : State) (q : Nat) (es : List (Nat × List (Nat × Nat × Nat))) : State :=
  es.foldl (fun t (i, l) => t.push i (.qldGroup q 0 l) (i + 5) (i + 5)) s

/-- The reads of a block stream load in flight (R226). -/
def blockReads (s : State) (q w : Nat) (es : List (Nat × List (Nat × Nat × Nat))) : State :=
  es.foldl (fun t (i, l) => t.push (2 * i) (.qldGroup q w l) (2 * i + 6) (2 * i + 6)) s

end State

def execQld (g : BitVec 4) (n : BitVec 5) (q : BitVec 1) (a : BitVec 6) (x : Option Half) (s : State) : Res1 :=
  let n := n.toNat + 1
  .next (s.guarded g (s.useG a fun ga => s.usePool (ga + xOff x) (64 * n) 16 0x07 fun off =>
    s.reserveFifo q.toNat n (fun r => s.beat + r / 4 + 5) fun t w =>
      let es := qldGroups n w off 0 0
      t.claimAll 0x06 (t.plainBanks es) fun t => t.plainReads q.toNat es))

/-- The block forms: `w` scale bytes an entry (R226). -/
def State.qldBlock (s : State) (g : BitVec 4) (n : BitVec 5) (q : BitVec 1) (a b : BitVec 6) (x : Option Half)
    (w : Nat) : State :=
  let n := n.toNat + 1
  s.guarded g (s.useG a fun ga => s.useG b fun gb =>
    let pay := ga + xOff x
    match s.poolAddr pay (64 * n), s.poolAddr gb (w * n) with
    | .error e, _ => s.extentFault e pay
    | _, .error e => s.extentFault e gb
    | .ok off, .ok so =>
      if off % 32 ≠ 0 then s.extentFault 0x05 pay
      else if w = 4 ∧ so % 2 ≠ 0 then s.extentFault 0x05 gb
      else s.reserveFifo q.toNat n (fun r => s.beat + 2 * (r / 4) + 6) fun t p0 =>
        let es := qldGroups n p0 off so w
        t.claimAll 0x06 (t.blockBanks w es) fun t => t.blockReads q.toNat w es)

def execQldDxb8 (g : BitVec 4) (n : BitVec 5) (q : BitVec 1) (a b : BitVec 6) (x : Option Half) (s : State) : Res1 :=
  .next (s.qldBlock g n q a b x 4)

def execQldMx8 (g : BitVec 4) (n : BitVec 5) (q : BitVec 1) (a b : BitVec 6) (x : Option Half) (s : State) : Res1 :=
  .next (s.qldBlock g n q a b x 2)

/-! ### Timetabled HBM transfers (R205-R208, R229-R236) -/

/-- Whether a line at beat `k` breaks a constraint of R208 against reserved lines. -/
def lineBad (g : Geom) (ls : List Line) (u b k : Nat) : Bool :=
  let near (x y n : Nat) : Bool := x < y + n && y < x + n
  g.frameT - 48 < k % g.frameF ||
  (ls.any fun l =>
    (l.unit = u && l.bank = b && near l.beat k 48) ||
    (l.unit = u && l.bank != b && near l.beat k 4) ||
    (l.unit / 4 = u / 4 && l.beat = k)) ||
  (List.range 32).any fun i =>
    25 ≤ (ls.filter fun l => l.unit / 4 = u / 4 && k + i < l.beat + 32 && l.beat ≤ k + i).length

namespace State

/-- A located line of a transfer: its number, command offset from now, HBM location and stripe-space address. -/
abbrev Located := Nat × Nat × HbmLoc × Nat

/-- The extent checks of the HBM side of every line, with each line's offset in its extent (R230); they come before those of the
pool side (log entry 35). -/
def hbmExtents (s : State) (write : Bool) : List (Nat × Nat × Word) → Except (Nat × Word) (List (Located × Nat × Word))
  | [] => .ok []
  | (l, k, addr) :: r =>
    match s.extAddr addr 64 write 1 with
    | .error e => .error (e, addr)
    | .ok (x, off) => match stripeOfStale s.geom (x.base.toNat + off) x.place.toNat with
      | none => .error (0x01, addr)
      | some h => match s.hbmExtents write r with
        | .error e => .error e
        | .ok t => .ok (((l, k, h, x.base.toNat + off), off, addr) :: t)

/-- Check the addresses of a transfer's lines, HBM sides before pool sides: all extents, then all alignments (R195, R218,
R230, R231, R234; log entry 35). -/
def locate (s : State) (write : Bool) (hbm : List (Nat × Nat × Word)) (pool : List Word) :
    Except (Nat × Word) (List Located × List Nat) :=
  match s.hbmExtents write hbm with
  | .error e => .error e
  | .ok ls => match s.poolExtents 64 pool with
    | .error e => .error e
    | .ok offs => match ls.find? fun x => x.2.1 % 64 ≠ 0 with
      | some x => .error (0x07, x.2.2)
      | none => match offs.find? fun x => x.1 % 16 ≠ 0 with
        | some x => .error (0x07, x.2)
        | none => .ok (ls.map (·.1), offs.map (·.1))

/-- The reservation of a line's unit and bank at a beat (R208). -/
def addLine (s : State) (h : HbmLoc) (b : Nat) : State :=
  s.modGang s.me.gang fun g =>
    { g with lines := ⟨h.unit, h.bank, b, s.cur.ctx, s.beat⟩ :: (g.lines.filter fun l => s.beat ≤ l.beat + 64) }

/-- Reserve the lines in order or raise a bank-timing fault; issuing any line clears SC live (R208, R387). -/
def reserveLines (s : State) (ls : List Located) (k : State → State) : State :=
  let rec go (s : State) : List Located → (State → State) → State
    | [], k => k s
    | (_, n, h, sa) :: r, k =>
      if lineBad s.geom s.myGang.lines h.unit h.bank (s.beat + n) then s.raise 0x08 0 (Word.ofNat sa)
      else go (s.addLine h (s.beat + n)) r k
  go s ls fun t => k t.clearSc

/-- HBM latency of a line: 192 on the tile's own die, 256 otherwise (R230). -/
def lineLat (s : State) (h : HbmLoc) : Nat := if h.die = dieOf (tileOf s.cur.ctx) then 192 else 256

/-- The memory slots that lines of far stacks take on the ring: reads from the stack's die at k + 200 and k + 212,
writes towards it at k + 4 and k + 16 (R408). -/
def ringClaims (s : State) (write : Bool) (ls : List Located) : List (Res × Nat × Word) :=
  let me := dieOf (tileOf s.cur.ctx)
  ls.flatMap fun (_, k, h, _) =>
    if h.die = me then []
    else (dieHops (if write then me else h.die) (if write then h.die else me)).map fun (p, q, n) =>
      (.ring p q (96 + h.chan % 2), s.beat + k + n - 16 + (if write then 4 else 200), 0)

/-- Reserve the ring slots of a transfer's lines and go on (R408). -/
def claimRing (s : State) (write : Bool) (ls : List Located) (k : State → State) : State :=
  s.claimAll 0x07 (s.ringClaims write ls) k

/-- Fail with an extent detail, or go on. -/
def orFault {α : Type} (s : State) (e : Except (Nat × Word) α) (k : α → State) : State :=
  match e with
  | .error (d, addr) => s.extentFault d addr
  | .ok v => k v

/-- The pool banks that read lines use as they land (R231). -/
def readBanks (s : State) (ls : List Located) (offs : List Nat) : List (Res × Nat × Word) :=
  (ls.zip offs).flatMap fun ((_, k, h, _), o) => bankClaims (tileOf s.cur.ctx) (s.beat + k + s.lineLat h - 1) [(o, 64)]

/-- The pool banks that written lines use at their command cycles (R234). -/
def writeBanks (s : State) (ls : List Located) (offs : List Nat) : List (Res × Nat × Word) :=
  (ls.zip offs).flatMap fun ((_, k, _, _), o) => bankClaims (tileOf s.cur.ctx) (s.beat + k) [(o, 64)]

/-- A line read in flight, to a destination kind, its target and position, landing `early` beats before k + L (R230). -/
def pushLine (s : State) (k : Nat) (h : HbmLoc) (early dst tgt pos : Nat) : State :=
  s.push k (.hbmRead h.flat (s.lineLat h - early) dst tgt pos) (k + s.lineLat h) (k + s.lineLat h)

/-- Lines read into the pool (R231). -/
def poolReads (s : State) (ls : List Located) (offs : List Nat) : State :=
  (ls.zip offs).foldl (fun t ((l, k, h, _), o) => t.pushLine k h 1 0 o l) s

/-- Lines read to a FIFO, a transposing buffer or a code frame: line `l` to position `p0 + l` (R231, R233, R236). -/
def lineReads (s : State) (ls : List Located) (dst tgt p0 : Nat) : State :=
  ls.foldl (fun t (l, k, h, _) => t.pushLine k h 0 dst tgt (p0 + l)) s

/-- Lines written from the pool (R234). -/
def lineWrites (s : State) (ls : List Located) (offs : List Nat) : State :=
  (ls.zip offs).foldl (fun t ((_, k, h, _), o) =>
    t.push k (.hbmWrite h.flat (tileOf t.cur.ctx) o) (k + 96) (k + 97)) s

/-- The latest landing of a transfer's lines, from now. -/
def lastLand (s : State) (ls : List Located) : Nat := ls.foldl (fun n (_, k, h, _) => max n (k + s.lineLat h)) 0

/-- Landing beat of line `i` of a transfer. -/
def landAt (s : State) (ls : List Located) (i : Nat) : Nat :=
  match ls[i]? with
  | some (_, k, h, _) => s.beat + k + s.lineLat h
  | none => 0

/-- Reads that land in the pool, after the bank claims `index` of an index list (R218, R231, R232). -/
def hbmToPool (s : State) (ls : List Located) (offs : List Nat) (index : List (Res × Nat × Word)) : State :=
  s.reserveLines ls fun t => t.claimAll 0x06 (index ++ t.readBanks ls offs) fun t =>
    t.claimRing false ls fun t => t.poolReads ls offs

/-- Reads that land in FIFO positions, line l at k_l + L_l (R218, R231, R232). -/
def hbmToFifo (s : State) (q : Nat) (ls : List Located) (index : List (Res × Nat × Word)) : State :=
  s.reserveFifo q ls.length (s.landAt ls) fun t w =>
    t.reserveLines ls fun t => t.claimAll 0x06 index fun t => t.claimRing false ls fun t => t.lineReads ls 1 q w

/-- Command offsets and HBM addresses of the lines of a strided transfer (R230). -/
def strided (base : Word) (d : LineDesc) : List (Nat × Nat × Word) :=
  (List.range d.n).map fun l => (l, l * d.sp, base + Word.ofNat (64 * d.hs * l))

/-- Pool addresses of the lines of a transfer (R231, R234). -/
def poolSides (base : Word) (d : LineDesc) : List Word :=
  (List.range d.n).map fun l => base + Word.ofNat (16 * d.ps * l)

/-- Read a line descriptor and go on, or an illegal operation (R229). -/
def useDesc (s : State) (b : BitVec 6) (k : LineDesc → State) : State :=
  s.useG b fun v => if (lineDesc v).ok then k (lineDesc v) else s.illegal

/-- Bank claims of the index list of a gather on fill (R232). -/
def indexBanks (s : State) (d : LineDesc) : List (Res × Nat × Word) :=
  bankClaims (tileOf s.cur.ctx) s.beat [(16 * d.hs, 4 * d.n)]

/-- Read the index list of a gather on fill and go on with its lines (R232). -/
def useIndex (s : State) (d : LineDesc) (base : Word) (k : List (Nat × Nat × Word) → State) : State :=
  let at' := Word.ofNat (16 * d.hs)
  s.usePool at' (4 * d.n) 4 0x07 fun off =>
    if s.poolMarked off (4 * d.n) then s.raise 0x0A 0 (Word.ofNat off)
    else k ((List.range d.n).map fun l =>
      (l, l * d.sp, base + 64 * Word.ofNat (leNat (s.rdPool (off + 4 * l) 4))))

end State

def execHrd (g : BitVec 4) (d a b : BitVec 6) (x : Option Half) (s : State) : Res1 :=
  .next (s.guarded g (s.useG d fun gd => s.useG a fun ga => s.useDesc b fun w =>
    s.orFault (s.locate false (State.strided (ga + xOff x) w) (State.poolSides gd w)) fun (ls, offs) => s.hbmToPool ls offs []))

def execHrdQ (g : BitVec 4) (q : BitVec 1) (a b : BitVec 6) (x : Option Half) (s : State) : Res1 :=
  .next (s.guarded g (s.useG a fun ga => s.useDesc b fun w =>
    s.orFault (s.locate false (State.strided (ga + xOff x) w) []) fun (ls, _) => s.hbmToFifo q.toNat ls []))

def execHrdg (g : BitVec 4) (d a b : BitVec 6) (s : State) : Res1 :=
  .next (s.guarded g (s.useG d fun gd => s.useG a fun ga => s.useDesc b fun w => s.useIndex w ga fun rows =>
    s.orFault (s.locate false rows (State.poolSides gd w)) fun (ls, offs) => s.hbmToPool ls offs (s.indexBanks w)))

def execHrdgQ (g : BitVec 4) (q : BitVec 1) (a b : BitVec 6) (s : State) : Res1 :=
  .next (s.guarded g (s.useG a fun ga => s.useDesc b fun w => s.useIndex w ga fun rows =>
    s.orFault (s.locate false rows []) fun (ls, _) => s.hbmToFifo q.toNat ls (s.indexBanks w)))

/-- `hrdt`: 32 positions land together at the latest line's landing (R233). -/
def execHrdt (g : BitVec 4) (q : BitVec 1) (a b : BitVec 6) (s : State) : Res1 :=
  .next (s.guarded g (s.useG a fun ga => s.useDesc b fun w =>
    s.orFault (s.locate false (State.strided ga w) []) fun (ls, _) =>
      let z := s.lastLand ls
      s.reserveFifo q.toNat 32 (fun _ => s.beat + z) fun t p0 => t.reserveLines ls fun t => t.claimRing false ls fun t =>
        (t.lineReads ls 2 (2 * p0 + q.toNat) 0).push z (.hrdtLand q.toNat p0 (2 * p0 + q.toNat)) z z))

def execHwr (g : BitVec 4) (d a b : BitVec 6) (x : Option Half) (s : State) : Res1 :=
  .next (s.guarded g (s.useG d fun gs => s.useG a fun ga => s.useDesc b fun w =>
    s.orFault (s.locate true (State.strided (ga + xOff x) w) (State.poolSides gs w)) fun (ls, offs) => s.reserveLines ls fun t =>
        t.claimAll 0x06 (t.writeBanks ls offs) fun t => t.claimRing true ls fun t => t.lineWrites ls offs))

namespace State

/-- The lines of a `cfill` in flight: the target holds the frame and the line's stripe-space address (R236, R385). -/
def fillReads (s : State) (f : Nat) (ls : List Located) : State :=
  ls.foldl (fun t (l, k, h, sa) => t.pushLine k h 0 3 (f + 16 * sa) l) s

/-- A code frame invalid from now until the last line lands (R236). -/
def fillFrame (s : State) (f z : Nat) : State :=
  (s.push 0 (.frame (tileOf s.cur.ctx) f false)).push z (.frame (tileOf s.cur.ctx) f true) z z

end State

/-- `cfill`: 64 lines into a code frame the context owns, invalid from now until the last lands (R236). -/
def execCfill (g : BitVec 4) (f : BitVec 4) (a b : BitVec 6) (s : State) : Res1 :=
  .next (s.guarded g (s.useG a fun ga => s.useG b fun v =>
    let sp := bits v.toNat 8 8
    if sp = 0 || v.toNat != sp * 256 then s.illegal
    else if (tget {} s.frames (16 * tileOf s.cur.ctx + f.toNat)).owner != some s.cur.ctx then s.illegal
    else s.orFault (s.locate false (State.strided ga ⟨64, sp, 1, 0, true⟩) []) fun (ls, _) =>
      s.reserveLines ls fun t => t.claimRing false ls fun t => (t.fillReads f.toNat ls).fillFrame f.toNat (t.lastLand ls)))

/-! ### Events of the pool, the mesh, HBM and the FIFOs -/

namespace State

/-- Whether a byte at a pool offset lies in one of the pieces of a write. -/
def covers (chunks : List (Nat × List Byte × Bool)) (o : Nat) : Bool := chunks.any fun (p, bs, _) => p ≤ o && o < p + bs.length

/-- Mark of a 16-byte chunk after the pieces of one write: any marked byte marks it, unmarked pieces that cover it whole
clear it (R381, R382). -/
def chunkMark (tile : Nat) (chunks : List (Nat × List Byte × Bool)) (t : Table Bool) (i : Nat) : Table Bool :=
  let k := poolAt tile (16 * i)
  if chunks.any fun (p, bs, pm) => pm && p < 16 * i + 16 && 16 * i < p + bs.length then tset t k true
  else if (List.range 16).all fun j => covers chunks (16 * i + j) then tdel t k
  else t

/-- Write the pieces of one access into a tile's pool (R219, R381). -/
def wrChunks (s : State) (tile : Nat) (chunks : List (Nat × List Byte × Bool)) : State :=
  let mem := chunks.foldl (fun m (o, bs, _) => mwrite m (poolAt tile o) bs) s.mem
  if s.marks.isEmpty && !(chunks.any fun (_, _, pm) => pm) then { s with mem := mem }
  else { s with
    mem := mem,
    marks := (chunksOf (chunks.map fun (o, bs, _) => (o, bs.length))).foldl (chunkMark tile chunks) s.marks }

/-- Land entries in FIFO positions still expected; a dropped position's landing is discarded (R177, R184). -/
def landFifo (s : State) (c q : Nat) (es : List (Nat × BitVec 512 × BitVec 32 × Bool)) : State :=
  s.modRegs c fun r => es.foldl (fun r (p, v, tag, pm) =>
    let f := r.fifo q
    if (tfind f.land p).isSome then
      (r.setFifo q { f with slots := tset f.slots (p % 64) (v, tag) }).mark (unitQ q p) pm
    else r) r

/-- 64 bytes as one payload. -/
def payload (bs : List Byte) : BitVec 512 := BitVec.ofNat 512 (leNat bs)

/-- Pool reads of loads in flight: the second half of `vld`, scales of `vldb`, groups of `qld` (R220). -/
def stepPoolRead (s : State) (c : Nat) (it : Item) : State :=
  let tile := tileOf c
  match it.act with
  | .vldHalf n off => s.follow c it 4 (.lanes n (s.poolLanes tile off 64 64))
  | .vldbScale n dxb parts =>
    let w := if dxb then 2 else 1
    s.follow c it 4 (.lanes n (parts.flatMap fun (cl, q, ls) =>
      let sc : Half × Bool := (BitVec.ofNat 32 (s.rdNat (poolAt tile q) w), s.marked (poolAt tile q) w)
      ((List.range 16).zip (ls ++ [sc] ++ List.replicate 7 (0, false))).map fun (i, v) => (16 * cl + i, v)))
  | .qldGroup q w es =>
    let rd := es.map fun (p, o, so) => (p, payload (s.rd (poolAt tile o) 64), s.marked (poolAt tile o) 64, so)
    if w = 0 then s.follow c it 5 (.fifo q (rd.map fun (p, v, pm, _) => (p, v, 0, pm)))
    else s.follow c it 1 (.qldScale q w rd)
  | .qldScale q w es =>
    s.follow c it 5 (.fifo q (es.map fun (p, v, pm, so) =>
      (p, v, BitVec.ofNat 32 (s.rdNat (poolAt tile so) w), pm || s.marked (poolAt tile so) w)))
  | _ => s

/-- The elements of a transposed tile: element k of entry j is element j of line k (R233). -/
def transposed (lines : List (Nat × List Byte × Bool)) (j : Nat) : BitVec 512 × Bool :=
  let el (k : Nat) : List Byte :=
    match lines.find? fun (l, _) => l = k with
    | some (_, bs, _) => (bs.drop (2 * j)).take 2
    | none => [0, 0]
  (payload ((List.range 32).flatMap el), lines.any fun (_, _, pm) => pm)

end State

def Act.isPool : Act → Bool
  | .pool _ _ => true
  | _ => false

def Act.isFlit (dies : Bool) : Act → Bool
  | .flit d _ _ _ _ => d == dies
  | .arrive d _ => d == dies
  | _ => false

def Act.isFifo : Act → Bool
  | .fifo _ _ | .vldHalf _ _ | .vldbScale _ _ _ | .qldGroup _ _ _ | .qldScale _ _ _ | .hrdtLand _ _ _ => true
  | _ => false

def Act.isCommand : Act → Bool
  | .hbmRead _ _ _ _ _ | .hbmWrite _ _ _ => true
  | _ => false

def Act.isHbmLand : Act → Bool
  | .hbmLand _ _ _ _ _ _ => true
  | _ => false

def Act.isPerform : Act → Bool
  | .hbmPerform _ _ _ => true
  | _ => false

def Act.isFrame : Act → Bool
  | .frame _ _ _ => true
  | _ => false

/-- A scratchpad store performs (R220). -/
def execStorePerform (s : State) : Res1 :=
  .next (s.onItem Act.isPool fun t _ it => match it.act with
    | .pool tile chunks => t.wrChunks tile chunks
    | _ => t)

/-- A flit is written in its ejection cycle, and is observed from the next: then SC live of the receiver clears
(R228, R387). -/
def State.deliver (s : State) (it : Item) : State :=
  match it.act with
  | .flit _ tile off bs pms =>
    s.wrChunks tile (((List.range 4).zip pms).map fun (i, pm) => (off + 16 * i, (bs.drop (16 * i)).take 16, pm))
  | .arrive _ m => s.modCtx m fun x => { x with sc := false }
  | _ => s

def execMeshFlitDelivery (s : State) : Res1 := .next (s.onItem (Act.isFlit false) fun t _ it => t.deliver it)

def execCrossDieDelivery (s : State) : Res1 := .next (s.onItem (Act.isFlit true) fun t _ it => t.deliver it)

/-- Pool reads of loads in flight, and the landing of FIFO positions (R177, R220, R226, R233). -/
def execFifoPositionLand (s : State) : Res1 :=
  .next (s.onItem Act.isFifo fun t c it => match it.act with
    | .fifo q es => t.landFifo c q es
    | .hrdtLand q p0 key =>
      let ls := tget [] (t.ctx c).gather key
      (t.landFifo c q ((List.range 32).map fun j => (p0 + j, (State.transposed ls j).1, 0, (State.transposed ls j).2))).modCtx c
        fun x => { x with gather := tdel x.gather key }
    | _ => t.stepPoolRead c it)

/-- A line's command: a read line takes the bytes as they stand, a write line reads its pool side; a code fill consumes a
marked line (R230, R234, R235, R382). -/
def execHbmLineCommand (s : State) : Res1 :=
  .next (s.onItem Act.isCommand fun t c it => match it.act with
    | .hbmRead loc n dst tgt pos =>
      if dst = 3 && t.marked loc 64 && !it.bad then t.poisonItem c it false (Word.ofNat (tgt / 16))
      else t.follow c it n (.hbmLand loc dst tgt pos (t.rd loc 64) (t.marked loc 64))
    | .hbmWrite loc tile off =>
      let a : Act := .hbmPerform loc (t.rd (poolAt tile off) 64) (t.marked (poolAt tile off) 64)
      t.addItem c { it with due := it.due + 96, rt := true, act := a }
    | _ => t)

/-- A read line reaches its destination: pool, FIFO position, transposing buffer or code frame (R207, R231-R236). -/
def execHbmLineLand (s : State) : Res1 :=
  .next (s.onItem Act.isHbmLand fun t c it => match it.act with
    | .hbmLand _ dst tgt pos bs pm =>
      match dst with
      | 0 => t.wr (poolAt (tileOf c) tgt) bs pm
      | 1 => t.landFifo c tgt [(pos, State.payload bs, 0, pm)]
      | 2 => t.modCtx c fun x => { x with gather := tset x.gather tgt ((pos, bs, pm) :: tget [] x.gather tgt) }
      | _ => t.wr (storeAt (tileOf c) (4096 * (tgt % 16) + 64 * pos)) bs pm
    | _ => t)

/-- A written line performs at its command cycle plus 96 (R207, R234). -/
def execHbmLinePerform (s : State) : Res1 :=
  .next (s.onItem Act.isPerform fun t _ it => match it.act with
    | .hbmPerform loc bs pm => (t.overrule loc bs.length).wr loc bs pm
    | _ => t)

def Act.fills (tile f : Nat) : Act → Bool
  | .frame t h ok => t = tile && h = f && ok
  | _ => false

/-- A code frame being filled is invalid from the `cfill`'s issue, and valid again when the last line of every fill in
flight has landed (R236). -/
def execCodeFrameFillComplete (s : State) : Res1 :=
  .next (s.onItem Act.isFrame fun t c it => match it.act with
    | .frame tile f ok =>
      let k := 16 * tile + f
      let fr : Frame := { tget {} t.frames k with valid := ok && !((t.ctx c).items.any fun i => i.act.fills tile f) }
      { t with frames := tset t.frames k fr }
    | _ => t)

end Sys2Proof.Machine
end

