-- ==== Sys2Proof/Machine/Elem.lean ====
section
/-! DEFINITION. Correctly rounded special functions, in fixed point with 400 fraction bits (spec 07 R164; log entry
18). -/

namespace Sys2Proof.Machine

/-- Fraction bits of the fixed-point numbers below. -/
def fixP : Nat := 400

/-- Fixed-point product. -/
def fixMul (a b : Int) : Int := a * b / (2 ^ fixP : Nat)

/-- Σ (1/n)^(2i+1) / (2i+1) with signs alternating when `alt`: atanh(1/n) or atan(1/n) with `p` fraction bits. -/
def arcSer (alt : Bool) (n p : Nat) : Nat → Nat → Nat → Int
  | 0, _, _ => 0
  | k + 1, i, pw =>
    let t : Int := (pw / (2 * i + 1) : Nat)
    (if alt && i % 2 = 1 then -t else t) + arcSer alt n p k (i + 1) (pw / (n * n))

/-- ln 2 = 2 atanh(1/3). -/
def ln2Fix : Int := 2 * arcSer false 3 (fixP + 16) 140 0 (2 ^ (fixP + 16) / 3) / 2 ^ 16

/-- Fraction bits of the reduction of sine and cosine. -/
def redP : Nat := 680

/-- π / 2 with `redP` fraction bits, by Machin's formula. -/
def halfPi : Int :=
  (16 * arcSer true 5 redP 160 0 (2 ^ redP / 5) - 4 * arcSer true 239 redP 50 0 (2 ^ redP / 239)) / 2

/-- The exponential series from its `i`-th term on. -/
def expSer (r : Int) : Nat → Nat → Int → Int
  | 0, _, _ => 0
  | k + 1, i, t => t + expSer r k (i + 1) (fixMul t r / ((i : Int) + 1))

/-- atanh(z) = z + z³/3 + … -/
def atanhSer (z2 : Int) : Nat → Nat → Int → Int
  | 0, _, _ => 0
  | k + 1, i, t => t / (2 * (i : Int) + 1) + atanhSer z2 k (i + 1) (fixMul t z2)

/-- The alternating series of sine (start 1) and cosine (start 0). -/
def trigSer (r2 : Int) : Nat → Nat → Int → Int
  | 0, _, _ => 0
  | k + 1, i, t => t + trigSer r2 k (i + 2) (-(fixMul t r2) / (((i : Int) + 1) * ((i : Int) + 2)))

/-- ±m × 2^e in fixed point with `p` fraction bits; exact where e ≥ −p. -/
def toFix (p : Nat) (n : Bool) (m : Nat) (e : Int) : Int :=
  let v : Int := ((scaleDown m (e + p)).1 : Nat)
  if n then -v else v

/-- A fixed-point approximation of an irrational value, as an exact value with its sticky bit set. -/
def ofFix (v : Int) (k : Int) : Ex := .fin (v < 0) (2 * v.natAbs + 1) (k - fixP - 1)

/-- e^x for |x| ≤ 256: mantissa with `fixP` fraction bits and a binary exponent. -/
def expFix (x : Int) : Int × Int :=
  let k := x / ln2Fix
  (expSer (x - k * ln2Fix) 110 0 (2 ^ fixP : Nat), k)

/-- The value a fixed-point mantissa and exponent stand for, in fixed point. -/
def fixShift (v : Int) (k : Int) : Int := if 0 ≤ k then v * (2 ^ k.toNat : Nat) else v / (2 ^ (-k).toNat : Nat)

/-- Whether |m × 2^e| ≥ 256. -/
def isBig (m : Nat) (e : Int) : Bool := 8 ≤ floorLog m e

/-- eˣ on a finite non-zero x. -/
def expEx (n : Bool) (m : Nat) (e : Int) : Ex :=
  if isBig m e then (if n then .fin false 1 (-600) else .fin false 1 600)
  else let (v, k) := expFix (toFix fixP n m e); ofFix v k

/-- ln x on a finite positive x other than 1. -/
def logEx (m : Nat) (e : Int) : Ex :=
  let l := Nat.log2 m
  let y : Int := (m * 2 ^ fixP / 2 ^ l : Nat)
  let one : Int := (2 ^ fixP : Nat)
  let z := (y - one) * one / (y + one)
  ofFix (((l : Int) + e) * ln2Fix + 2 * atanhSer (fixMul z z) 140 0 z) 0

/-- 1 / √x on a finite positive x: exact to 190 bits with a sticky bit. -/
def rsqrtEx (m : Nat) (e : Int) : Ex :=
  let e2 := if e % 2 = 0 then e else e - 1
  let m2 := if e % 2 = 0 then m else 2 * m
  let n := 2 ^ (2 * 260)
  let r := isqrt (n / m2)
  .fin false (2 * r + (if r * r * m2 = n then 0 else 1)) (-(e2 / 2) - 261)

/-- tanh x on a finite non-zero x. -/
def tanhEx (n : Bool) (m : Nat) (e : Int) : Ex :=
  let one : Int := (2 ^ fixP : Nat)
  if 7 ≤ floorLog m e then .fin n (2 ^ fixP - 1) (-(fixP : Int))
  else
    let (v, k) := expFix (2 * toFix fixP false m e)
    let w := fixShift v k
    let r := (w - one) * one / (w + one)
    ofFix (if n then -r else r) 0

/-- 1 / (1 + e⁻ˣ) on a finite non-zero x. -/
def sigmEx (n : Bool) (m : Nat) (e : Int) : Ex :=
  let one : Int := (2 ^ fixP : Nat)
  if isBig m e then (if n then .fin false 1 (-600) else .fin false (2 ^ fixP - 1) (-(fixP : Int)))
  else
    let (v, k) := expFix (toFix fixP true m e)
    let t := fixShift v k
    ofFix ((if n then t else one) * one / (one + t)) 0

/-- Quadrant and remainder of x = q π/2 + r, |r| ≤ π/4, r in fixed point. -/
def reduce (n : Bool) (m : Nat) (e : Int) : Int × Int :=
  let x := toFix redP n m e
  let q := (2 * x + halfPi) / (2 * halfPi)
  (q % 4, (x - q * halfPi) / (2 ^ (redP - fixP) : Nat))

/-- sin (shift 0) or cos (shift 1) of a finite non-zero x. -/
def sinCosEx (shift : Int) (n : Bool) (m : Nat) (e : Int) : Ex :=
  let (q, r) := reduce n m e
  let k := (q + shift) % 4
  let r2 := fixMul r r
  let v := if k % 2 = 0 then trigSer r2 70 1 r else trigSer r2 70 0 (2 ^ fixP : Nat)
  ofFix (if 2 ≤ k then -v else v) 0

/-- The special functions of R164. -/
inductive Sfu | exp | log | rcp | rsqrt | sqrt | tanh | sigm | sin | cos
  deriving DecidableEq, Repr

/-- The value one. -/
def exOne : Ex := .fin false 1 0

/-- f(x) with the special operands of R164 and the flags they raise. -/
def Sfu.eval (f : Sfu) (x : Ex) : Ex × Flags :=
  match x with
  | .nan sg => (.nan false, flagIf sg fNV)
  | .inf n =>
    match f with
    | .exp => (if n then .zero else .inf false, 0)
    | .log => if n then (.nan false, fNV) else (.inf false, 0)
    | .rcp => (.fin n 0 0, 0)
    | .rsqrt => if n then (.nan false, fNV) else (.zero, 0)
    | .sqrt => Ex.sqrt x
    | .tanh => (.fin n 1 0, 0)
    | .sigm => (if n then .zero else exOne, 0)
    | .sin | .cos => (.nan false, fNV)
  | .fin n 0 _ =>
    match f with
    | .exp | .cos => (exOne, 0)
    | .log => (.inf true, fDZ)
    | .rcp | .rsqrt => (.inf n, fDZ)
    | .sqrt | .tanh | .sin => (.fin n 0 0, 0)
    | .sigm => (.fin false 1 (-1), 0)
  | .fin n (m + 1) e =>
    match f with
    | .exp => (expEx n (m + 1) e, 0)
    | .log => if n then (.nan false, fNV) else if Ex.eqv x exOne then (.zero, 0) else (logEx (m + 1) e, 0)
    | .rcp => Ex.div exOne x
    | .rsqrt => if n then (.nan false, fNV) else (rsqrtEx (m + 1) e, 0)
    | .sqrt => Ex.sqrt x
    | .tanh => (tanhEx n (m + 1) e, 0)
    | .sigm => (sigmEx n (m + 1) e, 0)
    | .sin => (sinCosEx 0 n (m + 1) e, 0)
    | .cos => (sinCosEx 1 n (m + 1) e, 0)

/-- A special function on an encoded operand, rounded to nearest even. -/
def sfuBits (f : Sfu) (F : Fmt) (a : Nat) : Nat × Flags :=
  let (x, g) := f.eval (Ex.ofBits F a)
  let (r, h) := roundEx F .rne x
  (r, g ||| h)

end Sys2Proof.Machine
end

