-- ==== Sys2Proof/Machine/Vector.lean ====
section
/-! DEFINITION. The V map: integer and floating-point lanes, masks, conversion, block quantisation, special functions,
permutes, reductions, scan and digest (spec 06 R126-R131, 07 R152-R173). -/

namespace Sys2Proof.Machine

/-! ### Lane plumbing -/

/-- Results of active lanes from one operand. -/
def lanes1 (m : BitVec 128) (f : Half → Half) (xs : List Half) : List (Nat × Half) :=
  ((List.range 128).zip xs).filterMap fun (l, x) => if m.getLsbD l then some (l, f x) else none

/-- Results of active lanes from two operands. -/
def lanes2 (m : BitVec 128) (f : Half → Half → Half) (xs ys : List Half) : List (Nat × Half) :=
  ((List.range 128).zip (xs.zip ys)).filterMap fun (l, x, y) => if m.getLsbD l then some (l, f x y) else none

/-- Results with flags of active lanes, the lane number given (R128, R54). -/
def lanesF (m : BitVec 128) (f : Nat → Half → Half → Half → Nat × Flags) (xs ys zs : List Half) :
    List (Nat × Half) × Flags :=
  let r := ((List.range 128).zip (xs.zip (ys.zip zs))).filterMap fun (l, x, y, z) =>
    if m.getLsbD l then some (l, f l x y z) else none
  (r.map fun (l, v) => (l, BitVec.ofNat 32 v.1), orFlags (r.map fun (_, v) => v.2))

/-- Bits of lanes that satisfy a condition, as a mask register. -/
def maskOf (m : BitVec 128) (ls : List (Nat × Bool)) : BitVec 128 :=
  State.laneMask ((ls.filter fun (l, b) => b && m.getLsbD l).map (·.1))

namespace State

/-- A V-slot integer operation on two vectors; of its sources the active lanes are consumed (R154, R382, log entry 34). -/
def vop2 (s : State) (g : BitVec 4) (d a b : BitVec 6) (m : BitVec 3) (n : Nat) (f : Half → Half → Half) : State :=
  s.guarded g (s.useM m.toNat fun k => s.useV a k fun xs => s.useV b k fun ys => s.landV d (lanes2 k f xs ys) n)

/-- A V-slot operation on one vector. -/
def vop1 (s : State) (g : BitVec 4) (d a : BitVec 6) (m : BitVec 3) (n : Nat) (f : Half → Half) : State :=
  s.guarded g (s.useM m.toNat fun k => s.useV a k fun xs => s.landV d (lanes1 k f xs) n)

/-- A V-slot operation on one vector with flags; `f` sees the lane number. -/
def vfl1 (s : State) (g : BitVec 4) (d a : BitVec 6) (m : BitVec 3) (n : Nat) (f : Nat → Half → Nat × Flags) : State :=
  s.guarded g (s.useM m.toNat fun k => s.useV a k fun xs =>
    let r := lanesF k (fun l x _ _ => f l x) xs xs xs
    (s.landV d r.1 n).landFlags r.2 n)

/-- A V-slot operation on two vectors with flags. -/
def vfl2 (s : State) (g : BitVec 4) (d a b : BitVec 6) (m : BitVec 3) (n : Nat) (f : Half → Half → Nat × Flags) :
    State :=
  s.guarded g (s.useM m.toNat fun k => s.useV a k fun xs => s.useV b k fun ys =>
    let r := lanesF k (fun _ x y _ => f x y) xs ys ys
    (s.landV d r.1 n).landFlags r.2 n)

/-- A V-slot fused multiply-add; vd is a source, tested for poison after va and vb (R159, log entry 34). -/
def vfl3 (s : State) (F : Fmt) (g : BitVec 4) (d a b : BitVec 6) (m : BitVec 3) (mode : Rnd) : State :=
  s.guarded g (s.useM m.toNat fun k => s.useV a k fun xs => s.useV b k fun ys => s.useV d k fun zs =>
    let r := lanesF k (fun l x y z => fpFma F mode (s.rbits l) (fpLane F x) (fpLane F y) (fpLane F z)) xs ys zs
    ((s.landV d r.1 Lat.vfp).landFlags r.2 Lat.vfp).drewIf mode)

/-- Rounded arithmetic on two vectors, to nearest even (R159). -/
def vfp2 (s : State) (F : Fmt) (g : BitVec 4) (d a b : BitVec 6) (m : BitVec 3)
    (op : Fmt → Rnd → Nat → Nat → Nat → Nat × Flags) : State :=
  s.vfl2 g d a b m Lat.vfp fun x y => op F .rne 0 (fpLane F x) (fpLane F y)

/-- A compare of two vectors into a mask register (R157). -/
def vcmp (s : State) (g : BitVec 4) (d : BitVec 3) (a b : BitVec 6) (m : BitVec 3) (f : Half → Half → Bool) : State :=
  s.guarded g (s.useM m.toNat fun k => s.useV a k fun xs => s.useV b k fun ys =>
    s.landM d.toNat (maskOf k ((List.range 128).zip (List.zipWith f xs ys))) Lat.vint)

/-- A floating-point compare into a mask register, NV by active lanes (R157). -/
def vfcmp (s : State) (g : BitVec 4) (f : BitVec 1) (d : BitVec 3) (a b : BitVec 6) (m : BitVec 3) (cc : Nat) : State :=
  let F := fmtBit f
  s.guarded g (s.useM m.toNat fun k => s.useV a k fun xs => s.useV b k fun ys =>
    let r := List.zipWith (fun x y => fpCmp cc (Ex.ofBits F (fpLane F x)) (Ex.ofBits F (fpLane F y))) xs ys
    let ls := (List.range 128).zip r
    (s.landM d.toNat (maskOf k (ls.map fun (l, v) => (l, v.1))) Lat.vfp).landFlags
      (orFlags ((ls.filter fun (l, _) => k.getLsbD l).map fun (_, v) => v.2)) Lat.vfp)

/-- A mask operation (R158). -/
def mop2 (s : State) (g : BitVec 4) (d a b : BitVec 6) (f : BitVec 128 → BitVec 128 → BitVec 128) : State :=
  s.guarded g (s.useM a.toNat fun x => s.useM b.toNat fun y => s.landM d.toNat (f x y) Lat.vint)

/-- The validity mask register of a permute: m6 from V0, m7 from V1 (R153). -/
def validReg (s : State) : Nat := if s.cur.slot = 1 then 6 else 7

/-- Land a permute's vector and its validity mask together (R131, R153). -/
def landPerm (s : State) (d : BitVec 6) (vals : List (Nat × Half)) (valid : List Nat) (n : Nat) : State :=
  (s.landV d vals n).landM s.validReg (laneMask valid) n

/-- A permute whose destination lane L takes source lane `src L` (R131): the lane's own value, invalid, where the
source is masked off or absent. -/
def permute (s : State) (d : BitVec 6) (k : BitVec 128) (xs : List Half) (n : Nat) (src : Nat → Option Nat) : State :=
  let act := (List.range 128).filter fun l => k.getLsbD l
  let pick := act.map fun l => (l, (src l).filter fun j => k.getLsbD j)
  s.landPerm d (pick.map fun (l, j) => (l, xs.getD (j.getD l) 0)) ((pick.filter fun (_, j) => j.isSome).map (·.1)) n

/-- A permute of one vector by a fixed source rule. -/
def perm1 (s : State) (g : BitVec 4) (d a : BitVec 6) (m : BitVec 3) (n : Nat) (src : Nat → Option Nat) : State :=
  s.guarded g (s.useM m.toNat fun k => s.useV a k fun xs => s.permute d k xs n src)

/-- Pack the chosen lanes of each cluster at its low end; the other lanes land their own value, invalid (R167). -/
def pack (s : State) (d : BitVec 6) (xs : List Half) (chosen : Nat → Bool) (n : Nat) : State :=
  let rows := (List.range 8).flatMap fun c =>
    let sel := (List.range 16).filter fun i => chosen (16 * c + i)
    (List.range 16).map fun i =>
      match sel[i]? with
      | some j => (16 * c + i, xs.getD (16 * c + j) 0, true)
      | none => (16 * c + i, xs.getD (16 * c + i) 0, false)
  s.landPerm d (rows.map fun (l, v, _) => (l, v)) ((rows.filter fun (_, _, b) => b).map (·.1)) n

end State

/-! ### Lane functions -/

def h32 (i : Int) : Half := BitVec.ofInt 32 i

/-- Both 16-bit elements of a lane through an operation (R155). -/
def halves (f : Int → Int → Int) (x y : Half) : Half :=
  let e (lo : Nat) : BitVec 16 := BitVec.ofInt 16 (f (x.extractLsb' lo 16).toInt (y.extractLsb' lo 16).toInt)
  e 16 ++ e 0

def satI32 (v : Int) : Half := h32 (clampI v (-2147483648) 2147483647)
def satN32 (v : Int) : Half := h32 (clampI v 0 4294967295)
def satI16 (v : Int) : Int := clampI v (-32768) 32767

/-! ### Integer operations (R154, R155) -/

def execVadd (g : BitVec 4) (d a b : BitVec 6) (m : BitVec 3) (s : State) : Res1 :=
  .next (s.vop2 g d a b m Lat.vint (· + ·))

def execVsub (g : BitVec 4) (d a b : BitVec 6) (m : BitVec 3) (s : State) : Res1 :=
  .next (s.vop2 g d a b m Lat.vint (· - ·))

def execVmul (g : BitVec 4) (d a b : BitVec 6) (m : BitVec 3) (s : State) : Res1 :=
  .next (s.vop2 g d a b m Lat.vint (· * ·))

def execVmulh (g : BitVec 4) (d a b : BitVec 6) (m : BitVec 3) (s : State) : Res1 :=
  .next (s.vop2 g d a b m Lat.vint fun x y => h32 (x.toInt * y.toInt / 2 ^ 32))

def execVmulhn (g : BitVec 4) (d a b : BitVec 6) (m : BitVec 3) (s : State) : Res1 :=
  .next (s.vop2 g d a b m Lat.vint fun x y => BitVec.ofNat 32 (x.toNat * y.toNat / 2 ^ 32))

def execVmin (g : BitVec 4) (d a b : BitVec 6) (m : BitVec 3) (s : State) : Res1 :=
  .next (s.vop2 g d a b m Lat.vint fun x y => if y.toInt < x.toInt then y else x)

def execVmax (g : BitVec 4) (d a b : BitVec 6) (m : BitVec 3) (s : State) : Res1 :=
  .next (s.vop2 g d a b m Lat.vint fun x y => if x.toInt < y.toInt then y else x)

def execVminn (g : BitVec 4) (d a b : BitVec 6) (m : BitVec 3) (s : State) : Res1 :=
  .next (s.vop2 g d a b m Lat.vint fun x y => if y.toNat < x.toNat then y else x)

def execVmaxn (g : BitVec 4) (d a b : BitVec 6) (m : BitVec 3) (s : State) : Res1 :=
  .next (s.vop2 g d a b m Lat.vint fun x y => if x.toNat < y.toNat then y else x)

def execVand (g : BitVec 4) (d a b : BitVec 6) (m : BitVec 3) (s : State) : Res1 :=
  .next (s.vop2 g d a b m Lat.vint (· &&& ·))

def execVor (g : BitVec 4) (d a b : BitVec 6) (m : BitVec 3) (s : State) : Res1 :=
  .next (s.vop2 g d a b m Lat.vint (· ||| ·))

def execVxor (g : BitVec 4) (d a b : BitVec 6) (m : BitVec 3) (s : State) : Res1 :=
  .next (s.vop2 g d a b m Lat.vint (· ^^^ ·))

def execVandn (g : BitVec 4) (d a b : BitVec 6) (m : BitVec 3) (s : State) : Res1 :=
  .next (s.vop2 g d a b m Lat.vint fun x y => x &&& ~~~y)

def execVshl (g : BitVec 4) (d a b : BitVec 6) (m : BitVec 3) (s : State) : Res1 :=
  .next (s.vop2 g d a b m Lat.vint fun x y => x <<< (y.toNat % 32))

def execVshr (g : BitVec 4) (d a b : BitVec 6) (m : BitVec 3) (s : State) : Res1 :=
  .next (s.vop2 g d a b m Lat.vint fun x y => x >>> (y.toNat % 32))

def execVsar (g : BitVec 4) (d a b : BitVec 6) (m : BitVec 3) (s : State) : Res1 :=
  .next (s.vop2 g d a b m Lat.vint fun x y => x.sshiftRight (y.toNat % 32))

def execVadds (g : BitVec 4) (d a b : BitVec 6) (m : BitVec 3) (s : State) : Res1 :=
  .next (s.vop2 g d a b m Lat.vint fun x y => satI32 (x.toInt + y.toInt))

def execVaddsn (g : BitVec 4) (d a b : BitVec 6) (m : BitVec 3) (s : State) : Res1 :=
  .next (s.vop2 g d a b m Lat.vint fun x y => satN32 ((x.toNat : Int) + y.toNat))

def execVsubs (g : BitVec 4) (d a b : BitVec 6) (m : BitVec 3) (s : State) : Res1 :=
  .next (s.vop2 g d a b m Lat.vint fun x y => satI32 (x.toInt - y.toInt))

def execVsubsn (g : BitVec 4) (d a b : BitVec 6) (m : BitVec 3) (s : State) : Res1 :=
  .next (s.vop2 g d a b m Lat.vint fun x y => satN32 ((x.toNat : Int) - y.toNat))

def execVadd16 (g : BitVec 4) (d a b : BitVec 6) (m : BitVec 3) (s : State) : Res1 :=
  .next (s.vop2 g d a b m Lat.vint (halves (· + ·)))

def execVsub16 (g : BitVec 4) (d a b : BitVec 6) (m : BitVec 3) (s : State) : Res1 :=
  .next (s.vop2 g d a b m Lat.vint (halves (· - ·)))

def execVadds16 (g : BitVec 4) (d a b : BitVec 6) (m : BitVec 3) (s : State) : Res1 :=
  .next (s.vop2 g d a b m Lat.vint (halves fun x y => satI16 (x + y)))

def execVsubs16 (g : BitVec 4) (d a b : BitVec 6) (m : BitVec 3) (s : State) : Res1 :=
  .next (s.vop2 g d a b m Lat.vint (halves fun x y => satI16 (x - y)))

/-- Two-element dot product into one lane (R155). -/
def execVmul16 (g : BitVec 4) (d a b : BitVec 6) (m : BitVec 3) (s : State) : Res1 :=
  .next (s.vop2 g d a b m Lat.vint fun x y =>
    let e (v : Half) (lo : Nat) : Int := (v.extractLsb' lo 16).toInt
    h32 (e x 0 * e y 0 + e x 16 * e y 16))

/-! ### Unary, select and move operations (R156) -/

/-- Absolute value or negation of a lane by kind (R156). -/
def absNeg (neg : Bool) (kind : Nat) (x : Half) : Nat × Flags :=
  let v : Int := if neg then -x.toInt else x.toInt.natAbs
  match kind with
  | 0 => ((h32 v).toNat, 0)
  | 1 => ((satI32 v).toNat, 0)
  | _ =>
    let F : Fmt := if kind = 2 then .fp32 else .bf16
    let b := fpLane F x
    let e := Ex.ofBits F b
    if e.isNan then (nanBits F, flagIf e.isSig fNV)
    else (b % 2 ^ (F.p + 7) + (if neg && !e.sign then 2 ^ (F.p + 7) else 0), 0)

/-- Latency of `vabs` and `vneg` by kind (R156). -/
def absLat (kind : Nat) : Nat := if kind < 2 then Lat.vint else Lat.vfp

def execVabs (g : BitVec 4) (d a k : BitVec 6) (m : BitVec 3) (s : State) : Res1 :=
  .next (s.vfl1 g d a m (absLat k.toNat) fun _ x => absNeg false k.toNat x)

def execVneg (g : BitVec 4) (d a k : BitVec 6) (m : BitVec 3) (s : State) : Res1 :=
  .next (s.vfl1 g d a m (absLat k.toNat) fun _ x => absNeg true k.toNat x)

/-- `vsel` lands all 128 lanes; its mask selects between the sources (R156). -/
def execVsel (g : BitVec 4) (d a b : BitVec 6) (m : BitVec 3) (s : State) : Res1 :=
  .next (s.guarded g (s.useM m.toNat fun k => s.useV a k fun xs => s.useV b (~~~k) fun ys =>
    s.landV d (((List.range 128).zip (xs.zip ys)).map fun (l, x, y) => (l, if k.getLsbD l then x else y)) Lat.vint))

def execVmov (g : BitVec 4) (d a : BitVec 6) (m : BitVec 3) (s : State) : Res1 :=
  .next (s.vop1 g d a m Lat.vint id)

/-- One value in every active lane. -/
def State.splat (s : State) (d : BitVec 6) (k : BitVec 128) (v : Half) : State :=
  s.landV d (lanes1 k (fun _ => v) (List.replicate 128 0)) Lat.vint

def execVmovScalar (g : BitVec 4) (d a : BitVec 6) (m : BitVec 3) (s : State) : Res1 :=
  .next (s.guarded g (s.useM m.toNat fun k => s.useG a fun x => s.splat d k (x.setWidth 32)))

def execVmovi (g : BitVec 4) (d : BitVec 6) (i : Imm 12) (m : BitVec 3) (s : State) : Res1 :=
  .next (s.guarded g (s.useM m.toNat fun k => s.splat d k ((immS i).setWidth 32)))

def execVshli (g : BitVec 4) (d a : BitVec 6) (n : BitVec 5) (m : BitVec 3) (s : State) : Res1 :=
  .next (s.vop1 g d a m Lat.vint fun x => x <<< n.toNat)

def execVsari (g : BitVec 4) (d a : BitVec 6) (n : BitVec 5) (m : BitVec 3) (s : State) : Res1 :=
  .next (s.vop1 g d a m Lat.vint fun x => x.sshiftRight n.toNat)

/-! ### Compares and masks (R157, R158) -/

def execVcmpeq (g : BitVec 4) (d : BitVec 3) (a b : BitVec 6) (m : BitVec 3) (s : State) : Res1 :=
  .next (s.vcmp g d a b m fun x y => x == y)

def execVcmpne (g : BitVec 4) (d : BitVec 3) (a b : BitVec 6) (m : BitVec 3) (s : State) : Res1 :=
  .next (s.vcmp g d a b m fun x y => x != y)

def execVcmplt (g : BitVec 4) (d : BitVec 3) (a b : BitVec 6) (m : BitVec 3) (s : State) : Res1 :=
  .next (s.vcmp g d a b m fun x y => decide (x.toInt < y.toInt))

def execVcmple (g : BitVec 4) (d : BitVec 3) (a b : BitVec 6) (m : BitVec 3) (s : State) : Res1 :=
  .next (s.vcmp g d a b m fun x y => decide (x.toInt ≤ y.toInt))

def execVcmpltn (g : BitVec 4) (d : BitVec 3) (a b : BitVec 6) (m : BitVec 3) (s : State) : Res1 :=
  .next (s.vcmp g d a b m fun x y => decide (x.toNat < y.toNat))

def execVcmplen (g : BitVec 4) (d : BitVec 3) (a b : BitVec 6) (m : BitVec 3) (s : State) : Res1 :=
  .next (s.vcmp g d a b m fun x y => decide (x.toNat ≤ y.toNat))

def execVfcmpeq (g : BitVec 4) (f : BitVec 1) (d : BitVec 3) (a b : BitVec 6) (m : BitVec 3) (s : State) : Res1 :=
  .next (s.vfcmp g f d a b m 0)

def execVfcmplt (g : BitVec 4) (f : BitVec 1) (d : BitVec 3) (a b : BitVec 6) (m : BitVec 3) (s : State) : Res1 :=
  .next (s.vfcmp g f d a b m 2)

def execVfcmple (g : BitVec 4) (f : BitVec 1) (d : BitVec 3) (a b : BitVec 6) (m : BitVec 3) (s : State) : Res1 :=
  .next (s.vfcmp g f d a b m 3)

def execMand (g : BitVec 4) (d a b : BitVec 6) (s : State) : Res1 := .next (s.mop2 g d a b (· &&& ·))

def execMor (g : BitVec 4) (d a b : BitVec 6) (s : State) : Res1 := .next (s.mop2 g d a b (· ||| ·))

def execMxor (g : BitVec 4) (d a b : BitVec 6) (s : State) : Res1 := .next (s.mop2 g d a b (· ^^^ ·))

def execMandn (g : BitVec 4) (d a b : BitVec 6) (s : State) : Res1 := .next (s.mop2 g d a b fun x y => x &&& ~~~y)

/-- Number of 1 bits of a mask. -/
def maskPop (k : BitVec 128) : Nat := ((List.range 128).filter fun l => k.getLsbD l).length

def execMpop (g : BitVec 4) (d a : BitVec 6) (m : BitVec 3) (s : State) : Res1 :=
  .next (s.guarded g (s.useM a.toNat fun x => s.useM m.toNat fun k =>
    s.landG d (Word.ofNat (maskPop (x &&& k))) Lat.vint))

def execMset (g : BitVec 4) (d a b : BitVec 6) (s : State) : Res1 :=
  .next (s.guarded g (s.useG a fun x => s.useG b fun y => s.landM d.toNat (y ++ x) Lat.vint))

/-- Bits ga to gb - 1 (R158). -/
def execMsetRange (g : BitVec 4) (d a b : BitVec 6) (s : State) : Res1 :=
  .next (s.guarded g (s.useG a fun x => s.useG b fun y =>
    s.landM d.toNat (State.laneMask ((List.range 128).filter fun l => x.toNat ≤ l && l < y.toNat)) Lat.vint))

def execMsetPat (g : BitVec 4) (d : BitVec 6) (x : Half) (s : State) : Res1 :=
  .next (s.guarded g (s.landM d.toNat (x ++ x ++ x ++ x) Lat.vint))

/-! ### Floating-point arithmetic and conversion (R159, R160) -/

def execVfadd (g : BitVec 4) (d a b : BitVec 6) (m : BitVec 3) (s : State) : Res1 :=
  .next (s.vfp2 .fp32 g d a b m fpAdd)

def execVfsub (g : BitVec 4) (d a b : BitVec 6) (m : BitVec 3) (s : State) : Res1 :=
  .next (s.vfp2 .fp32 g d a b m fpSub)

def execVfmul (g : BitVec 4) (d a b : BitVec 6) (m : BitVec 3) (s : State) : Res1 :=
  .next (s.vfp2 .fp32 g d a b m fpMul)

def execVbadd (g : BitVec 4) (d a b : BitVec 6) (m : BitVec 3) (s : State) : Res1 :=
  .next (s.vfp2 .bf16 g d a b m fpAdd)

def execVbsub (g : BitVec 4) (d a b : BitVec 6) (m : BitVec 3) (s : State) : Res1 :=
  .next (s.vfp2 .bf16 g d a b m fpSub)

def execVbmul (g : BitVec 4) (d a b : BitVec 6) (m : BitVec 3) (s : State) : Res1 :=
  .next (s.vfp2 .bf16 g d a b m fpMul)

def execVfma (g : BitVec 4) (d a b : BitVec 6) (m : BitVec 3) (s : State) : Res1 :=
  .next (s.vfl3 .fp32 g d a b m .rne)

def execVbfma (g : BitVec 4) (d a b : BitVec 6) (m : BitVec 3) (s : State) : Res1 :=
  .next (s.vfl3 .bf16 g d a b m .rne)

def execVbfmaRs (g : BitVec 4) (d a b : BitVec 6) (m : BitVec 3) (s : State) : Res1 :=
  .next (s.vfl3 .bf16 g d a b m .rs)

def execVfmin (g : BitVec 4) (d a b : BitVec 6) (m : BitVec 3) (s : State) : Res1 :=
  .next (s.vfl2 g d a b m Lat.vfp fun x y => fpMinMax false .fp32 x.toNat y.toNat)

def execVfmax (g : BitVec 4) (d a b : BitVec 6) (m : BitVec 3) (s : State) : Res1 :=
  .next (s.vfl2 g d a b m Lat.vfp fun x y => fpMinMax true .fp32 x.toNat y.toNat)

/-- The conversions of `vcvt` by kind (R160). -/
def vcvtLane (kind : Nat) (mode : Rnd) (rb : Nat) (x : Half) : Nat × Flags :=
  let toInt (code : Nat) (F : Fmt) : Nat × Flags :=
    let r := intOfEx code mode (Ex.ofBits F (fpLane F x))
    ((h32 r.1).toNat, r.2)
  match kind with
  | 0 => bf16OfFp32 mode rb x.toNat
  | 1 => fp32OfBf16 (fpLane .bf16 x)
  | 2 => toInt 2 .fp32
  | 3 => toInt 6 .fp32
  | 4 => floatOfInt .fp32 mode rb x.toInt
  | 5 => floatOfInt .fp32 mode rb x.toNat
  | 6 => floatOfInt .bf16 mode rb x.toInt
  | _ => toInt 2 .bf16

def execVcvt (g : BitVec 4) (d a : BitVec 6) (k r m : BitVec 3) (s : State) : Res1 :=
  let mode := Rnd.ofCode r.toNat
  .next (s.guarded g (s.useM m.toNat fun q => s.useV a q fun xs =>
    let v := lanesF q (fun l x _ _ => vcvtLane k.toNat mode (s.rbits l) x) xs xs xs
    ((s.landV d v.1 Lat.conv).landFlags v.2 Lat.conv).drewIf mode))

/-! ### Block quantisation (R162, R163) -/

/-- The lanes of a mask's enabled clusters: bit 16c enables cluster c (R162). -/
def clusterMask (k : BitVec 128) : BitVec 128 :=
  State.laneMask ((List.range 128).filter fun l => k.getLsbD (l / 16 * 16))

/-- Quantise one block per enabled cluster from a register pair (R162). -/
def State.quantise (s : State) (g : BitVec 4) (d a : BitVec 6) (F : Fmt) (m : BitVec 3) (q : List Ex → Quant) : State :=
  s.guarded g (s.useM m.toNat fun k => s.useV a (clusterMask k) fun xs => s.useV (a + 1) (clusterMask k) fun ys =>
    let cl := (List.range 8).filter fun c => k.getLsbD (16 * c)
    let rs := cl.map fun c =>
      (c, q (((xs.drop (16 * c)).take 16 ++ (ys.drop (16 * c)).take 16).map fun x => Ex.ofBits F (fpLane F x)))
    (s.landV d (rs.flatMap fun (c, r) => (List.range' (16 * c) 16).zip r.lanes) Lat.conv).landFlags
      (orFlags (rs.map fun (_, r) => r.flags)) Lat.conv)

def execVqdxb (g : BitVec 4) (d a : BitVec 6) (f : BitVec 1) (z : BitVec 5) (m : BitVec 3) (s : State) : Res1 :=
  .next (s.quantise g d a (fmtBit f) m fun v => dxb8Quantise v (dxbDist z.toNat))

def execVqmx (g : BitVec 4) (d a : BitVec 6) (f t : BitVec 1) (m : BitVec 3) (s : State) : Res1 :=
  .next (s.quantise g d a (fmtBit f) m fun v => mx8Quantise v (t = 1))

/-- The lanes a dequantising read consumes: payload and scale lanes of each cluster with an active lane (R163). -/
def blockLanes (k : BitVec 128) : BitVec 128 :=
  State.laneMask ((List.range 128).filter fun l => l % 16 ≤ 8 && (List.range 16).any fun i => k.getLsbD (l / 16 * 16 + i))

/-- Dequantise half a block per cluster (R163). -/
def State.dequantise (s : State) (g : BitVec 4) (d a : BitVec 6) (F : Fmt) (h : BitVec 1) (m : BitVec 3)
    (val : Nat → Nat → Nat → Ex) : State :=
  s.guarded g (s.useM m.toNat fun k => s.useV a (blockLanes k) fun xs =>
    let r := lanesF k (fun l _ _ _ =>
      let blk := (xs.drop (l / 16 * 16)).take 16
      roundEx F .rne (val (packedByte blk (16 * h.toNat + l % 16)) (packedHi blk) (packedLo blk))) xs xs xs
    (s.landV d r.1 Lat.conv).landFlags r.2 Lat.conv)

def execVdqdxb (g : BitVec 4) (d a : BitVec 6) (f h : BitVec 1) (m : BitVec 3) (s : State) : Res1 :=
  .next (s.dequantise g d a (fmtBit f) h m dxb8Value)

def execVdqmx (g : BitVec 4) (d a : BitVec 6) (t f h : BitVec 1) (m : BitVec 3) (s : State) : Res1 :=
  .next (s.dequantise g d a (fmtBit f) h m fun b sb _ => mx8Value (t = 1) b sb)

/-! ### Special functions (R164) -/

/-- A special function on the active lanes (R164). -/
def State.sfu (s : State) (f : Sfu) (g : BitVec 4) (d a : BitVec 6) (F : BitVec 1) (m : BitVec 3) : State :=
  s.vfl1 g d a m Lat.sfu fun _ x => sfuBits f (fmtBit F) (fpLane (fmtBit F) x)

def execVexp (g : BitVec 4) (d a : BitVec 6) (f : BitVec 1) (m : BitVec 3) (s : State) : Res1 :=
  .next (s.sfu .exp g d a f m)

def execVlog (g : BitVec 4) (d a : BitVec 6) (f : BitVec 1) (m : BitVec 3) (s : State) : Res1 :=
  .next (s.sfu .log g d a f m)

def execVrcp (g : BitVec 4) (d a : BitVec 6) (f : BitVec 1) (m : BitVec 3) (s : State) : Res1 :=
  .next (s.sfu .rcp g d a f m)

def execVrsqrt (g : BitVec 4) (d a : BitVec 6) (f : BitVec 1) (m : BitVec 3) (s : State) : Res1 :=
  .next (s.sfu .rsqrt g d a f m)

def execVsqrt (g : BitVec 4) (d a : BitVec 6) (f : BitVec 1) (m : BitVec 3) (s : State) : Res1 :=
  .next (s.sfu .sqrt g d a f m)

def execVtanh (g : BitVec 4) (d a : BitVec 6) (f : BitVec 1) (m : BitVec 3) (s : State) : Res1 :=
  .next (s.sfu .tanh g d a f m)

def execVsigm (g : BitVec 4) (d a : BitVec 6) (f : BitVec 1) (m : BitVec 3) (s : State) : Res1 :=
  .next (s.sfu .sigm g d a f m)

def execVsin (g : BitVec 4) (d a : BitVec 6) (f : BitVec 1) (m : BitVec 3) (s : State) : Res1 :=
  .next (s.sfu .sin g d a f m)

def execVcos (g : BitVec 4) (d a : BitVec 6) (f : BitVec 1) (m : BitVec 3) (s : State) : Res1 :=
  .next (s.sfu .cos g d a f m)

def execVfdiv (g : BitVec 4) (d a b : BitVec 6) (m : BitVec 3) (s : State) : Res1 :=
  .next (s.vfl2 g d a b m Lat.sfu fun x y => fpDiv .fp32 .rne 0 x.toNat y.toNat)

/-! ### Permutes and cross-cluster moves (R165-R169) -/

/-- `vperm`: the index lane is read for every active lane (R166). -/
def execVperm (g : BitVec 4) (d a b : BitVec 6) (m : BitVec 3) (s : State) : Res1 :=
  .next (s.guarded g (s.useM m.toNat fun k => s.useV a k fun xs => s.useV b k fun ys =>
    s.permute d k xs Lat.perm fun l =>
      let i := (ys.getD l 0).toNat
      if i < 16 then some (l / 16 * 16 + i) else none))

def execVslideup (g : BitVec 4) (d a : BitVec 6) (k : BitVec 4) (m : BitVec 3) (s : State) : Res1 :=
  .next (s.perm1 g d a m Lat.perm fun l => if k.toNat ≤ l % 16 then some (l - k.toNat) else none)

def execVslidedn (g : BitVec 4) (d a : BitVec 6) (k : BitVec 4) (m : BitVec 3) (s : State) : Res1 :=
  .next (s.perm1 g d a m Lat.perm fun l => if l % 16 + k.toNat ≤ 15 then some (l + k.toNat) else none)

/-- `vcompress`: every destination lane lands, so every lane of va is read (R165, R167). -/
def execVcompress (g : BitVec 4) (d a : BitVec 6) (m : BitVec 3) (s : State) : Res1 :=
  .next (s.guarded g (s.useM m.toNat fun k => s.useV a (BitVec.allOnes 128) fun xs =>
    s.pack d xs (fun l => k.getLsbD l) Lat.perm))

/-- Number of active lanes of L's cluster below L. -/
def rankIn (k : BitVec 128) (l : Nat) : Nat :=
  ((List.range (l % 16)).filter fun i => k.getLsbD (l / 16 * 16 + i)).length

/-- `vexpand`: active lanes take successive source lanes, whatever their mask bits (R165, R167). All
128 lanes of va are consumed (log entry 34). -/
def execVexpand (g : BitVec 4) (d a : BitVec 6) (m : BitVec 3) (s : State) : Res1 :=
  .next (s.guarded g (s.useM m.toNat fun k => s.useV a (BitVec.allOnes 128) fun xs =>
    let act := (List.range 128).filter fun l => k.getLsbD l
    s.landPerm d (act.map fun l => (l, xs.getD (l / 16 * 16 + rankIn k l) 0)) act Lat.perm))

/-- `visect`: members are active lanes of va whose value some active lane of vb holds (R168). -/
def execVisect (g : BitVec 4) (d a b : BitVec 6) (m : BitVec 3) (s : State) : Res1 :=
  .next (s.guarded g (s.useM m.toNat fun k => s.useV a (BitVec.allOnes 128) fun xs => s.useV b k fun ys =>
    s.pack d xs (fun l => k.getLsbD l && (List.range 16).any fun i =>
      k.getLsbD (l / 16 * 16 + i) && ys.getD (l / 16 * 16 + i) 0 == xs.getD l 0) Lat.isect))

def execVxshl (g : BitVec 4) (d a : BitVec 6) (k m : BitVec 3) (s : State) : Res1 :=
  .next (s.perm1 g d a m Lat.cross fun l => if 16 * k.toNat ≤ l then some (l - 16 * k.toNat) else none)

def execVxshr (g : BitVec 4) (d a : BitVec 6) (k m : BitVec 3) (s : State) : Res1 :=
  .next (s.perm1 g d a m Lat.cross fun l => if l + 16 * k.toNat ≤ 127 then some (l + 16 * k.toNat) else none)

def execVxrotl (g : BitVec 4) (d a : BitVec 6) (k m : BitVec 3) (s : State) : Res1 :=
  .next (s.perm1 g d a m Lat.cross fun l => some ((l + 128 - 16 * k.toNat) % 128))

def execVxrotr (g : BitVec 4) (d a : BitVec 6) (k m : BitVec 3) (s : State) : Res1 :=
  .next (s.perm1 g d a m Lat.cross fun l => some ((l + 16 * k.toNat) % 128))

def execVxbcast (g : BitVec 4) (d a : BitVec 6) (k m : BitVec 3) (s : State) : Res1 :=
  .next (s.perm1 g d a m Lat.cross fun l => some (16 * k.toNat + l % 16))

/-! ### Reductions, scan and digest (R67, R170-R172) -/

/-- vred_sum of R67 over 128 values, rounded once to the destination. -/
def vredSum (F : Fmt) (k : BitVec 128) (xs : List Half) : Nat × Flags :=
  let ws := ((List.range 128).zip xs).map fun (l, x) => if k.getLsbD l then Ex.ofBits F (fpLane F x) else Ex.zero
  let (t, f) := treeLevels nodeAdd 7 ws
  let (r, g) := roundEx F .rne (exHead t)
  (r, f ||| g)

def execVredsum (g : BitVec 4) (d a : BitVec 6) (f : BitVec 1) (m : BitVec 3) (s : State) : Res1 :=
  .next (s.guarded g (s.useM m.toNat fun k => s.useV a k fun xs => s.landFp d (vredSum (fmtBit f) k xs) Lat.red))

/-- Pairwise tree of encoded minima or maxima. -/
def mmTree (isMax : Bool) (F : Fmt) : Nat → List Nat → Nat × Flags
  | 0, xs => (xs.headD 0, 0)
  | n + 1, xs =>
    let pair : List Nat → List (Nat × Flags) := fun l =>
      ((List.range (l.length / 2)).map fun i => fpMinMax isMax F (l.getD (2 * i) 0) (l.getD (2 * i + 1) 0))
    let ys := pair xs
    let (r, f) := mmTree isMax F n (ys.map (·.1))
    (r, orFlags (ys.map (·.2)) ||| f)

/-- Minimum or maximum of the active lanes, the operation's identity elsewhere (R170). -/
def vredMm (isMax : Bool) (t : Nat) (k : BitVec 128) (xs : List Half) : Word × Flags :=
  let act := ((List.range 128).zip xs).filter fun (l, _) => k.getLsbD l
  let ints (f : Half → Int) (id : Int) : Word :=
    Word.ofInt (act.foldl (fun acc (_, x) => if isMax then max acc (f x) else min acc (f x)) id)
  match t with
  | 2 => (ints (fun x => x.toInt) (if isMax then -2147483648 else 2147483647), 0)
  | 3 => (ints (fun x => x.toNat) (if isMax then 0 else 4294967295), 0)
  | _ =>
    let F : Fmt := if t = 0 then .fp32 else .bf16
    let ws := ((List.range 128).zip xs).map fun (l, x) => if k.getLsbD l then fpLane F x else infBits F isMax
    let (r, f) := mmTree isMax F 7 ws
    (Word.ofNat r, f)

/-- Shared form of `vredmin` and `vredmax`. -/
def State.redMm (s : State) (isMax : Bool) (g : BitVec 4) (d a : BitVec 6) (t : BitVec 2) (m : BitVec 3) : State :=
  s.guarded g (s.useM m.toNat fun k => s.useV a k fun xs =>
    let r := vredMm isMax t.toNat k xs
    (s.landG d r.1 Lat.red).landFlags r.2 Lat.red)

def execVredmin (g : BitVec 4) (d a : BitVec 6) (t : BitVec 2) (m : BitVec 3) (s : State) : Res1 :=
  .next (s.redMm false g d a t m)

def execVredmax (g : BitVec 4) (d a : BitVec 6) (t : BitVec 2) (m : BitVec 3) (s : State) : Res1 :=
  .next (s.redMm true g d a t m)

/-- A lane as INT32 or NAT32. -/
def laneInt (unsigned : Bool) (x : Half) : Int := if unsigned then x.toNat else x.toInt

def execVredsumi (g : BitVec 4) (d a : BitVec 6) (t : BitVec 1) (m : BitVec 3) (s : State) : Res1 :=
  .next (s.guarded g (s.useM m.toNat fun k => s.useV a k fun xs =>
    s.landG d (Word.ofInt (((lanes1 k id xs).map fun (_, x) => laneInt (t = 1) x).foldl (· + ·) 0)) Lat.red))

/-- Running sums over the active lanes (R171). -/
def scanLanes (ex sat un : Bool) : Int → List (Nat × Half) → List (Nat × Half)
  | _, [] => []
  | acc, (l, x) :: r =>
    let nxt := acc + laneInt un x
    let v := if ex then acc else nxt
    (l, if sat then (if un then satN32 v else satI32 v) else h32 v) :: scanLanes ex sat un nxt r

def execVscan (g : BitVec 4) (d a : BitVec 6) (n u e : BitVec 1) (m : BitVec 3) (s : State) : Res1 :=
  .next (s.guarded g (s.useM m.toNat fun k => s.useV a k fun xs =>
    s.landV d (scanLanes (e = 1) (u = 1) (n = 1) 0 (lanes1 k id xs)) Lat.red))

/-- The words `vburg` folds: one per lane pair with an active lane (R172). -/
def burgWords (k : BitVec 128) (xs : List Half) : List Word :=
  ((List.range 64).filter fun j => k.getLsbD (2 * j) || k.getLsbD (2 * j + 1)).map fun j =>
    let v (l : Nat) : Half := if k.getLsbD l then xs.getD l 0 else 0
    v (2 * j + 1) ++ v (2 * j)

def execVburg (g : BitVec 4) (a : BitVec 6) (m : BitVec 3) (s : State) : Res1 :=
  .next (s.guarded g (s.useM m.toNat fun k => s.useV a k fun xs =>
    let ws := burgWords k xs
    if ws.isEmpty then s else s.foldBurg ws Lat.red))

end Sys2Proof.Machine
end

