-- ==== Sys2Proof/Machine/Array.lean ====
section
/-! DEFINITION. The crossbar arrays: analog reads, pulse trains, transfers, the registers of a pair (spec 13 R269-R301,
14 R302-R314). -/

namespace Sys2Proof.Machine

/-! ### Pulse probabilities (R307) -/

/-- One lane of `xpprob`: the signed probability and NV. -/
def xpprobLane (F : Fmt) (sc : Ex) (v : Ex) : Nat × Flags :=
  if v.isNan || sc.isNan then (0, fNV)
  else
    let sg := v.sign != sc.sign
    if v.isZero || sc.isZero then (signBits .bf16 sg, 0)
    else match F, (Ex.mul v sc).1 with
      | _, .fin _ m e =>
        let p := if Ex.lt (.fin false m e) (.fin false 1 0) then (roundEx .bf16 .rne (.fin false m e)).1 else 0x3F80
        (signBits .bf16 sg + p, 0)
      | _, _ => (signBits .bf16 sg + 0x3F80, 0)

def execXpprob (g : BitVec 4) (d a b : BitVec 6) (m : BitVec 3) (s : State) : Res1 :=
  .next (s.guarded g (s.useG b fun gs => s.useM m.toNat fun k => s.useV a k fun xs =>
    let F : Fmt := if gs.getLsbD 32 then .bf16 else .fp32
    let sc := Ex.ofBits .fp32 (bits gs.toNat 0 32)
    let r := lanesF k (fun _ x _ _ => xpprobLane F sc (Ex.ofBits F (fpLane F x))) xs xs xs
    (s.landV d r.1 Lat.sfu).landFlags r.2 Lat.sfu))

/-! ### The registers of a pair (R269-R272, R311-R314) -/

/-- The pair an M-slot array instruction names (R302). -/
def pairNo (k : BitVec 1) (p : BitVec 3) : Nat := 8 * k.toNat + p.toNat

/-- Reset values of AWIN and AGAIN (R270). -/
def awinReset : BitVec 36 := 0x1FF#9 ++ 0#9 ++ 0x1FF#9 ++ 0#9
def againReset : BitVec 20 := 0x03F80#20

/-- The fields of a window: first row, rows, first column, columns (R270). -/
structure ArrWindow where
  row0 : Nat
  rows : Nat
  col0 : Nat
  cols : Nat
  deriving DecidableEq, Repr

def windowOf (w : Nat) : ArrWindow := ⟨bits w 0 9, bits w 9 9 + 1, bits w 18 9, bits w 27 9 + 1⟩

/-- Whether a window lies inside the array (R270). -/
def ArrWindow.valid (w : ArrWindow) : Bool := w.row0 + w.rows ≤ 512 && w.col0 + w.cols ≤ 512

/-- Whether γ is finite, not negative and at most 8.0; −0 counts as +0 (R270). -/
def gammaValid (x : Nat) : Bool := x % 65536 = 0x8000 || x % 65536 ≤ 0x4100

namespace State

def pidOf (s : State) (p : Nat) : Nat := 16 * tileOf s.cur.ctx + p
def awinOf (s : State) (p : Nat) : BitVec 36 := tget awinReset s.regs.awin p
def againOf (s : State) (p : Nat) : BitVec 20 := tget againReset s.regs.again p

/-- The grant checks of R272 and go on. -/
def granted (s : State) (p : Nat) (upd : Bool) (k : State) : State :=
  if !(s.me.xgrant.getLsbD (2 * p)) then s.extentFault 0x08 0
  else if upd && !(s.me.xgrant.getLsbD (2 * p + 1)) then s.extentFault 0x09 0
  else k

/-- Whether a gang is frozen and the occupancy of an operation spans its freeze, all of which then counts (R303, R390). -/
def spansFreeze (g : Gang) (o : AnOp) : Bool :=
  match g.fz with
  | some f => f.beat ≤ o.last
  | none => false

/-- Pairs of a tile that an analog operation occupies at a beat or later; one that spans a freeze counts until the restart,
its slice resident or saved (R279, R303, R390, R396). -/
def occupiedFrom (s : State) (tile b : Nat) : List Nat :=
  ([2 * tile, 2 * tile + 1].flatMap fun c => (s.ctx c).ops.filterMap fun (_, o) =>
    if b ≤ o.last || spansFreeze (s.gang (s.ctx c).gang) o then some o.pid else none) ++
  s.saved.flatMap fun v => (v.frames.filter fun f => tileOf f.cid = tile).flatMap fun f =>
    f.ctx.ops.filterMap fun (_, o) => if spansFreeze v.gang o then some o.pid else none

/-- Whether an analog operation occupies a pair now (R279). -/
def occupied (s : State) (pid : Nat) : Bool := (s.occupiedFrom (pid / 16) s.beat).contains pid

/-- Pairs of a tile that engine commands held at a beat or later (R293, R303). -/
def heldFrom (s : State) (tile b : Nat) : List Nat :=
  ((List.range 16).map fun i => 16 * tile + i).filter fun pid =>
    let p := s.pair pid
    p.pstate = 1 || (p.freed != 0 && b < p.freed)

/-- Distinct pairs occupied in the 64 beats that end now, a new one among them (R303). -/
def pairPeak (s : State) (pid : Nat) : Nat :=
  let tile := pid / 16
  (pid :: (s.occupiedFrom tile (s.beat - 63) ++ s.heldFrom tile (s.beat - 63))).dedup.length

/-- Timetable slip on a held or thermally held pair (R281). -/
def notHeld (s : State) (pid : Nat) (k : State) : State :=
  let ps := (s.pair pid).pstate
  if ps = 1 then s.slip 0x06 else if ps = 2 then s.slip 0x07 else k

/-- Check pool spans (address, bytes, alignment, detail) for their extents, then for alignment, and go on (R195,
R218, R302). -/
def useSpans (s : State) (l : List (Word × Nat × Nat × Nat)) (k : State) : State :=
  match l.find? fun (a, n, _, _) => (s.poolAddr a n).toOption.isNone with
  | some (a, n, _, _) => s.extentFault (match s.poolAddr a n with
    | .error e => e
    | .ok _ => 0) a
  | none => match l.find? fun (a, _, al, _) => a.toNat % al != 0 with
    | some (a, _, _, d) => s.extentFault d a
    | none => k

/-- Common issue checks of an analog instruction: occupancy and R303, grants, addresses, holds (R302). -/
def analog (s : State) (p : Nat) (upd ill : Bool) (spans : List (Word × Nat × Nat × Nat)) (k : State) : State :=
  let pid := s.pidOf p
  if ill || s.occupied pid || 4 < s.pairPeak pid then s.illegal
  else s.granted p upd (s.useSpans spans (s.notHeld pid k))

/-- Record an analog operation of the issuing context, and go on with its number. -/
def startOp (s : State) (o : AnOp) (k : State → Nat → State) : State :=
  let n := s.me.nextOp
  k (s.modMe fun x => { x with
    nextOp := n + 1,
    ops := tset (x.ops.filter fun (_, o) => s.beat < o.last + 64) n o }) n

/-- RS live is cleared by an instruction that starts an update (R387). -/
def clearRs (s : State) : State := s.modMe fun x => { x with rs := false }

end State

/-- Groups of 256 bytes that a span touches: offset and bytes (R305). -/
def groupsOf (off len : Nat) : List (Nat × Nat) :=
  (List.range ((len + 255) / 256)).map fun r => (off + 256 * r, min 256 (len - 256 * r))

/-- Bank claims of one group a cycle from a beat on. -/
def groupClaims (tile beat : Nat) (gs : List (Nat × Nat)) : List (Res × Nat × Word) :=
  ((List.range gs.length).zip gs).flatMap fun (r, g) => bankClaims tile (beat + r) [g]

/-- Blocks of a DXB8 input of n elements (R305). -/
def blocksOf (n : Nat) : Nat := (n + 31) / 32

/-- The input spans of an operation, by cycle from its issue: offset and bytes (R305, R308). -/
def AnOp.inputs (o : AnOp) : List (Nat × Nat × Nat) :=
  let w := windowOf o.win.toNat
  let at' (c : Nat) (gs : List (Nat × Nat)) : List (Nat × Nat × Nat) :=
    ((List.range gs.length).zip gs).map fun (r, g) => (c + r, g)
  let n := if o.kind = 0 then w.rows else w.cols
  match o.kind with
  | 0 | 1 =>
    if o.dxb then at' 0 (groupsOf o.src (32 * blocksOf n)) ++ [(2, o.src + 512, 2 * blocksOf n)]
    else at' 0 (groupsOf o.src (4 * n))
  | 2 => at' 0 (groupsOf o.src (4 * w.rows)) ++ at' 8 (groupsOf (o.src + 2048) (4 * w.cols))
  | _ => []

/-- Cycle of an operation's last input read. -/
def AnOp.lastInput (o : AnOp) : Nat := o.inputs.foldl (fun n x => max n x.1) 0

namespace State

/-- An analog read of a pair from operand addresses in the pool (R305, R306). -/
def readOp (s : State) (bwd : Bool) (pn : Nat) (gy gx : Word) (dxb : Bool) : AnOp :=
  { kind := if bwd then 1 else 0, pid := s.pidOf pn, first := s.beat, last := s.beat + 63,
    win := s.awinOf pn, gain := s.againOf pn, src := bits gx.toNat 0 56, dst := bits gy.toNat 0 56, dxb := dxb }

/-- The bytes of its input, and of its output (R305, R306). -/
def readLens (s : State) (bwd : Bool) (pn : Nat) (dxb : Bool) : Nat × Nat :=
  let w := windowOf (s.awinOf pn).toNat
  let nin := if bwd then w.cols else w.rows
  (if dxb then 512 + 2 * blocksOf nin else 4 * nin, 4 * if bwd then w.rows else w.cols)

/-- The pool spans of an analog read, each with its alignment and detail (R302, R305). -/
def readSpans (s : State) (bwd : Bool) (pn : Nat) (gy gx : Word) (dxb : Bool) : List (Word × Nat × Nat × Nat) :=
  [(gx, (s.readLens bwd pn dxb).1, if dxb then 32 else 16, if dxb then 0x05 else 0x07), (gy, (s.readLens bwd pn dxb).2, 16, 0x07)]

/-- The banks of an operation's input reads. -/
def inputBanks (s : State) (o : AnOp) : List (Res × Nat × Word) :=
  o.inputs.flatMap fun (c, sp) => bankClaims (tileOf s.cur.ctx) (s.beat + c) [sp]

/-- The banks of a read's output writes, the first at issue + 56. -/
def outputBanks (s : State) (o : AnOp) (len : Nat) : List (Res × Nat × Word) :=
  groupClaims (tileOf s.cur.ctx) (s.beat + 56) (groupsOf o.dst len)

/-- Put an operation's input reads and `outs` output writes in flight (R305). -/
def pushReads (s : State) (o : AnOp) (outs n : Nat) : State :=
  let t := o.inputs.foldl (fun t (c, _) => t.push c (.ain n c)) s
  (List.range outs).foldl (fun t r => t.push (56 + r) (.aout n r)) t

/-- `xfwd` and `xbwd` at issue (R305, R306). -/
def analogRead (s : State) (bwd : Bool) (g : BitVec 4) (d a : BitVec 6) (k f : BitVec 1) (p : BitVec 3) : State :=
  s.guarded g (s.useG d fun gy => s.useG a fun gx =>
    let pn := pairNo k p
    let o := s.readOp bwd pn gy gx (f = 1)
    let len := (s.readLens bwd pn (f = 1)).2
    s.analog pn false false (s.readSpans bwd pn gy gx (f = 1))
      (s.claimAll 0x06 (s.inputBanks o) fun t => t.claimAll 0x06 (s.outputBanks o len) fun t =>
        t.startOp o fun t n => t.pushReads o (groupsOf o.dst len).length n))

end State

def execXfwd (g : BitVec 4) (d a : BitVec 6) (k f : BitVec 1) (p : BitVec 3) (s : State) : Res1 :=
  .next (s.analogRead false g d a k f p)

def execXbwd (g : BitVec 4) (d a : BitVec 6) (k f : BitVec 1) (p : BitVec 3) (s : State) : Res1 :=
  .next (s.analogRead true g d a k f p)

namespace State

/-- A pulse update from the probabilities at a pool address: digital phase, then a train of `bl` slots (R283, R308). -/
def updateOp (s : State) (pn : Nat) (gv : Word) (bl : Nat) : AnOp :=
  let pr := s.pair (s.pidOf pn)
  { kind := 2, pid := s.pidOf pn, first := s.beat, last := s.beat + 23 + 4 * bl,
    win := s.awinOf pn, seed := pr.xseed, step := pr.step, src := bits gv.toNat 0 56, bl := bl }

/-- Its row probabilities, and its column probabilities 2,048 bytes on (R308). -/
def updateSpans (s : State) (pn : Nat) (gv : Word) : List (Word × Nat × Nat × Nat) :=
  let w := windowOf (s.awinOf pn).toNat
  [(gv, 4 * w.rows, 16, 0x07), (gv + 2048, 4 * w.cols, 16, 0x07)]

/-- A symmetry reset (R285, R309). -/
def resetOp (s : State) (pn bl : Nat) : AnOp :=
  { kind := 3, pid := s.pidOf pn, first := s.beat, last := s.beat + 23 + 4 * bl,
    win := s.awinOf pn, bl := bl, begun := true }

/-- Whether a transfer's operand is outside its fields or its line outside the window (R310). -/
def transferBad (s : State) (pn : Nat) (gl : Word) (row : Bool) : Bool :=
  let w := windowOf (s.awinOf pn).toNat
  bits gl.toNat 9 7 != 0 || bits gl.toNat 32 32 != 0 || (if row then w.rows else w.cols) ≤ bits gl.toNat 0 9

/-- A transfer of one line of F to S (R286, R310). -/
def transferOp (s : State) (pn : Nat) (gl : Word) (row rst : Bool) (bl : Nat) : AnOp :=
  let pr := s.pair (s.pidOf pn)
  let w := windowOf (s.awinOf pn).toNat
  { kind := 4, pid := s.pidOf pn, first := s.beat, last := s.beat + 95 + 4 * bl,
    win := s.awinOf pn, seed := pr.xseed, step := pr.step, bl := bl,
    line := bits gl.toNat 0 9 + (if row then w.row0 else w.col0), row := row, rst := rst,
    nu := gl.extractLsb' 16 16, begun := true }

/-- Put the slots of a train and its end in flight; they run on in a freeze (R298). -/
def pushTrain (s : State) (c : Nat) (slot issued first bl n : Nat) : State :=
  let t := (List.range bl).foldl (fun t i =>
    t.addItem c ⟨first + 4 * i, 0, 0, slot, issued, true, .pulse n i, 0, false⟩) s
  t.addItem c ⟨first + 4 * bl, 0, 0, slot, issued, true, .train n, 0, false⟩

/-- The train of an operation of the issuing slot, its first slot `n0` beats from now. -/
def ownTrain (s : State) (n0 bl n : Nat) : State := s.pushTrain s.cur.ctx s.cur.slot s.beat (s.beat + n0) bl n

/-- The digital phase of a transfer, 64 beats from now (R286). -/
def pushDigital (s : State) (n : Nat) : State :=
  s.addItem s.cur.ctx ⟨s.beat + 64, 0, 0, s.cur.slot, s.beat, true, .digital n, 0, false⟩

end State

/-- `xupd` (R283, R308). -/
def execXupd (g : BitVec 4) (l a : BitVec 6) (k : BitVec 1) (p : BitVec 3) (s : State) : Res1 :=
  .next (s.guarded g (s.useG a fun gv =>
    let pn := pairNo k p
    let o := s.updateOp pn gv l.toNat
    s.analog pn true false (s.updateSpans pn gv) (s.claimAll 0x06 (s.inputBanks o) fun t =>
      t.clearRs.startOp o fun t n => t.pushReads o 0 n)))

/-- `xrst` (R285, R309). -/
def execXrst (g : BitVec 4) (l : BitVec 6) (k : BitVec 1) (p : BitVec 3) (s : State) : Res1 :=
  let pn := pairNo k p
  .next (s.guarded g (s.analog pn true false []
    (s.clearRs.startOp (s.resetOp pn l.toNat) fun t n => t.ownTrain 24 l.toNat n)))

/-- `xxfer` (R286, R310). -/
def execXxfer (g : BitVec 4) (l a : BitVec 6) (k u w : BitVec 1) (p : BitVec 3) (s : State) : Res1 :=
  let pn := pairNo k p
  .next (s.guarded g (s.useG a fun gl => s.analog pn true (s.transferBad pn gl (w = 1)) []
    (s.clearRs.startOp (s.transferOp pn gl (w = 1) (u = 1) l.toNat) fun t n => (t.pushDigital n).ownTrain 96 l.toNat n)))

namespace State

/-- Land a window (R311). -/
def setWin (s : State) (p : Nat) (hi : Bool) (v : BitVec 36) : State :=
  if hi || !(windowOf v.toNat).valid then s.illegal
  else s.granted p false ((s.claimLand (keyAwin p) Lat.alu).push Lat.alu (.awin p v) Lat.alu)

end State

def execXwin (g : BitVec 4) (a : BitVec 6) (k : BitVec 1) (p : BitVec 3) (s : State) : Res1 :=
  .next (s.guarded g (s.useG a fun v => s.setWin (pairNo k p) (v.extractLsb' 36 28 != 0) (v.setWidth 36)))

def execXwinX (g : BitVec 4) (w : BitVec 4) (k : BitVec 1) (p : BitVec 3) (x : Half) (s : State) : Res1 :=
  .next (s.guarded g (s.setWin (pairNo k p) false (w ++ x)))

def execXgain (g : BitVec 4) (a : BitVec 6) (k : BitVec 1) (p : BitVec 3) (s : State) : Res1 :=
  let pn := pairNo k p
  .next (s.guarded g (s.useG a fun v =>
    if v.extractLsb' 20 44 != 0 || !gammaValid v.toNat then s.illegal
    else s.granted pn false ((s.claimLand (keyAgain pn) Lat.alu).push Lat.alu (.again pn (v.setWidth 20)) Lat.alu)))

/-- `xseed`: XSEED and STEP land together (R313). -/
def execXseed (g : BitVec 4) (a : BitVec 6) (k : BitVec 1) (p : BitVec 3) (s : State) : Res1 :=
  let pn := pairNo k p
  let pid := s.pidOf pn
  .next (s.guarded g (s.useG a fun v =>
    if s.occupied pid then s.illegal
    else s.granted pn true (s.notHeld pid
      ((s.claimLand (keyXseed pn) Lat.alu).push Lat.alu (.xseed pid v) Lat.alu))))

/-- `xstat` (R314). -/
def execXstat (g : BitVec 4) (d : BitVec 6) (k : BitVec 1) (u : BitVec 3) (p : BitVec 3) (s : State) : Res1 :=
  let pn := pairNo k p
  let pr := s.pair (s.pidOf pn)
  .next (s.guarded g (s.granted pn false (s.landG d (match u.toNat with
    | 0 => pr.parF.extractLsb' 0 64
    | 1 => pr.parF.extractLsb' 64 64
    | 2 => pr.parS.extractLsb' 0 64
    | 3 => pr.parS.extractLsb' 64 64
    | 4 => (0#30 ++ pr.pstate ++ pr.step)
    | _ => pr.xseed) Lat.alu)))

/-! ### What the cells answer (R276-R278, R284) -/

/-- A finite BF16 value in units of 2^-133; 0 for any other (R289 keeps measured values finite). -/
def bfInt (x : Nat) : Int :=
  match Ex.ofBits .bf16 x with
  | .fin n m e => signedAt n m e (-133)
  | _ => 0

/-- Drive level of an input element at drive exponent XE, and NV (R277). -/
def driveLevel (xe : Int) : Ex → Int × Flags
  | .nan _ => (0, fNV)
  | .inf n => (if n then -128 else 128, 0)
  | .fin n m e => let v : Int := (min (riNat m (e + 7 - xe)) 128 : Nat)
    (if n then -v else v, 0)

/-- gF − SPF and gS − SPS of a cell, in units of 2^-133 nu (R276). -/
def Pair.dF (p : Pair) (key : Nat) : Int := tget 0 p.gF key * 2 ^ 69 - bfInt p.spf.toNat
def Pair.dS (p : Pair) (key : Nat) : Int := tget 0 p.gS key * 2 ^ 69 - bfInt p.sps.toNat

/-- The weight of a cell under γ, in units of 2^-266 (R276). -/
def Pair.weight (p : Pair) (gamma : Nat) (key : Nat) : Int :=
  bfInt (gamma % 32768) * p.dF key + p.dS key * 2 ^ 133

/-- ADC code of 16 x sum, given in units of 2^-269, with its read noise (R278). -/
def adcCode (x : Int) (noise : Nat) : Int :=
  let y := x + Config.readNoise noise
  clampI (roundInt .rne (y < 0) y.natAbs (-269)).1 (-256) 255

/-- (c − COFF) x CGAIN x 2^XE of a calibration entry, exact (R278). -/
def adcValue (entry : Half) (xe : Int) (c : Int) : Ex :=
  let off := Ex.ofBits .bf16 (entry.extractLsb' 16 16).toNat
  match (Ex.mul (Ex.add .rne (Ex.ofInt c) off.neg).1 (Ex.ofBits .bf16 (entry.extractLsb' 0 16).toNat)).1 with
  | .fin n m e => .fin n m (e + xe)
  | x => x

/-- Calibration entry (R271). -/
def Pair.calF (p : Pair) (j : Nat) : Half := tget 0x3D80 p.calfw j
def Pair.calB (p : Pair) (i : Nat) : Half := tget 0x3D80 p.calbw i

/-- The input elements an analog read gathered (R306). -/
def AnOp.elements (o : AnOp) (n : Nat) : List Ex :=
  if o.dxb then
    let nb := blocksOf n
    let by' (i : Nat) : Nat := (o.ins.getD i 0).toNat
    (List.range n).map fun i =>
      dxb8Value (by' i) (by' (32 * nb + 2 * (i / 32))) (by' (32 * nb + 2 * (i / 32) + 1))
  else (lanesOfBytes n o.ins).map fun x => Ex.ofBits .bf16 (x.toNat % 65536)

/-- XE of AGAIN (R270). -/
def xeOf (gain : BitVec 20) : Int := (gain.extractLsb' 16 4).toInt

/-- The whole answer of a read: output elements and flags; output j takes the noise numbered `base + j` (R278). -/
def AnOp.answer (o : AnOp) (p : Pair) (base : Nat) : List Half × Flags :=
  let w := windowOf o.win.toNat
  let bwd := o.kind = 1
  let nin := if bwd then w.cols else w.rows
  let nout := if bwd then w.rows else w.cols
  let xe := xeOf o.gain
  let dr := (o.elements nin).map (driveLevel xe)
  let lines := ((List.range nin).zip (dr.map (·.1))).filter fun (_, n) => n != 0
  let out := (List.range nout).map fun j =>
    let sum := lines.foldl (fun acc (i, n) =>
      acc + n * p.weight (o.gain.extractLsb' 0 16).toNat
        (if bwd then 512 * (w.row0 + j) + w.col0 + i else 512 * (w.row0 + i) + w.col0 + j)) 0
    let entry := if bwd then p.calB (w.row0 + j) else p.calF (w.col0 + j)
    roundEx .bf16 .rne (adcValue entry xe (adcCode sum (base + j)))
  (out.map fun r => BitVec.ofNat 32 r.1, orFlags (dr.map (·.2)) ||| orFlags (out.map (·.2)))

/-! ### The pulse generator (R282) -/

def mix32 (v : Half) : Half :=
  let v := (v ^^^ (v >>> 16)) * 0x7FEB352D#32
  let v := (v ^^^ (v >>> 15)) * 0x846CA68B#32
  v ^^^ (v >>> 16)

def hPulse (seed : Word) (pid : Nat) (step : Half) (t line : Nat) : Half :=
  let key := mix32 (mix32 (seed.extractLsb' 0 32 ^^^ step) ^^^ seed.extractLsb' 32 32 ^^^ BitVec.ofNat 32 (pid % 2 ^ 14))
  let v := key ^^^ (BitVec.ofNat 32 (line % 1024 * 64 + t % 64) * 0x9E3779B9#32)
  (v ^^^ (v >>> 15)) * 0x2C1B3C6D#32

/-- pulse_k: the threshold of a BF16 probability. -/
def pulseK (p : Nat) : Nat :=
  match Ex.ofBits .bf16 p with
  | .inf false => 256
  | .fin false m e => min (riNat m (e + 8)) 256
  | _ => 0

def fires (k : Nat) (seed : Word) (pid : Nat) (step : Half) (t line : Nat) : Bool :=
  (hPulse seed pid step t line >>> 24).toNat < k

namespace State

/-- One step of a cell of F or S, up or down: how far is the cell's answer (R284). -/
def stepCell (s : State) (pid : Nat) (onS : Bool) (key : Nat) (up : Bool) : State :=
  let n : Int := Config.cellStep s.fresh
  let d := if up then n else -n
  { s with fresh := s.fresh + 1 }.modPair pid fun p =>
    if onS then { p with gS := tset p.gS key (tget 0 p.gS key + d) }
    else { p with gF := tset p.gF key (tget 0 p.gF key + d) }

/-- Steps at every crossing of two lists of lines (R283, R285). -/
def stepCells (s : State) (pid : Nat) (onS : Bool) (cells : List (Nat × Bool)) : State :=
  cells.foldl (fun t (k, up) => t.stepCell pid onS k up) s

end State

/-- The coincidences of slot t: cell and polarity (R283). -/
def AnOp.coincidences (o : AnOp) (t : Nat) : List (Nat × Bool) :=
  let fr := o.kr.filter fun (i, k, _) => fires k o.seed o.pid o.step t i
  let fc := o.kc.filter fun (j, k, _) => fires k o.seed o.pid o.step t (512 + j)
  fr.flatMap fun (i, _, si) => fc.map fun (j, _, sj) => (512 * i + j, si == sj)

/-- The cells of F that a reset train covers (R285, R286). -/
def AnOp.resetCells (o : AnOp) : List Nat :=
  let w := windowOf o.win.toNat
  let rows := (List.range w.rows).map (w.row0 + ·)
  let cols := (List.range w.cols).map (w.col0 + ·)
  if o.kind = 3 then rows.flatMap fun i => cols.map fun j => 512 * i + j
  else if !o.rst then []
  else if o.row then cols.map fun j => 512 * o.line + j else rows.map fun i => 512 * i + o.line

/-- Thresholds and signs of an update's row and column elements (R308). -/
def AnOp.thresholds (o : AnOp) : List (Nat × Nat × Bool) × List (Nat × Nat × Bool) :=
  let w := windowOf o.win.toNat
  let el (first : Nat) (xs : List Half) : List (Nat × Nat × Bool) :=
    ((List.range xs.length).zip xs).map fun (i, x) => (first + i, pulseK (x.toNat % 32768), x.getLsbD 15)
  (el w.row0 (lanesOfBytes w.rows o.ins), el w.col0 (lanesOfBytes w.cols (o.ins.drop (4 * w.rows))))

/-- Items of the arrays by kind. -/
def Act.isRead : Act → Bool
  | .ain _ _ | .aout _ _ => true
  | _ => false

def Act.isPulse : Act → Bool
  | .pulse _ _ => true
  | _ => false

def Act.isDigital : Act → Bool
  | .digital _ => true
  | _ => false

def Act.isTrain : Act → Bool
  | .train _ => true
  | _ => false

/-- What an operation number that is not listed reads as: an operation that does nothing. -/
def AnOp.absent : AnOp := { kind := 9, pid := 0, first := 0, last := 0, win := 0 }

namespace State

def op (s : State) (c n : Nat) : AnOp := tget .absent (s.ctx c).ops n
def setOp (s : State) (c n : Nat) (o : AnOp) : State := s.modCtx c fun x => { x with ops := tset x.ops n o }

/-- One input group read; with the last one the operation is in flight: a read has its answer, an update its train
(R298, R305). -/
def stepInput (s : State) (c : Nat) (it : Item) (n r : Nat) : State :=
  let o := s.op c n
  match o.inputs.find? fun (k, _) => k = r with
  | none => s
  | some (_, off, len) =>
    let a := poolAt (tileOf c) off
    if s.marked a len && !it.bad then s.poisonItem c it false (Word.ofNat off)
    else
      let o := { o with ins := o.ins ++ s.rd a len }
      if r < o.lastInput then s.setOp c n o
      else if o.kind = 2 then
        let (kr, kc) := o.thresholds
        (s.setOp c n { o with kr := kr, kc := kc, begun := true }).pushTrain c it.slot it.issued (it.due - r + 24) o.bl n
      else
        let (ys, f) := o.answer (s.pair o.pid) s.fresh
        let t := { s with fresh := s.fresh + ys.length }.setOp c n { o with outs := ys, begun := true }
        if f = 0 then t else t.follow c it (64 - r) (.flags f)

/-- One output group written (R305). -/
def stepOutput (s : State) (c n r : Nat) : State :=
  let o := s.op c n
  s.wr (poolAt (tileOf c) (o.dst + 256 * r)) (bytesOfLanes ((o.outs.drop (64 * r)).take 64)) false

end State

/-- An analog operation's pool traffic: an input group read, or a result group written (R278, R305, R306). -/
def execArrayReadResult (s : State) : Res1 :=
  .next (s.onItem Act.isRead fun t c it => match it.act with
    | .ain n r => t.stepInput c it n r
    | .aout n r => t.stepOutput c n r
    | _ => t)

/-- One slot of a train (R283, R285, R286). -/
def execArrayPulseSlot (s : State) : Res1 :=
  .next (s.onItem Act.isPulse fun t c it => match it.act with
    | .pulse n i =>
      let o := t.op c n
      let t := if o.kind = 3 then t else t.stepCells o.pid (o.kind = 4) (o.coincidences i)
      t.stepCells o.pid false (o.resetCells.map fun k => (k, i % 2 = 0))
    | _ => t)

/-- The one-hot read of a transfer and its digital phase: thresholds of the lines that cross the named one (R286). -/
def execTransferDigitalPhase (s : State) : Res1 :=
  .next (s.onItem Act.isDigital fun t c it => match it.act with
    | .digital n =>
      let o := t.op c n
      let p := t.pair o.pid
      let w := windowOf o.win.toNat
      let lines := if o.row then (List.range w.cols).map (w.col0 + ·) else (List.range w.rows).map (w.row0 + ·)
      let ks := ((List.range lines.length).zip lines).map fun (i, l) =>
        let code := adcCode (p.dF (if o.row then 512 * o.line + l else 512 * l + o.line) * 16 * 2 ^ 136) (t.fresh + i)
        let v := (roundEx .bf16 .rne (adcValue (if o.row then p.calF l else p.calB l) 0 code)).1
        let pr := (roundEx .bf16 .rne (Ex.mul (Ex.ofBits .bf16 o.nu.toNat) (Ex.ofBits .bf16 (v % 32768))).1).1
        (l, pulseK pr, !(0 < v && v < 32768))
      let one := [(o.line, 256, false)]
      let t := { t with fresh := t.fresh + lines.length }
      t.setOp c n (if o.row then { o with kr := one, kc := ks } else { o with kr := ks, kc := one })
    | _ => t)

/-- The end of a train: STEP increments (R283). -/
def execTrainComplete (s : State) : Res1 :=
  .next (s.onItem Act.isTrain fun t c it => match it.act with
    | .train n => t.modPair (t.op c n).pid fun p => { p with step := p.step + 1 }
    | _ => t)

/-! ### A record in range (R289) -/

/-- Whether a BF16 field of a record lies in a range, its ends given as integers over 10,000. -/
def inRange (v : BitVec 16) (lo hi : Int) : Bool :=
  match Ex.ofBits .bf16 v.toNat with
  | .fin _ _ _ => lo * 2 ^ 133 ≤ 10000 * bfInt v.toNat && 10000 * bfInt v.toNat ≤ hi * 2 ^ 133
  | _ => false

/-- Whether a BF16 field is a finite number. -/
def bfFinite (v : BitVec 16) : Bool :=
  match Ex.ofBits .bf16 v.toNat with
  | .fin _ _ _ => true
  | _ => false

/-- Whether one array's record keeps R289; what is not a number lies in no range. -/
def recordOk (r : BitVec 128) : Bool :=
  let f (lo : Nat) : BitVec 16 := r.extractLsb' lo 16
  let g := bfInt (f 48).toNat
  let h := bfInt (f 64).toNat
  inRange (f 0) 10 40 && inRange (f 16) 8000 12500 && bfFinite (f 32) && bfFinite (f 48) && bfFinite (f 64) &&
  16 * 2 ^ 133 ≤ 10 * (h - g) && 10 * (h - g) ≤ 24 * 2 ^ 133 && g < bfInt (f 32).toNat && bfInt (f 32).toNat < h &&
  inRange (f 80) 0 20000 && inRange (f 96) 0 3500

/-- Whether a pair's records and calibration entries keep R289. -/
def Pair.ok (p : Pair) : Bool :=
  let good (e : Half) : Bool := inRange (e.extractLsb' 16 16) (-80000) 80000 && 3 * 2 ^ 133 ≤ 64 * bfInt (e.extractLsb' 0 16).toNat &&
    64 * bfInt (e.extractLsb' 0 16).toNat ≤ 5 * 2 ^ 133
  recordOk p.parF && recordOk p.parS && (List.range 512).all fun n => good (p.calF n) && good (p.calB n)

end Sys2Proof.Machine
end

