-- ==== Sys2Proof/Machine/Async.lean ====
section
/-! DEFINITION. The asynchronous domain: translation through the walker, accesses of engines, host and fabric, scopes
and what fences hold back (spec 09 R199-R201, R215, 11 R239-R258, 16 R366-R369). -/

namespace Sys2Proof.Machine

/-- A field of a command block. -/
def Cmd.f (c : Cmd) (o n : Nat) : Nat := leNat ((c.blk.drop o).take n)

namespace State

/-! ### Where an access is served (R256, R368, R369) -/

/-- The asker of this step takes its turn at an installed page. -/
def takeTurn (s : State) (f : Forward) : State :=
  if f.queue.isEmpty then s
  else
    let g : Forward := { f with
      queue := (s.waiting f.queue).filter fun x => x != s.asker,
      turn := some (s.asker, s.beat) }
    { s with forwards := s.forwards.map fun x => if x = f then g else x }

/-- Where an access that a placement names is served: a committing page holds it; an installed page lets those it held go
first, and its old home forwards (R256, R368, R369). -/
def serve (s : State) (va : Nat) : Nat → Place → Got Place
  | 0, p => .ok p s
  | n + 1, .hbm h pl st =>
    match s.moves.find? fun m => m.committing && onPage m.oldBase m.size m.oldPlace pl st with
    | some m => .hold (some (m.oldBase, m.oldPlace))
    | none =>
      match s.forwards.find? fun f => !f.gone &&
          (onPage f.oldBase f.size f.oldPlace pl st || (!f.queue.isEmpty && onPage f.newBase f.size f.newPlace pl st)) with
      | none => .ok (.hbm h pl st) s
      | some f =>
        if !(s.passes f) then .hold (some (f.oldBase, f.oldPlace))
        else
          let t := s.takeTurn f
          if onPage f.oldBase f.size f.oldPlace pl st then
            match stripeOfStale s.geom (f.newBase + (st - f.oldBase)) f.newPlace with
            | some g => t.serve va n (.hbm g f.newPlace (f.newBase + (st - f.oldBase)))
            | none => .fault 3 va
          else .ok (.hbm h pl st) t
  | _, p => .ok p s

/-- Where a byte may lie whose access is held: at its home, and at the one that a committing page will give it (R253, R368). -/
def heldSpots (s : State) (die asid va : Nat) : List Place :=
  match s.moveOf asid va with
  | some m => [(m.oldBase, m.oldPlace), (m.newBase, m.newPlace)].filterMap fun (b, p) =>
      (stripeOfStale s.geom (b + (va - m.va)) p).map fun h => .hbm h p (b + (va - m.va))
  | none => match s.tlbFresh die asid va with
    | .ok t u => ((u.leafPlace ⟨t.entryAt, t.entry, t.level⟩ va).map (u.spot (u.forwards.length + 1))).toList
    | _ => []

/-- Join the queue of a page that held an access (R368). -/
def joinQueue (s : State) (q : Option (Nat × Nat)) : State :=
  match q with
  | none => s
  | some (b, p) =>
    let add (l : List Asker) : List Asker := if l.contains s.asker then l else l ++ [s.asker]
    let mv (m : Move) : Move := if m.oldBase = b ∧ m.oldPlace = p ∧ m.committing then { m with queue := add m.queue } else m
    let fw (f : Forward) : Forward := if f.oldBase = b ∧ f.oldPlace = p ∧ !f.gone then { f with queue := add f.queue } else f
    { s with
      moves := s.moves.map mv,
      forwards := s.forwards.map fw }

/-- Translate one byte for an asynchronous access: page-fault reasons of R349, old home while moving, held while committing,
forwarded after the install (R201, R215, R368, R369). -/
def xlate (s : State) (die asid va : Nat) (write : Bool) : Got Place :=
  (s.tlbFresh die asid va).andThen fun t s =>
    let go (p : Option Place) : Got Place := match p with
      | none => .fault 3 va
      | some p => if write && !(t.entry.testBit 1) then .fault 6 va
        else (s.serve va (s.forwards.length + 1) p).andThen fun p u =>
          if write then (u.tlbDirty t).andThen fun _ v => .ok p v else .ok p u
    match s.moveOf asid va with
    | some m => go ((stripeOfStale s.geom (m.oldBase + (va - m.va)) m.oldPlace).map fun h =>
        .hbm h m.oldPlace (m.oldBase + (va - m.va)))
    | none =>
      let mig := bits t.entry 58 2
      if mig = 3 then .fault 2 va
      else if mig = 2 then .fault 1 va
      else go (s.leafPlace ⟨t.entryAt, t.entry, t.level⟩ va)

/-! ### Scopes (R251, R253) -/

/-- Die of a flat address inside the module. -/
def flatDie (a : Nat) : Nat :=
  if a < storeBase then dieOf (a / 2 ^ 19) else if a < hbmBase then dieOf ((a - storeBase) / 2 ^ 16)
  else (a - hbmBase) / 2 ^ 29 / 128 / 3

/-- Whether a location is inside a scope of a context's tile. -/
def inScope (s : State) (c scope a : Nat) : Bool :=
  match scope with
  | 0 => a < storeBase && a / 2 ^ 19 = tileOf c
  | 1 => a < storeBase && (s.gang (s.ctx c).gang).members.any fun m => tileOf m = a / 2 ^ 19
  | 2 => a < hostBase && flatDie a = dieOf (tileOf c)
  | 3 => a < hostBase
  | _ => true

/-- The address by which scopes judge a word of an atomic: its location, or one outside the module where its home is the
switch or the root complex (R255). -/
def homeSpot (p : Place) : Nat := if p.home = 0 then p.flat else hostBase

end State

/-- Whether a command has no access to make but its record's (R350). -/
def Cmd.performed (c : Cmd) : Bool := c.isDone || c.ending.isSome

/-- The scope within which a command holds back later accesses until it has performed: a fence, or an acquiring
atomic or barrier wait (R252, R254, R365). -/
def Cmd.holds (c : Cmd) : Option Nat :=
  match c.op with
  | 0x3D => some c.scope
  | 0x31 => if (c.f 1 1).testBit 0 then some (bits (c.f 0 1) 5 3) else none
  | 0x3C => some (bits (c.f 0 1) 0 3)
  | _ => none

/-- The scope whose earlier accesses a command waits for: a fence, or a releasing atomic or barrier command (R252,
R254, R365). -/
def Cmd.awaits (c : Cmd) : Option Nat :=
  match c.op with
  | 0x3D => some c.scope
  | 0x31 => if (c.f 1 1).testBit 1 then some (bits (c.f 0 1) 5 3) else none
  | 0x3A | 0x3B => some (bits (c.f 0 1) 0 3)
  | _ => none

namespace State

/-- Commands of a tile, with their contexts. -/
def tileCmds (s : State) (tile : Nat) : List (Nat × Nat × Cmd) :=
  [2 * tile, 2 * tile + 1].flatMap fun c => (s.ctx c).cmds.map fun (i, k) => (c, i, k)

/-- Whether an earlier fence or acquire of the tile holds back what a test finds in its scope (R252, R254). -/
def fencedBy (s : State) (c issued : Nat) (inside : Nat → Nat → Bool) : Bool :=
  (s.tileCmds (tileOf c)).any fun (d, _, k) => k.issued < issued && !k.performed && match k.holds with
    | some sc => inside d sc
    | none => false

/-- Whether an earlier fence or acquire of the tile still holds back an access of a command issued at a beat
(R252, R254). -/
def fenced (s : State) (c issued a : Nat) : Bool := s.fencedBy c issued fun d sc => s.inScope d sc a

/-! ### Accesses (R246, R258) -/

/-- Cut a run of bytes at multiples of `u`: start and length of each piece. -/
def piecesGo (u : Nat) : Nat → Nat → Nat → List (Nat × Nat)
  | 0, _, _ => []
  | k + 1, a, n =>
    if n = 0 then [] else
      let m := min n (u - a % u)
      (a, m) :: piecesGo u k (a + m) (n - m)

def piecesOf (u a n : Nat) : List (Nat × Nat) := piecesGo u (n / u + 2) a n

/-- The pieces of a run in 64-byte lines. -/
def pieces (a n : Nat) : List (Nat × Nat) := piecesOf 64 a n

/-- Bytes without marks. -/
def clean (bs : List Byte) : List (Byte × Bool) := bs.map fun b => (b, false)

/-- Whether a timetabled claim holds a bank of a pool line in this beat (R246). -/
def bankBusy (s : State) (tile off n : Nat) : Bool :=
  [2 * tile, 2 * tile + 1].any fun c => (s.gang (s.ctx c).gang).claims.any fun k =>
    k.beat = s.beat && match k.res with
      | .bank t b => t = tile && (chunksOf [(off, n)]).any fun q => q % 16 = b
      | _ => false

/-- The place of one byte named by a context's extent address: pool or open extent. -/
def place (s : State) (c : Nat) (addr : Word) (off : Nat) (write : Bool) : Got Place :=
  let i := bits addr.toNat 56 8
  let o := bits addr.toNat 0 56 + off
  if i = 0 then .ok (.pool (poolAt (tileOf c) o)) s
  else
    let x := tget {} (s.ctx c).extents i
    (s.xlate (dieOf (tileOf c)) (s.ctx c).asid.toNat (x.base.toNat + o) write).andThen fun p t =>
      .ok p (if write then t.touchMoves p else t)

/-- Where pieces are cut: the offset at which lines are counted. -/
def lineBase (s : State) (c : Nat) (addr : Word) (off : Nat) : Nat :=
  let i := bits addr.toNat 56 8
  bits addr.toNat 0 56 + off + (if i = 0 then 0 else (tget {} (s.ctx c).extents i).base.toNat)

/-- Read pieces in turn; whether any byte is marked. -/
def readPieces (c issued : Nat) (addr : Word) (a0 off : Nat) : List (Nat × Nat) → State → Got (List Byte × Bool)
  | [], s => .ok ([], false) s
  | (a, n) :: r, s =>
    (s.place c addr (off + (a - a0)) false).andThen fun p t =>
      if t.fenced c issued p.flat then .hold none
      else (readPieces c issued addr a0 off r t).andThen fun (bs, pm) u =>
        let v := t.look p n
        .ok (v.1 ++ bs, v.2 || pm) (u.settleAt p.flat n)

/-- Read `n` bytes at an offset of an extent address for a command (R247). -/
def aread (s : State) (c issued : Nat) (addr : Word) (off n : Nat) : Got (List Byte × Bool) :=
  let a0 := s.lineBase c addr off
  readPieces c issued addr a0 off (pieces a0 n) s

/-- Whether a timetabled claim holds a bank that an access to a place needs in this beat (R246). -/
def placeBusy (s : State) (c : Nat) (p : Place) (n : Nat) : Bool :=
  match p with
  | .pool a => s.bankBusy (tileOf c) (a % 2 ^ 19) n
  | _ => false

/-- Find the places of the pieces of a write. -/
def writePlaces (c issued : Nat) (addr : Word) (a0 off : Nat) : List (Nat × Nat) → State → Got (List (Place × Nat))
  | [], s => .ok [] s
  | (a, n) :: r, s =>
    (s.place c addr (off + (a - a0)) true).andThen fun p t =>
      if t.fenced c issued p.flat || t.placeBusy c p n then .hold none
      else (writePlaces c issued addr a0 off r t).andThen fun l u => .ok ((p, n) :: l) u

/-- Write the bytes of one piece, with the marks of its units: 16-byte chunks in the pool, the line elsewhere (R381,
R382). -/
def writePiece (s : State) (p : Place) (l : List (Byte × Bool)) : State :=
  match p with
  | .pool a => (piecesOf 16 a l.length).foldl (fun t (b, n) =>
      let q := (l.drop (b - a)).take n
      t.wr b (q.map (·.1)) (q.any (·.2))) s
  | _ => s.store p (l.map (·.1)) (l.any (·.2))

/-- Write bytes with their marks to the places found. -/
def writeAt (s : State) : List (Place × Nat) → List (Byte × Bool) → State
  | [], _ => s
  | (p, n) :: r, l => (s.writePiece p (l.take n)).writeAt r (l.drop n)

/-- Write bytes with their marks at an offset of an extent address for a command; nothing is written unless every piece
translates. -/
def awrite (s : State) (c issued : Nat) (addr : Word) (off : Nat) (l : List (Byte × Bool)) : Got Unit :=
  let a0 := s.lineBase c addr off
  (writePlaces c issued addr a0 off (pieces a0 l.length) s).andThen fun ps t => .ok () (t.writeAt ps l)

/-- Read or write by virtual address of an address space, for the host, the fabric and re-striping engines. -/
def vplaces (die asid : Nat) (write : Bool) : List (Nat × Nat) → State → Got (List (Place × Nat))
  | [], s => .ok [] s
  | (a, n) :: r, s =>
    (s.xlate die asid a write).andThen fun p t =>
      (vplaces die asid write r (if write then t.touchMoves p else t)).andThen fun l u => .ok ((p, n) :: l) u

def vread (s : State) (die asid va n : Nat) : Got (List Byte × Bool) :=
  (vplaces die asid false (pieces va n) s).andThen fun l t =>
    .ok (l.flatMap fun (p, k) => (t.look p k).1, l.any fun (p, k) => (t.look p k).2) (l.foldl (fun u x => u.settleAt x.1.flat x.2) t)

def vwrite (s : State) (die asid va : Nat) (l : List (Byte × Bool)) : Got Unit :=
  (vplaces die asid true (pieces va l.length) s).andThen fun ps t => .ok () (t.writeAt ps l)

/-- A write by virtual address that a command makes: held back by its tile's earlier fences and acquires (R252, R254). -/
def cmdWrite (s : State) (c issued va : Nat) (l : List (Byte × Bool)) : Got Unit :=
  (vplaces (dieOf (tileOf c)) (s.ctx c).asid.toNat true (pieces va l.length) s).andThen fun ps t =>
    if ps.any fun x => t.fenced c issued x.1.flat then .hold none else .ok () (t.writeAt ps l)

/-! ### Atomics (R254, R265, R362) -/

/-- The new value of an atomic, none where a cas fails (R362). -/
def atomNew (op w v opnd cmp : Nat) : Option Nat :=
  let m := 2 ^ w
  match op with
  | 0 => some ((v + opnd) % m)
  | 1 => if v = cmp then some opnd else none
  | 2 => some opnd
  | 3 => some (if sextN w v ≤ sextN w opnd then v else opnd)
  | 4 => some (min v opnd)
  | 5 => some (if sextN w v ≤ sextN w opnd then opnd else v)
  | 6 => some (max v opnd)
  | 7 => some (v &&& opnd)
  | 8 => some (v ||| opnd)
  | _ => some (v ^^^ opnd)

/-- SYSA of the leaf through which a die has translated a virtual address (R198). -/
def sysaOf (s : State) (die asid va : Nat) : Bool :=
  match s.tlbFind die asid va with
  | some t => t.entry.testBit 57
  | none => false

end State

end Sys2Proof.Machine
end

