-- ==== Sys2Proof/Machine/Command.lean ====
section
/-! DEFINITION. Engine commands at issue and at completion: the block checks, tokens, counters and records (spec 14
R315-R317, 16 R346-R368, 21 R417, R420, R424). -/

namespace Sys2Proof.Machine

/-- A memory area a command names: address, bytes, access, whether the pool is accepted, alignment. -/
structure Area where
  addr : Word
  len : Nat
  write : Bool
  pool : Bool
  align : Nat
  deriving DecidableEq, Repr

/-- The extent detail of an area, if it fails ext_addr (R195); besides the pool only open extents are accepted. -/
def Ctx.extDetail (x : Ctx) (r : Area) : Option Nat :=
  let off := bits r.addr.toNat 0 56
  let i := bits r.addr.toNat 56 8
  let t := tget {} x.extents i
  if i = 0 then
    if !r.pool then some 0x04 else if off < x.spLo ∨ x.spHi < off + r.len then some 0x06 else none
  else if !t.valid then some 0x01
  else if t.kind != 2 then some 0x04
  else if t.len < off + r.len then some 0x02
  else if r.write && !t.wr then some 0x03
  else none

/-- The first failing area with its detail; an area of no bytes meets no extent check; misalignment is tested last
(R195, R218). -/
def Ctx.areaFault (x : Ctx) (l : List Area) : Option (Nat × Word) :=
  match l.find? fun r => r.len != 0 && (x.extDetail r).isSome with
  | some r => some ((x.extDetail r).getD 0, r.addr)
  | none => (l.find? fun r => r.addr.toNat % r.align != 0).map fun r => (0x07, r.addr)

/-- A 64-bit field of a block. -/
def Cmd.w (c : Cmd) (o : Nat) : Word := Word.ofNat (c.f o 8)

/-- Zero fields common to every block: the token word's gaps and the completion record (R347). -/
def Cmd.badCommon (c : Cmd) : Bool :=
  bits (c.f 4 4) 6 1 != 0 || bits (c.f 4 4) 14 1 != 0 || bits (c.f 4 4) 22 1 != 0 || bits (c.f 4 4) 24 8 != 0 ||
  c.f 0x30 8 != 0 || c.f 0x38 8 != 0

/-- The consumed tokens of a block, TOK0 first (R316, R347). -/
def Cmd.tokens (c : Cmd) : List Nat :=
  ((List.range 3).filter fun i => (c.f (4 + i) 1).testBit 7).map fun i => bits (c.f (4 + i) 1) 0 6

/-- Whether TOK0 is valid. -/
def Cmd.tv0 (c : Cmd) : Bool := (c.f 4 1).testBit 7

/-- Whether bytes from `o` to below `p` are all zero. -/
def Cmd.zeros (c : Cmd) (o p : Nat) : Bool := c.f o (p - o) = 0

namespace State

/-- A command of a context; identity 0 is the notional command that completed OK (R351). -/
def cmd (s : State) (c i : Nat) : Cmd :=
  tget { op := 0, issued := 0, wake := 0, status := 1 } (s.ctx c).cmds i

def modCmd (s : State) (c i : Nat) (f : Cmd → Cmd) : State :=
  s.modCtx c fun x => { x with cmds := tset x.cmds i (f (tget { op := 0, issued := 0, wake := 0, status := 1 } x.cmds i)) }

/-- Commands issued and not yet completed (R348). -/
def outstanding (x : Ctx) : Nat := (x.cmds.filter fun (_, k) => !k.isDone).length

/-- No step of a command before a free number of beats has passed (R444, log entry 10). -/
def snooze (s : State) (c i : Nat) : State :=
  ({ s with fresh := s.fresh + 1 }).modCmd c i fun k => { k with wake := s.beat + 1 + Config.delay s.fresh }

/-- Issue a command: resolve its consumed tokens, then rebind its own (R351). -/
def bindCmd (s : State) (t : Nat) (clear : Bool) (k : Cmd) : State :=
  let i := s.me.nextCmd
  let k := { k with prods := k.tokens.map fun n => tget 0 s.regs.tok n }
  (s.modMe fun x => { x with
    cmds := tset x.cmds i k,
    nextCmd := i + 1,
    rs := x.rs && !clear,
    regs := { x.regs with tok := tset x.regs.tok t i } }).snooze s.cur.ctx i

/-- The command a block in the pool describes, as it is read at issue (R346, R347). -/
def readCmd (s : State) (op off : Nat) (e : BitVec 1) (k : BitVec 4) : Cmd :=
  { op := op,
    blk := s.rdPool off 64,
    pos := off,
    cnt := if e = 1 then some k.toNat else none,
    issued := s.beat,
    wake := s.beat + 1 }

/-- A C-map command with a block: the checks of R348 in order, then its issue. -/
def command (s : State) (op : Nat) (g : BitVec 4) (t a : BitVec 6) (e : BitVec 1) (k : BitVec 4) (clear : Bool)
    (bad : Cmd → Bool) (pre : Cmd → State → State) (areas : Cmd → List Area) (fix : Cmd → Cmd) : State :=
  s.guarded g (s.useG a fun addr => s.usePool addr 64 64 0x07 fun off =>
    let c := s.readCmd op off e k
    if s.poolMarked off 64 then s.raise 0x0A 0 (Word.ofNat off)
    else if c.badCommon || bad c then s.illegal
    else if 64 ≤ outstanding s.me then s.slip 0x08
    else pre c (match s.me.areaFault (areas c) with
      | some (d, x) => s.extentFault d x
      | none => s.claimBanks 0 [(off, 64)] fun u => u.bindCmd t.toNat clear (fix c)))

end State

/-! ### Copies (R359) -/

/-- Element size of a transpose. -/
def Cmd.esz (c : Cmd) : Nat := if (c.f 0 1).testBit 5 then 4 else 2

/-- Bytes a copy writes. -/
def Cmd.copyLen (c : Cmd) : Nat :=
  match bits (c.f 0 1) 0 2 with
  | 0 => c.f 0x18 4
  | 1 => c.f 0x1E 2 * c.f 0x18 4
  | _ => c.f 0x1E 2 * c.f 0x18 4 * c.esz

def Cmd.copyBad (c : Cmd) : Bool :=
  let mode := bits (c.f 0 1) 0 2
  let crc := bits (c.f 0 1) 2 2
  let chk := (c.f 0 1).testBit 4
  let len := c.f 0x18 4
  let rmod := c.f 0x1C 2
  mode = 3 || crc = 3 || bits (c.f 0 4) 6 26 != 0 || ((c.f 0 1).testBit 5 && mode != 2) ||
  len = 0 || 16777216 < len || (rmod != 0xFFFF && 4095 < rmod) || (rmod != 0xFFFF && bits (c.f 0x10 8) 57 7 != 0) ||
  (if mode = 0 then c.f 0x1E 2 != 0 || c.f 0x2C 4 != 0 else c.f 0x1E 2 = 0) || (mode != 1 && c.f 0x20 8 != 0) ||
  (!chk && c.f 0x28 4 != 0) || (crc = 2 && !c.tv0) || (chk && crc = 0)

def Cmd.copyAreas (c : Cmd) : List Area :=
  let mode := bits (c.f 0 1) 0 2
  let len := c.f 0x18 4
  let rows := c.f 0x1E 2
  let al := if mode = 2 then c.esz else 1
  (match mode with
    | 0 => [⟨c.w 0x08, len, false, true, 1⟩]
    | 1 => [⟨c.w 0x20, 4 * rows, false, true, 4⟩]
    | _ => [⟨c.w 0x08, (rows - 1) * c.f 0x2C 4 + len * c.esz, false, true, al⟩]) ++
  (if c.f 0x1C 2 = 0xFFFF then [⟨c.w 0x10, c.copyLen, true, true, al⟩]
    else if mode = 2 ∧ c.f 0x10 8 % al ≠ 0 then [⟨c.w 0x10, 0, true, true, al⟩] else [])

def execAcpy (g : BitVec 4) (t a : BitVec 6) (e : BitVec 1) (k : BitVec 4) (s : State) : Res1 :=
  .next (s.command 0x30 g t a e k false Cmd.copyBad (fun _ n => n) Cmd.copyAreas id)

/-! ### Atomics (R362) -/

def Cmd.atomBad (c : Cmd) : Bool :=
  let sz := (c.f 0 1).testBit 4
  9 < bits (c.f 0 1) 0 4 || 4 < bits (c.f 0 1) 5 3 || bits (c.f 0 4) 10 22 != 0 ||
  (bits (c.f 0 1) 0 4 != 1 && c.f 0x18 8 != 0) || (!sz && (c.f 0x14 4 != 0 || c.f 0x1C 4 != 0)) ||
  !(c.zeros 0x20 0x30)

def Cmd.atomBytes (c : Cmd) : Nat := if (c.f 0 1).testBit 4 then 8 else 4

def execAatom (g : BitVec 4) (t a : BitVec 6) (e : BitVec 1) (k : BitVec 4) (s : State) : Res1 :=
  .next (s.command 0x31 g t a e k true Cmd.atomBad (fun _ n => n)
    (fun c => [⟨c.w 0x08, c.atomBytes, true, true, c.atomBytes⟩]) id)

/-! ### Reduction (R363) -/

/-- Bytes of an element of a reduction format; 0 for a format no reduction takes (R363). -/
def redBytes (fmt : Nat) : Nat :=
  match fmt with
  | 0x2 | 0x6 | 0x9 => 4
  | 0x3 | 0x7 => 8
  | 0x8 => 2
  | _ => 0

def Cmd.redBad (c : Cmd) : Bool :=
  let z := redBytes (bits (c.f 0 1) 4 4)
  bits (c.f 0 1) 0 2 = 3 || z = 0 || bits (c.f 0 4) 8 24 != 0 || bits (c.f 0 1) 2 2 != 0 || c.f 0x18 4 = 0 ||
  16777216 < c.f 0x18 4 || c.f 0x18 4 % z != 0 || !(c.zeros 0x1C 0x30)

def execAred (g : BitVec 4) (t a : BitVec 6) (e : BitVec 1) (k : BitVec 4) (s : State) : Res1 :=
  .next (s.command 0x32 g t a e k true Cmd.redBad (fun _ n => n)
    (fun c => [⟨c.w 0x08, c.f 0x18 4, false, true, 1⟩,
      ⟨c.w 0x10, c.f 0x18 4, true, false, redBytes (bits (c.f 0 1) 4 4)⟩]) id)

/-! ### Re-striping (R367) -/

/-- Whether a placement word may be the new one: settled, current and not malformed (R203, R367). -/
def newPlaceOk (g : Geom) (p : Nat) : Bool := bits p 26 2 = 0 && (unitLists g p).isSome

def Cmd.moveBad (s : State) (c : Cmd) : Bool :=
  let regen := (c.f 0 1).testBit 0
  bits (c.f 0 4) 1 31 != 0 || !(c.zeros 0x1E 0x30) || bits (c.f 0x08 8) 57 7 != 0 || c.f 0x08 8 % 65536 != 0 ||
  (if regen then c.f 0x10 8 != 0 || c.f 0x18 4 != 0
    else !(newPlaceOk s.geom (c.f 0x18 4)) || c.f 0x10 8 % 65536 != 0 || 2 ^ 40 ≤ c.f 0x10 8) ||
  !(s.asidEntry s.me.asid.toNat).priv

def execArestripe (g : BitVec 4) (t a : BitVec 6) (e : BitVec 1) (k : BitVec 4) (s : State) : Res1 :=
  .next (s.command 0x33 g t a e k true (Cmd.moveBad s) (fun _ n => n) (fun _ => []) id)

/-! ### Collectives and multicast (R417, R424) -/

def Cmd.collBad (c : Cmd) : Bool :=
  let op := bits (c.f 0 1) 0 3
  let rop := bits (c.f 0 1) 3 2
  let fmt := bits (c.f 1 1) 0 4
  let len := c.f 0x20 4
  4 < op || bits (c.f 0 1) 5 3 != 0 || bits (c.f 0 4) 12 20 != 0 || (op != 0 && rop != 0) ||
  (if op = 0 ∧ rop < 3 then redBytes fmt = 0 else fmt != 0) || (op ≤ 1 && (c.f 0x08 8 != 0 || c.f 0x10 8 != 0)) ||
  bits (c.f 0x18 8) 57 7 != 0 || (op = 4 && c.f 0x18 8 != 0) || (op = 1 && len != 0) ||
  (op != 1 && (len = 0 || 16777216 < len)) || 1023 < c.f 0x24 2 || (op ≤ 2 && c.f 0x26 2 != 0) ||
  c.f 0x28 8 != 0 || ((op = 0 || op = 3) && c.f 0x18 8 % 64 != 0) || ((op = 0 || op = 3) && len % 64 != 0) ||
  (op = 2 && len % 2 != 0)

def Cmd.collAreas (c : Cmd) : List Area :=
  let op := bits (c.f 0 1) 0 3
  let len := c.f 0x20 4
  if op ≤ 1 then []
  else (if op = 4 ∧ c.f 0x08 8 = 0 then [] else [⟨c.w 0x08, len, false, true, 1⟩]) ++
    [⟨c.w 0x10, if op = 3 then c.f 0x26 2 * len else len, true, false, 1⟩]

namespace State

/-- The module digest of the issuing gang, members in ascending tile ID (R420). -/
def moduleDigest (s : State) : Word :=
  (s.myGang.members.mergeSort (fun a b => a ≤ b)).foldl (fun d m => d.rotateLeft 5 ^^^ (s.ctx m).regs.burg) 0

end State

def execAcoll (g : BitVec 4) (t a : BitVec 6) (e : BitVec 1) (k : BitVec 4) (s : State) : Res1 :=
  .next (s.command 0x34 g t a e k true Cmd.collBad (fun _ n => n) Cmd.collAreas fun c =>
    if 2 ≤ bits (c.f 0 1) 0 3 then { c with mdig := s.moduleDigest } else c)

def Cmd.castBad (c : Cmd) : Bool :=
  c.f 0 4 != 0 || bits (c.f 0x10 8) 57 7 != 0 || c.f 0x10 8 % 64 != 0 || bits (c.f 0x18 8) 57 7 != 0 ||
  c.f 0x18 8 % 8 != 0 || c.f 0x20 4 = 0 || c.f 0x20 4 % 64 != 0 || 1023 < c.f 0x24 2 || !(c.zeros 0x26 0x30)

def execAmcast (g : BitVec 4) (t a : BitVec 6) (e : BitVec 1) (k : BitVec 4) (s : State) : Res1 :=
  .next (s.command 0x35 g t a e k true Cmd.castBad (fun _ n => n)
    (fun c => [⟨c.w 0x08, c.f 0x20 4, false, false, 1⟩]) id)

/-! ### Barriers (R365) -/

/-- Block checks of the three barrier commands; `barinit` refuses 0 arrivals. -/
def Cmd.barBad (init : Bool) (c : Cmd) : Bool :=
  4 < bits (c.f 0 1) 0 3 || bits (c.f 0 4) 3 29 != 0 || !(c.zeros 0x1C 0x30) || (init && c.f 0x10 4 = 0)

def Cmd.barAreas (write : Bool) (c : Cmd) : List Area := [⟨c.w 0x08, 16, write, false, 16⟩]

def execBarinit (g : BitVec 4) (t a : BitVec 6) (e : BitVec 1) (k : BitVec 4) (s : State) : Res1 :=
  .next (s.command 0x3A g t a e k true (Cmd.barBad true) (fun _ n => n) (Cmd.barAreas true) id)

def execBararv (g : BitVec 4) (t a : BitVec 6) (e : BitVec 1) (k : BitVec 4) (s : State) : Res1 :=
  .next (s.command 0x3B g t a e k true (Cmd.barBad false) (fun _ n => n) (Cmd.barAreas true) id)

def execBarwait (g : BitVec 4) (t a : BitVec 6) (e : BitVec 1) (k : BitVec 4) (s : State) : Res1 :=
  .next (s.command 0x3C g t a e k false (Cmd.barBad false) (fun _ n => n) (Cmd.barAreas false) id)

/-- `fence`: no block, no record (R366). -/
def execFence (g : BitVec 4) (t : BitVec 6) (u : BitVec 3) (e : BitVec 1) (k : BitVec 4) (s : State) : Res1 :=
  .next (s.guarded g (if 64 ≤ State.outstanding s.me then s.slip 0x08
    else s.bindCmd t.toNat false {
      op := 0x3D,
      cnt := if e = 1 then some k.toNat else none,
      scope := u.toNat,
      issued := s.beat,
      wake := s.beat + 1 }))

/-! ### Array-engine commands (R315-R317) -/

def Cmd.win (c : Cmd) : ArrWindow := windowOf (c.f 0x08 8)

/-- Element size in memory and row pitch (R316, R319). -/
def Cmd.elem (c : Cmd) : Nat := if (c.f 0 1).testBit 6 then 2 else 4
def Cmd.pitch (c : Cmd) : Nat := if c.f 0x24 4 = 0 then c.win.cols * c.elem else c.f 0x24 4

/-- Bytes a window covers in memory. -/
def Cmd.planeLen (c : Cmd) : Nat := (c.win.rows - 1) * c.pitch + c.win.cols * c.elem

/-- The block checks of R317 steps 2 to 4, by opcode. -/
def Cmd.arrBad (c : Cmd) : Bool :=
  let ck := c.op = 0x36
  let pg := c.op = 0x37
  let arr := bits (c.f 0 1) 4 2
  let iter := bits (c.f 2 1) 0 4
  let mem := ck || pg
  let tol := c.f 0x22 2
  (c.f 0 1).testBit 7 || bits (c.f 0 4) 20 12 != 0 || !(c.zeros 0x30 0x40) || arr = 3 ||
  (pg && 1 < arr) || (c.op = 0x38 && arr != 0) || (!ck && c.f 1 1 != 0) ||
  (if pg then iter = 0 || 8 < iter else iter != 0) ||
  (if mem then c.f 0x0C 4 ≥ 16 || !c.win.valid else c.f 0x08 8 != 0) || (!mem && c.f 0x10 8 != 0) ||
  (!(pg && arr = 1) && c.f 0x18 8 != 0) || (!(ck && arr = 0) && c.f 0x20 2 != 0) || (!pg && tol != 0) ||
  (!pg && c.f 0x28 8 != 0) ||
  (ck && arr = 0 && !(gammaValid (c.f 0x20 2))) || (pg && (tol = 0 || 0x7F80 ≤ tol)) ||
  (c.f 0x24 4 != 0 && (c.f 0x24 4 < c.win.cols * c.elem || c.f 0x24 4 % c.elem != 0))

def Cmd.arrAreas (c : Cmd) : List Area :=
  match c.op with
  | 0x36 => [⟨c.w 0x10, c.planeLen, true, false, 1⟩]
  | 0x37 => [⟨c.w 0x10, c.planeLen, false, false, 1⟩] ++
      (if bits (c.f 0 1) 4 2 = 1 then [⟨c.w 0x18, c.planeLen, false, false, 1⟩] else []) ++
      (if c.f 0x28 8 = 0 then [] else [⟨c.w 0x28, 2 * c.win.rows, true, false, 1⟩])
  | _ => []

/-- The pair an array-engine command names. -/
def Cmd.pairNo (c : Cmd) : Nat := bits (c.f 0 1) 0 4

def State.arrCommand (s : State) (op : Nat) (upd : Bool) (g : BitVec 4) (t a : BitVec 6) (e : BitVec 1) (k : BitVec 4) :
    State :=
  s.command op g t a e k upd Cmd.arrBad (fun c n => s.granted c.pairNo upd n) Cmd.arrAreas id

def execXckpt (g : BitVec 4) (t a : BitVec 6) (e : BitVec 1) (k : BitVec 4) (s : State) : Res1 :=
  .next (s.arrCommand 0x36 false g t a e k)

def execXprog (g : BitVec 4) (t a : BitVec 6) (e : BitVec 1) (k : BitVec 4) (s : State) : Res1 :=
  .next (s.arrCommand 0x37 true g t a e k)

def execXcal (g : BitVec 4) (t a : BitVec 6) (e : BitVec 1) (k : BitVec 4) (s : State) : Res1 :=
  .next (s.arrCommand 0x38 true g t a e k)

def execXsym (g : BitVec 4) (t a : BitVec 6) (e : BitVec 1) (k : BitVec 4) (s : State) : Res1 :=
  .next (s.arrCommand 0x39 true g t a e k)

/-! ### Completion (R349-R353, R422) -/

/-- Whether a completion with this status raises a fault on the tile, and which (R353, R419). -/
def statusFault (st : Nat) : Option (Nat × Nat) :=
  match st with
  | 0x03 => some (0x0A, 1)
  | 0x0A => some (0x0D, 0)
  | 0x10 => some (0x0F, 0)
  | 0x11 => some (0x10, 0)
  | _ => none

namespace State

/-- FLAGS of the RCB through which the issuing slice is charged, for a status that has the dispatcher hold it (R422). -/
def holdRuns (s : State) (c status : Nat) : List (Nat × Nat) :=
  if 0x10 ≤ status ∧ status ≤ 0x12 then ((s.gang (s.ctx c).gang).slice.chain.take 1).map fun a => (a + 0x16, 2) else []

/-- The die of the dispatch engine that serves the queue of a context's slice (R329). -/
def engineDie (s : State) (c : Nat) : Nat := queueDie (s.gang (s.ctx c).gang).slice.queue

/-- The dispatcher sets DHOLD there (R422). -/
def setDhold (s : State) (c status : Nat) : State :=
  s.byDie (s.engineDie c) fun t => (s.holdRuns c status).foldl (fun t x => t.ctlWrNat x.1 2 (t.ctlNat x.1 2 ||| 4)) t

/-- A counter increment: a `waitk` that it satisfies may end at the next beat (R350, R356, R357). -/
def countUp (s : State) (c k : Nat) : State :=
  s.modCtx c fun x =>
    let y := { x with regs := { x.regs with k := tset x.regs.k k (tget 0 x.regs.k k + 1) } }
    { y with wait := y.wait.map fun w =>
        if w.pend && w.k = k && reached y k w.n then { w with pend := false, w := s.beat } else w }

/-- Set what a command writes to its block with its record: RESULT or MDIG (R362, R365, R420). -/
def setResult (s : State) (c i o : Nat) (bs : List Byte) : State := s.modCmd c i fun k => { k with result := some (o, bs) }

/-- The pieces of a command's block that its completion writes: RESULT or MDIG, and the record (R349). -/
def endWrites (k : Cmd) (record : List Byte) : List (Nat × List Byte) :=
  k.result.toList ++ (if k.op = 0x3D then [] else [(0x30, record)])

/-- The forwarding of a page that a command has moved ends 65,536 beats after BEAT of the command's record (R369). -/
def recordedMove (s : State) (c i : Nat) : State :=
  let late (f : Forward) : Forward := if f.own = some (c, i) then { f with last := s.beat + 65536, own := none } else f
  if s.forwards.isEmpty then s else { s with forwards := s.forwards.map late }

/-- Complete a command: its record, then its token and counter in one step (R349, R350). A fence writes no record; a pair
it holds is released (R293). -/
def finishNow (s : State) (c i status detail : Nat) : State :=
  let k := s.cmd c i
  let s := (s.setDhold c status).recordedMove c i
  let src := if 0x36 ≤ k.op ∧ k.op ≤ 0x39 then srcArray (tileOf c) else srcEngine (tileOf c)
  let (q, t) := if k.op = 0x3D then (0, s) else s.nextSeq src
  let rec' := leBytes 8 s.beat ++ leBytes 2 q.toNat ++ leBytes 1 status ++ leBytes 1 k.pois.toNat ++ leBytes 4 detail
  let t := (endWrites k rec').foldl (fun t x => t.wr (poolAt (tileOf c) (k.pos + x.1)) x.2 false) t
  let t := if k.pairHeld then t.modPair (16 * tileOf c + k.pairNo) fun p => { p with
      pstate := if p.pstate = 1 then 0 else p.pstate,
      freed := s.beat + 1 } else t
  let t := t.modCmd c i fun k => { k with
    status := status,
    detail := detail,
    ending := none,
    pairHeld := false,
    done := s.beat }
  match k.cnt with
  | some n => t.countUp c n
  | none => t

/-- Whether a command that has made its accesses must still wait: what it has written or read has not reached memory, the RCB to
be held cannot be written now, an earlier fence or acquire of its tile holds back its RESULT or MDIG, or a timetabled claim holds the
bank-cycles of its record (R241, R246, R252, R254, R350, R413, R422). -/
def endWaits (s : State) (c i status : Nat) : Bool :=
  let k := s.cmd c i
  s.unsettled (.cmd c i) || (!(s.holdRuns c status).isEmpty && !((s.onDie (s.engineDie c)).ctlReady (s.holdRuns c status))) ||
    (k.result.any fun x => s.fenced c k.issued (poolAt (tileOf c) (k.pos + x.1))) ||
    (endWrites k (leBytes 16 0)).any fun x => s.bankBusy (tileOf c) (k.pos + x.1) x.2.length

/-- Complete a command, at once or as soon as nothing keeps it waiting (R350). -/
def finish (s : State) (c i status detail : Nat) : State :=
  if s.endWaits c i status then
    (if s.openNow then s.byDie (s.engineDie c) fun t => t.askGaps (s.holdRuns c status) else s).modCmd c i fun k => { k with
      started := true,
      ending := some (status, detail),
      wake := s.beat + 1 }
  else s.finishNow c i status detail

/-- DETAIL of PAGE_FAULT and BOUNDS: progress, extent index and reason (R349). -/
def pageDetail (progress ext reason : Nat) : Nat := progress % 65536 + ext * 65536 + reason * 2 ^ 24

/-- A page-fault completion: progress, extent index and reason in DETAIL, and the page request with the address that met it
(R349). -/
def pageFault (s : State) (c i progress ext reason asid va : Nat) : State :=
  ({ s with pageReqs := (asid, va) :: s.pageReqs }).finish c i 0x02 (pageDetail progress ext reason)

/-- The first producer of a command that did not complete OK, by R352: POISON before any other status. -/
def chainStatus (s : State) (c : Nat) (k : Cmd) : Option (Nat × Nat) :=
  let st := k.prods.map fun p => (s.cmd c p).status
  if st.contains 0x03 then some (0x03, 0)
  else (st.find? fun x => x != 1).map fun x => (0x0B, x)

/-- Whether every producer of a command has completed (R248). -/
def producersDone (s : State) (c : Nat) (k : Cmd) : Bool := k.prods.all fun p => (s.cmd c p).isDone

end State

end Sys2Proof.Machine
end

