-- ==== Sys2Proof/Machine/Fabric.lean ====
section
/-! DEFINITION. The fabric: groups, reduction windows and epochs, collective instances, verdicts, messages (spec 21
R410-R424, R445). Each module holds a copy of its switches' state, and every contribution goes to every member of its
group, line by line on the line's plane (log entry 23). -/

namespace Sys2Proof.Machine

/-- Message operations of CMD; their coding is the model's (log entry 23). -/
def msgCopy : Nat := 0
def msgCopied : Nat := 1
def msgReduce : Nat := 2
def msgCast : Nat := 3
def msgCastEnd : Nat := 4
def msgCastDone : Nat := 5
def msgJoin : Nat := 6
def msgWindow : Nat := 7
def msgUnwindow : Nat := 8
def msgWindowed : Nat := 9
def msgLine : Nat := 10
def msgRetry : Nat := 30
def msgAck : Nat := 31

/-! ### Element arithmetic of a merge (R69, R416) -/

/-- The identity of an operator in a format (R416). -/
def redIdentity (rop fmt : Nat) : Nat :=
  let w := 8 * redBytes fmt
  match rop with
  | 0 => 0
  | 1 => match fmt with
    | 0x8 => infBits .bf16 false
    | 0x9 => infBits .fp32 false
    | 0x2 | 0x3 => 2 ^ (w - 1) - 1
    | _ => 2 ^ w - 1
  | _ => match fmt with
    | 0x8 => infBits .bf16 true
    | 0x9 => infBits .fp32 true
    | 0x2 | 0x3 => 2 ^ (w - 1)
    | _ => 0

/-- One step of a merge in ascending rank (R69, R416). -/
def redStep (rop fmt a b : Nat) : Nat :=
  let w := 8 * redBytes fmt
  let fl := fmt = 0x8 || fmt = 0x9
  let F : Fmt := if fmt = 0x8 then .bf16 else .fp32
  match rop with
  | 0 => if fl then (fpAdd F .rne 0 a b).1 else (a + b) % 2 ^ w
  | _ =>
    if fl then (fpMinMax (rop = 2) F a b).1
    else
      let lt := if fmt = 0x2 || fmt = 0x3 then sextN w a ≤ sextN w b else a ≤ b
      if (rop = 1) = lt then a else b

/-- A NaN of a floating-point window is written canonical (R416). -/
def redCanon (fmt v : Nat) : Nat :=
  let F : Fmt := if fmt = 0x8 then .bf16 else .fp32
  if (fmt = 0x8 || fmt = 0x9) && (Ex.ofBits F v).isNan then nanBits F else v

/-- The bytes of a part at offset `o` of its line, `z` of them, where it covers them all. -/
def Part.elem (p : Part) (o z : Nat) : Option Nat :=
  if p.lo ≤ o && o + z ≤ p.lo + p.data.length then some (leNat ((p.data.drop (o - p.lo)).take z)) else none

/-- The merged line: byte offset and bytes of each element that some part covers; parts in ascending rank (R416). -/
def mergeLine (rop fmt : Nat) (ps : List Part) : List (Nat × List Byte) :=
  let z := redBytes fmt
  (List.range (64 / z)).filterMap fun e =>
    let vs := ps.map fun p => p.elem (z * e) z
    if vs.all Option.isNone then none
    else
      let xs := vs.map fun v => v.getD (redIdentity rop fmt)
      some (z * e, leBytes z (redCanon fmt (xs.tail.foldl (redStep rop fmt) (xs.headD 0))))

namespace State

/-! ### Groups and windows (R414, R415) -/

/-- A group's entry of the group table, as a run of control addresses (R414). -/
def groupRun (s : State) (gid : Nat) : List (Nat × Nat) := [(s.grptab + 256 * gid, 256)]

/-- Whether a group's entry can be read now: there is no table, or its page is there and not held (R210, R325, R368, R426). -/
def groupReady (s : State) (gid : Nat) : Bool := s.grptab = 0 || s.ctlReady (s.groupRun gid)

/-- A group's entry is read: its leaf is cached (R199). -/
def groupUse (s : State) (gid : Nat) : State := if s.grptab = 0 then s else s.ctlUse (s.groupRun gid)

/-- System software is asked for the page of a group's entry (R200, R325). -/
def groupAsk (s : State) (gid : Nat) : State := if s.grptab = 0 then s else s.askGaps (s.groupRun gid)

/-- Member count of a group; 0 for an unused entry or a table that does not exist (R414, R426). -/
def groupN (s : State) (gid : Nat) : Nat :=
  if s.grptab = 0 then 0
  else
    let n := s.ctlNat (s.grptab + 256 * gid) 2
    if n ≤ 120 then n else 0

def groupTmo (s : State) (gid : Nat) : Nat := if s.grptab = 0 then 0 else s.ctlNat (s.grptab + 256 * gid + 4) 4

/-- FNUMs of a group's ranks. -/
def groupRanks (s : State) (gid : Nat) : List Nat :=
  (List.range (s.groupN gid)).map fun r => s.ctlNat (s.grptab + 256 * gid + 0x10 + 2 * r) 2

/-- The rank of a module in a group. -/
def rankOf (s : State) (gid fn : Nat) : Option Nat :=
  ((List.range (s.groupN gid)).zip (s.groupRanks gid)).find? (fun (_, f) => f = fn) |>.map (·.1)

/-- The window that holds a range of an address space whole. -/
def winOf (s : State) (asid va len : Nat) : Option Window :=
  s.windows.find? fun w => w.asid = asid && w.base ≤ va && va + len ≤ w.base + w.len

/-- Whether a range overlaps a registered window. -/
def winClash (s : State) (asid base len : Nat) : Bool :=
  s.windows.any fun w => w.asid = asid && w.base < base + len && base < w.base + w.len

/-! ### Links (R411, R412) -/

/-- The plane of a 64-byte line, and the port that reaches it (R411). -/
def planeOf (a : Nat) : Nat := a / 64 % 18

/-- Key of a virtual channel of a port. -/
def vcKey (f : Sent) : Nat := 4 * f.port + f.vc

/-- Put a flit on its link: its sequence number, the acknowledgement, how many credits have been given back so far, which no
lost flit can lose, and its own copy kept until it is acknowledged (R412). Link-control flits have no sequence number. -/
def emit (s : State) (f : Sent) : State :=
  let ctl := f.op = msgRetry || f.op = msgAck
  let q := tget 0 s.txSeq f.port
  let g := { f with
    lseq := if ctl then 0 else q,
    ack := tget 0 s.rxSeq f.port,
    credit := (List.range 4).map fun v => tget 0 s.owed (4 * f.port + v) }
  let t := { s with sent := g :: s.sent }
  if ctl then t
  else { t with
    unacked := t.unacked ++ [g],
    txSeq := tset t.txSeq f.port ((q + 1) % 2 ^ 32) }

/-- Whether a flit has a credit of its virtual channel (R412, log entry 23). -/
def hasCredit (s : State) (f : Sent) : Bool := tget 0 s.credits (vcKey f) < Config.credits + 1

/-- Give a flit to its link: at once with a credit, behind those that wait for one without. -/
def offer (s : State) (f : Sent) : State :=
  if s.hasCredit f && !(s.txWait.any fun g => vcKey g = vcKey f) then
    { s with credits := tset s.credits (vcKey f) (tget 0 s.credits (vcKey f) + 1) }.emit f
  else { s with txWait := s.txWait ++ [f] }

/-- Flits that waited for a credit, in their order. -/
def offerAgain (s : State) : State := s.txWait.foldl offer { s with txWait := [] }

/-- Send a message to a module on the plane of an address, with at most one line of data (R411, R412). -/
def send (s : State) (dfn vc asid a op : Nat) (words : List Nat) (data : List Byte) : State :=
  s.offer { port := planeOf a, dfn := dfn, sfn := s.fnum.toNat, vc := vc, asid := asid, op := op, words := words, data := data }

/-- Send a message to every other member of a group. -/
def sendGroup (s : State) (gid vc asid a op : Nat) (words : List Nat) (data : List Byte) : State :=
  ((s.groupRanks gid).filter fun f => f != s.fnum.toNat).foldl (fun t f => t.send f vc asid a op words data) s

/-! ### Merging (R414, R416) -/

/-- End the command that made a contribution, or its instance, with GROUP_MISMATCH (R414). -/
def mismatch (s : State) (src : Option (Nat × Nat)) : State :=
  match src with
  | none => s
  | some (c, i) =>
    if (s.cmd c i).op = 0x34 then { s with insts := (s.insts.map fun (q : Inst) => if q.cmd = some (c, i) then { q with ends := 0x14 } else q) }
    else if (s.cmd c i).isDone then s
    else s.modCmd c i fun k => { k with stop := some (0x14, 0) }

/-- A contribution reaches the root switch of a line. Two values of N, or two senders claiming one rank, end the operation on
the line (R414). -/
def addPart (s : State) (asid line : Nat) (p : Part) : State :=
  match s.merges.find? fun m => m.asid = asid && m.line = line with
  | none => { s with merges := s.merges ++ [⟨asid, line, [p]⟩] }
  | some m =>
    if m.parts.any fun q => q.n != p.n || (q.rank = p.rank && q.sfn != p.sfn) then
      (p :: m.parts).foldl (fun t q => t.mismatch q.src) { s with merges := s.merges.filter fun x => x != m }
    else
      let n : Merge := { m with parts := m.parts ++ [p] }
      { s with merges := s.merges.map fun x => if x = m then n else x }

/-- Cut a contribution into lines and add each (R411, R416). -/
def addParts (s : State) (asid va rank sfn n : Nat) (src : Option (Nat × Nat)) (bs : List Byte) : State :=
  (pieces va bs.length).foldl (fun t (a, k) =>
    t.addPart asid (a / 64) ⟨rank, sfn, n, a % 64, (bs.drop (a - va)).take k, src⟩) s

end State

/-- The member count that the contributions to a line carry (R414). -/
def Merge.count (m : Merge) : Nat :=
  match m.parts with
  | [] => 0
  | p :: _ => p.n

/-- The parts of the open epoch: the first of each rank. -/
def Merge.epoch (m : Merge) (n : Nat) : List Part :=
  (List.range n).filterMap fun r => m.parts.find? fun p => p.rank = r

/-- CRC-32C over one more byte (R361). -/
def crc32c (c : Nat) (b : Byte) : Nat :=
  (List.range 8).foldl (fun c _ => if c % 2 = 1 then (c / 2) ^^^ 0x82F63B78 else c / 2) (c ^^^ b.toNat)

namespace State

/-! ### Writes held for a page (R416, R445) -/

/-- Hold a write to this module's memory until it can be made. -/
def holdWrite (s : State) (asid va : Nat) (bs : List Byte) : State :=
  { s with heldWrites := s.heldWrites ++ [⟨asid, va, bs, s.beat⟩] }

/-- Whether a held write lies on a line. -/
def HeldWrite.onLine (h : HeldWrite) (asid line : Nat) : Bool := h.asid = asid && h.va / 64 = line

/-- Try the oldest held write of a line: it is made, or waits again, with a page request when its page is missing; die 0's walker
serves it (log entry 77). -/
def tryHeld (s : State) (asid line : Nat) : State :=
  match s.heldWrites.find? fun h => HeldWrite.onLine h asid line with
  | none => s
  | some h =>
    let later (t : State) (n : Nat) : State :=
      { t with heldWrites := (t.heldWrites.map fun k => if k = h then { h with tryAt := s.beat + n } else k) }
    match ({ s with asker := .line asid line } : State).vwrite 0 asid h.va (clean h.data) with
    | .ok _ t => { t with heldWrites := t.heldWrites.erase h }
    | .hold q => later ({ s with asker := .line asid line }.joinQueue q) 1
    | .fault _ va => later { s with
        pageReqs := if s.pageReqs.contains (asid, va) then s.pageReqs else (asid, va) :: s.pageReqs } 64

/-- Whether a line has a write held for it. -/
def lineHeld (s : State) (asid line : Nat) : Bool := s.heldWrites.any fun h => HeldWrite.onLine h asid line

/-! ### Closing an epoch (R416, R418) -/

/-- Change the instance of a group with a number. -/
def modInst (s : State) (gid k : Nat) (f : Inst → Inst) : State :=
  { s with insts := (s.insts.map fun i => if i.gid = gid ∧ i.k = k then f i else i) }

/-- The bytes of a run at `a` that fall in `[lo, hi)`, with their address. -/
def clip (lo hi a : Nat) (bs : List Byte) : Nat × List Byte :=
  let d := lo - a
  (a + d, (bs.drop d).take (hi - (a + d)))

/-- Virtual address of a command's DST. -/
def dstVa (s : State) (c : Nat) (k : Cmd) : Nat :=
  (tget {} (s.ctx c).extents (k.f 0x17 1)).base.toNat + bits (k.f 0x10 8) 0 56

/-- Hand the merged elements of a line to this module's own ALLREDUCE. -/
def deliverLine (s : State) (line : Nat) (els : List (Nat × List Byte)) (p : Part) : State :=
  match p.src with
  | none => s
  | some (c, i) =>
    let k := s.cmd c i
    if k.op != 0x34 then s
    else
      let lo := k.f 0x18 8
      let d := s.dstVa c k
      let out : List (Nat × List Byte) :=
        (els.map fun x => clip lo (lo + k.f 0x20 4) (64 * line + x.1) x.2).filter fun x => !x.2.isEmpty
      let put : List (Nat × List Byte) := out.map fun x => (d + (x.1 - lo), x.2)
      { s with insts := (s.insts.map fun (q : Inst) =>
        if q.cmd = some (c, i) then { q with todo := q.todo ++ put, lines := q.lines + 1 } else q) }

/-- Close the open epoch of a line, once every rank has contributed: merge in ascending rank, write the covered
elements where this module is the home, deliver to its collectives. -/
def closeEpoch (s : State) (asid line : Nat) : State :=
  match s.winOf asid (64 * line) 64, s.merges.find? fun m => m.asid = asid && m.line = line with
  | some w, some m =>
    let n := m.count
    let ps := m.epoch n
    if n = 0 || ps.length < n then s
    else
      let els := mergeLine w.rop w.fmt ps
      let t := { s with merges := (s.merges.map fun q =>
        if q = m then { q with parts := ps.foldl List.erase q.parts } else q).filter fun q => !q.parts.isEmpty }
      let t := if w.home = s.fnum.toNat then
          els.foldl (fun t (o, bs) => t.holdWrite asid (64 * line + o) bs) t
        else t
      ps.foldl (fun t p => t.deliverLine line els p) t
  | _, _ => s

end State

/-- A line whose open epoch every rank has joined merges at its root switch; a merged line that waits for its page is
tried first, and later epochs of the line wait behind it (R416). Operands: ASID and line number. -/
def execReductionEpochClose (s : State) : Res1 :=
  .next (if s.lineHeld (s.arg 0) (s.arg 1) then s.tryHeld (s.arg 0) (s.arg 1) else s.closeEpoch (s.arg 0) (s.arg 1))

namespace State

/-! ### Instances (R414, R418, R445) -/

/-- Find an instance. -/
def inst (s : State) (gid k : Nat) : Option Inst := s.insts.find? fun i => i.gid = gid && i.k = k

/-- An instance as its first contribution finds it. -/
def newInst (s : State) (gid k : Nat) : State :=
  if (s.inst gid k).isSome then s else { s with insts := s.insts ++ [{ gid := gid, k := k, first := s.beat }] }

/-- A rank's contribution reaches an instance: two values of N, or two senders claiming one rank, end it (R414). -/
def join (s : State) (gid k rank : Nat) (j : Joined) : State :=
  (s.newInst gid k).modInst gid k fun i =>
    if i.ends != 0 then i
    else if (tfind i.ranks rank).isSome || i.ranks.any fun (_, q) => q.n != j.n then { i with ends := 0x14 }
    else { i with ranks := tset i.ranks rank j }

/-- A line of a rank's contribution reaches an instance (R411, R418). -/
def giveLine (s : State) (gid k rank off : Nat) (bs : List Byte) : State :=
  (s.newInst gid k).modInst gid k fun i => { i with given := i.given ++ [(rank, off, bs)] }

/-- Bytes a rank contributes to an instance (R418). -/
def Joined.bytes (j : Joined) (rank : Nat) : Nat := if j.op = 4 ∧ rank ≠ j.aux then 0 else j.len

/-- The lines that a rank has contributed, in order, as one run of bytes. -/
def Inst.data (i : Inst) (rank : Nat) : List Byte :=
  ((i.given.filter fun x => x.1 = rank).mergeSort fun a b => a.2.1 ≤ b.2.1).flatMap fun x => x.2.2

/-- Whether every rank of an instance has contributed, with all of its lines. -/
def Inst.full (i : Inst) : Bool :=
  match i.ranks with
  | [] => false
  | (_, j) :: _ => i.ranks.length = j.n && i.ranks.all fun (r, q) => (Inst.data i r).length = Joined.bytes q r

/-- The check of a paired instance: 0, GROUP_MISMATCH or WINDOW_MISMATCH (R418, R445). -/
def instStatus (s : State) (asid : Nat) (i : Inst) : Nat :=
  match i.ranks with
  | [] => 0
  | (_, j) :: r =>
    if r.any fun (_, q) => q.op != j.op || q.len != j.len || q.waddr != j.waddr || q.aux != j.aux then 0x14
    else if j.op = 3 ∧ j.aux ≠ j.n then 0x14
    else if j.op = 4 ∧ j.n ≤ j.aux then 0x14
    else if j.op = 2 then
      match s.winOf asid j.waddr j.len with
      | some w => if w.gid = i.gid ∧ w.rop < 3 ∧ j.len % redBytes w.fmt = 0 then 0 else 0x05
      | none => 0x05
    else if j.op = 3 then
      match s.winOf asid j.waddr (j.n * j.len) with
      | some w => if w.gid = i.gid ∧ w.rop = 3 then 0 else 0x05
      | none => 0x05
    else 0

/-- Deliveries of an instance that passed its check: an ALLREDUCE contributes to its window, an ALLGATHER and a
BROADCAST deliver unchanged bytes (R416, R418). -/
def spread (s : State) (c n : Nat) (i : Inst) : State :=
  let asid := (s.ctx c).asid.toNat
  let k := s.cmd c n
  let d := s.dstVa c k
  match i.ranks with
  | [] => s
  | (_, j) :: _ =>
    if j.op = 2 then
      i.ranks.foldl (fun t (r, q) => t.addParts asid j.waddr r q.sfn j.n (if q.sfn = s.fnum.toNat then some (c, n) else none) (Inst.data i r)) s
    else
      let bs := if j.op = 3 then i.ranks.flatMap fun (r, _) => Inst.data i r else Inst.data i j.aux
      let put := (pieces d bs.length).map fun (a, m) => (a, (bs.drop (a - d)).take m)
      let t := s.modInst i.gid i.k fun q => { q with todo := put }
      if j.op = 3 then
        match s.winOf asid j.waddr bs.length with
        | some w => if w.home = s.fnum.toNat then
            (pieces j.waddr bs.length).foldl (fun t (a, m) => t.holdWrite asid a ((bs.drop (a - j.waddr)).take m)) t
          else t
        | none => t
      else t

/-- Judge an instance once every rank has contributed (R445). -/
def judge (s : State) (gid k : Nat) : State :=
  match s.inst gid k with
  | none => s
  | some i =>
    match i.cmd with
    | none => s
    | some (c, n) =>
      if i.judged || i.ends != 0 || !(Inst.full i) then s
      else
        let st := s.instStatus (s.ctx c).asid.toNat i
        let t := s.modInst gid k fun q => { q with judged := true, ends := st }
        if st = 0 then t.spread c n { i with judged := true } else t

/-! ### Verdict (R421) -/

/-- Times a digest occurs. -/
def votes (ds : List Word) (d : Word) : Nat := (ds.filter fun x => x = d).length

/-- The value carried by more than half of the ranks, if any. -/
def majorityOf (ds : List Word) : Option Word := ds.find? fun d => ds.length < 2 * votes ds d

/-- Status of the member that sent `own`, and the size of the majority (R419, R421). -/
def verdictOf (ds : List Word) (own : Word) (majgo : Bool) : Nat × Nat :=
  match majorityOf ds with
  | none => (0x11, 0)
  | some m =>
    let v := votes ds m
    (if v = ds.length then 0x01 else if own ≠ m then 0x10 else if majgo then 0x01 else 0x12, v)

/-- Effective MAJGO of the slice a context runs. -/
def majgoOf (s : State) (c : Nat) : Bool := (s.gang (s.ctx c).gang).slice.majgo

end State

/-- The root switch of plane 0 compares the digests of an instance and gives this module its verdict (R421). Operands:
group and number. -/
def execBurgeeVerdict (s : State) : Res1 :=
  .next (match s.inst (s.arg 0) (s.arg 1) with
    | none => s
    | some i => match i.cmd with
      | none => s
      | some (c, n) =>
        if i.verdict != 0 || i.ends != 0 || !(State.Inst.full i) then s
        else
          let (v, m) := State.verdictOf (i.ranks.map fun x => x.2.digest) (s.cmd c n).mdig (s.majgoOf c)
          s.modInst i.gid i.k fun q => { q with verdict := v, majority := m })

/-- TMO beats after its first contribution, an instance that lacks a rank closes with PEER_TIMEOUT (R418). -/
def execPeerTimeout (s : State) : Res1 :=
  .next (match s.inst (s.arg 0) (s.arg 1) with
    | none => s
    | some i =>
      if s.groupReady i.gid ∧ i.ends = 0 ∧ !(State.Inst.full i) ∧ s.groupTmo i.gid ≠ 0 ∧ i.first + s.groupTmo i.gid ≤ s.beat then
        (s.groupUse i.gid).modInst i.gid i.k fun q => { q with ends := 0x15 }
      else s)

/-! ### Flits received (R412, R424) -/

namespace State

/-- Whether a multicast being received is that of a sender, a context, a command and a run of it. -/
def CastIn.is (k : CastIn) (sfn c i run : Nat) : Bool := k.sfn = sfn && k.ctx = c && k.cmd = i && k.run = run

/-- Change a multicast being received, starting it if it is new. -/
def modCast (s : State) (sfn c i run : Nat) (f : CastIn → CastIn) : State :=
  if s.casts.any fun k => CastIn.is k sfn c i run then
    { s with casts := (s.casts.map fun k => if CastIn.is k sfn c i run then f k else k) }
  else { s with casts := s.casts ++ [f { sfn := sfn, ctx := c, cmd := i, run := run }] }

/-- A line of a multicast has come, and has been written or has failed at an address (R424). -/
def castLine (s : State) (sfn c i run n : Nat) (bad : Option Nat) : State :=
  s.modCast sfn c i run fun k => { k with
    got := k.got + n,
    fail := k.fail.or bad }

/-- A multicast whose bytes have all come counts its flag and answers; after a failure it answers with the address (R424). -/
def endCast (s : State) (asid sfn c i run : Nat) : Got Unit :=
  match s.casts.find? fun k => CastIn.is k sfn c i run with
  | none => .ok () s
  | some k =>
    match k.total with
    | none => .ok () s
    | some (len, flagw) =>
      if k.got < len then .ok () s
      else
        let t := { s with casts := s.casts.erase k }
        let reply (ok va : Nat) (t : State) : Got Unit := .ok () (t.send sfn 1 asid flagw msgCastDone [c, i, run, ok, va] [])
        match k.fail with
        | some va => reply 0 va t
        | none =>
          if flagw = 0 then reply 1 0 t
          else
            match t.vread 0 asid flagw 8 with
            | .fault _ va => reply 0 va t
            | .hold q => .hold q
            | .ok (bs, _) u =>
              match u.vwrite 0 asid flagw (clean (leBytes 8 (leNat bs + 1))) with
              | .ok _ w => reply 1 0 w
              | .fault _ va => reply 0 va t
              | .hold q => .hold q

/-- Bytes of a line with the marks a word of bits gives them (R360, log entry 23). -/
def withMarks (m : Nat) (bs : List Byte) : List (Byte × Bool) := ((List.range bs.length).zip bs).map fun (n, b) => (b, m.testBit n)

/-- The answer to a line of a copy at an address, for the run of the copy that sent it; the lines before it have been written
(R349, R355, R359, R361). -/
def copied (s : State) (c i gen ok crc va : Nat) : State :=
  let k := s.cmd c i
  if k.op != 0x30 || k.isDone || k.cancelled || k.gen != gen then s
  else
    let rows := if bits (k.f 0 1) 0 2 = 1 then (va - k.f 0x10 8) / k.f 0x18 4 else 0
    if ok = 0 then s.pageFault c i rows 0 4 (s.ctx c).asid.toNat va
    else s.modCmd c i fun k => { k with
      answers := k.answers + 1,
      crc := (k.crc.map fun _ => crc),
      wake := min k.wake (s.beat + 1) }

/-- Ask system software for the page of a failed access (R349). -/
def wantPage (s : State) (asid va : Nat) : State := { s with pageReqs := (asid, va) :: s.pageReqs }

/-- One more answer to a run of a command that waits for it. -/
def answered (s : State) (c i run : Nat) (op : Nat) (f : Cmd → Cmd) : State :=
  let k := s.cmd c i
  if k.op != op || k.isDone || k.gen != run then s
  else s.modCmd c i fun k => f { k with
    answers := k.answers + 1,
    wake := min k.wake (s.beat + 1) }

/-- A receiver's answer to a multicast: a failure there asks for its page, and ends the command once every receiver has answered
(R349, R350, R424). -/
def castDone (s : State) (asid c i run ok va : Nat) : State :=
  let k := s.cmd c i
  if k.op != 0x35 || k.isDone || k.gen != run then s
  else if ok = 1 then s.answered c i run 0x35 id
  else s.answered c i run 0x35 (fun k => { k with stop := k.stop.or (some (0x02, pageDetail 0 0 4)) }) |>.wantPage asid va

/-- Act on an accepted message, or wait for a committing page (R368); its accesses are served by die 0's walker (log entry 77). -/
def message (s : State) (f : Sent) : Got Unit :=
  let w (n : Nat) : Nat := f.words.getD n 0
  match f.op with
  | 0 => match s.vwrite 0 f.asid (w 3) (withMarks (w 5) f.data) with
    | .ok _ t => .ok () (t.send f.sfn 1 f.asid (w 3) msgCopied [w 0, w 1, w 2, 1, f.data.foldl crc32c (w 4), w 3] [])
    | .fault _ _ => .ok () (s.send f.sfn 1 f.asid (w 3) msgCopied [w 0, w 1, w 2, 0, 0, w 3] [])
    | .hold q => .hold q
  | 1 => .ok () (s.copied (w 0) (w 1) (w 2) (w 3) (w 4) (w 5))
  | 2 => .ok () (s.addParts f.asid (w 0) (w 1) f.sfn (w 2) none f.data)
  | 3 => match s.vwrite 0 f.asid (w 3) (clean f.data) with
    | .ok _ t => (t.castLine f.sfn (w 0) (w 1) (w 2) f.data.length none).endCast f.asid f.sfn (w 0) (w 1) (w 2)
    | .fault _ va => (s.castLine f.sfn (w 0) (w 1) (w 2) f.data.length (some va)).endCast f.asid f.sfn (w 0) (w 1) (w 2)
    | .hold q => .hold q
  | 4 => (s.modCast f.sfn (w 0) (w 1) (w 2) fun k => { k with total := some (w 3, w 4) }).endCast f.asid f.sfn (w 0) (w 1) (w 2)
  | 5 => .ok () (s.castDone f.asid (w 0) (w 1) (w 2) (w 3) (w 4))
  | 6 => .ok () ((s.join (w 0) (w 1) (w 2) ⟨f.sfn, w 3, w 4, w 5, w 6, w 7, Word.ofNat (w 8)⟩).judge (w 0) (w 1))
  | 7 =>
    let clash := s.winClash f.asid (w 1) (w 2)
    let t := if clash then s else { s with windows := s.windows ++ [⟨f.sfn, f.asid, w 1, w 2, w 0, w 3, w 4⟩] }
    .ok () (t.send f.sfn 1 f.asid (w 1) msgWindowed [w 5, w 6, w 7, (!clash).toNat] [])
  | 8 =>
    let t := { s with windows := s.windows.filter fun x => !(x.home = f.sfn && x.asid = f.asid && x.base = w 0) }
    .ok () (t.send f.sfn 1 f.asid (w 0) msgWindowed [w 1, w 2, w 3, 1] [])
  | 9 => .ok () (s.answered (w 0) (w 1) (w 2) 0x34 fun k => { k with total := k.total + (if w 3 = 0 then 1 else 0) })
  | 10 => .ok () ((s.giveLine (w 0) (w 1) (w 2) (w 3) f.data).judge (w 0) (w 1))
  | _ => .ok () s

/-- Whether a message reads or writes HBM, which takes an open interval (R210). -/
def rxOpen (s : State) (f : Sent) : Bool := s.openNow || !([0, 3, 4].contains f.op)

/-- Whether a received flit may be acted on now: none before it on its link and channel waits (R412). -/
def rxDue (s : State) (r : Rx) : Bool :=
  r.tryAt ≤ s.beat && s.rxOpen r.flit && (s.rxWait.find? fun q => vcKey q.flit = vcKey r.flit).map (fun q => q.n) = some r.n

/-- Leave a received flit for the next beat. -/
def rxLater (s : State) (n : Nat) : State :=
  { s with rxWait := (s.rxWait.map fun q => if q.n = n then { q with tryAt := s.beat + 1 } else q) }

/-- A flit of this module's own on a link: what it has received, whether it answers a retry, and whether it asks for one itself
(log entry 23). -/
def linkFlit (s : State) (port op answer : Nat) : Sent :=
  { port := port, dfn := 0xFFFF, sfn := s.fnum.toNat, vc := 3, asid := 0, op := op,
    words := [tget 0 s.rxSeq port, answer, (s.asking.contains port).toNat] }

/-- A link that has sent nothing on a port since an earlier state carries a bare acknowledgement (R412). -/
def backOn (s t : State) (port : Nat) : State :=
  if (t.sent.take (t.sent.length - s.sent.length)).any fun g => g.port = port then t else t.emit (t.linkFlit port msgAck 0)

/-- One more flit of a channel has been acted on: its credit goes back with whatever the link sends next (R412). -/
def owe (s : State) (key : Nat) : State := { s with owed := tset s.owed key (tget 0 s.owed key + 1) }

/-- Act on a received flit, or leave it for the next beat; acted on, its credit goes back (R412). -/
def rxTry (s : State) (r : Rx) : State :=
  if !(s.rxDue r) then s
  else
    let t := { s with asker := .flit r.n }
    match (t.owe (vcKey r.flit)).message r.flit with
    | .ok _ u => s.backOn { u with rxWait := u.rxWait.filter fun q => q.n != r.n } r.flit.port
    | .hold q => (t.joinQueue q).rxLater r.n
    | .fault _ _ => t.rxLater r.n

/-- Act on what the links have brought, in order. -/
def rxRun (s : State) : State := s.rxWait.foldl rxTry s

/-- Whether something received may be acted on. -/
def rxReady (s : State) : Bool := s.rxWait.any s.rxDue

/-- Take back the credits of one channel up to a count since reset; a count that has been taken already brings none (R412). -/
def takeCredits (s : State) (key n : Nat) : State :=
  let d := n - tget 0 s.returned key
  { s with
    credits := tset s.credits key (tget 0 s.credits key - d),
    returned := tset s.returned key (max n (tget 0 s.returned key)) }

/-- Take the acknowledgement and the credits a flit brings back, and send what waited for them (R412). -/
def takeBack (s : State) (f : Sent) : State :=
  let t := { s with unacked := s.unacked.filter fun g => g.port != f.port || (f.ack + 2 ^ 32 - g.lseq - 1) % 2 ^ 32 ≥ 2 ^ 31 }
  ((List.range 4).foldl (fun t v => t.takeCredits (4 * f.port + v) (f.credit.getD v 0)) t).offerAgain

/-- The flit that the operands of an arrival describe: port, LCRC good, LSEQ, DFN, SFN, VC, NL, ASID, ACK, four credit counts
since reset, operation, number of words, the words, the data bytes. -/
def arrived (s : State) : Sent :=
  let n := s.arg 14
  { port := s.arg 0, dfn := s.arg 3, sfn := s.arg 4, vc := s.arg 5, nl := s.arg 6, asid := s.arg 7, lseq := s.arg 2, op := s.arg 13,
    words := (s.ev.drop 15).take n, data := (((s.ev.drop (15 + n)).take (64 * s.arg 6)).map (BitVec.ofNat 8)),
    ack := s.arg 8, credit := (s.ev.drop 9).take 4 }

/-- Send again what a port has sent from a sequence number on and has not been acknowledged, with what the link has received since
(R412). -/
def resend (s : State) (port from' : Nat) : State :=
  let again (g : Sent) : Sent := { g with
    ack := tget 0 s.rxSeq port,
    credit := (List.range 4).map fun v => tget 0 s.owed (4 * port + v) }
  { s with sent := (((s.unacked.filter fun g => g.port = port && (g.lseq + 2 ^ 32 - from') % 2 ^ 32 < 2 ^ 31).map again).reverse) ++ s.sent }

/-- Ask the far end of a link to send again (R412). -/
def askRetry (s : State) (port : Nat) : State :=
  let t := { s with asking := port :: s.asking }
  t.emit (t.linkFlit port msgRetry 0)

/-- Meet the far end's request: what it lacks is sent again, and the answer says so (R412). -/
def meetRetry (s : State) (port from' : Nat) : State :=
  let t := s.resend port from'
  t.emit (t.linkFlit port msgAck 1)

/-- A bare acknowledgement: an answer to a request of this module's, and perhaps a request whose own flit was lost (R412). -/
def linkAnswer (s : State) (f : Sent) : State :=
  let t := if f.words.getD 1 0 = 1 then { s with asking := s.asking.erase f.port } else s
  if f.words.getD 2 0 = 1 then t.meetRetry f.port (f.words.getD 0 0) else t

/-- A flit out of its link's sequence is dropped; one that comes too early has what is missing asked for, if it is not yet (R412). -/
def outOfOrder (s : State) (f : Sent) : State :=
  if (f.lseq + 2 ^ 32 - tget 0 s.rxSeq f.port) % 2 ^ 32 < 2 ^ 31 && !(s.asking.contains f.port) then s.askRetry f.port else s

/-- Accept a flit: in sequence, and for this module, its message is queued; then everything received is acted on. A link that
sends nothing back carries a bare acknowledgement (R412). -/
def accept (s : State) (f : Sent) : State :=
  let r : Rx := { n := s.rxNext, flit := f }
  let t := { s with
    rxSeq := tset s.rxSeq f.port ((f.lseq + 1) % 2 ^ 32),
    asking := s.asking.filter fun p => p != f.port }
  let t := if f.dfn = s.fnum.toNat ∧ s.fnum ≠ 0xFFFF then { t with
      rxNext := t.rxNext + 1,
      rxWait := t.rxWait ++ [r] }
    else t.owe (vcKey f)
  t.backOn t.rxRun f.port

end State

/-- A flit arrives on one of the 18 ports: a bad LCRC has it sent again, the peer's own such request is met, a flit out of
its link's sequence is dropped, and an accepted one has its effect (R411, R412, R418, R424; log entry 23). Without operands, what has
been received and had to wait is tried again. Operands: see `State.arrived`. -/
def execFabricFlitReceive (s : State) : Res1 :=
  let f := s.arrived
  .next (if s.ev.isEmpty then s.rxRun
    else if 18 ≤ f.port ∨ 4 ≤ f.vc ∨ f.nl = 0 ∨ 3 < f.nl then s
    else if s.arg 1 = 0 then s.askRetry f.port
    else
      let t := s.takeBack f
      if f.op = msgRetry then t.meetRetry f.port (f.words.getD 0 0)
      else if f.op = msgAck then t.linkAnswer f
      else if tget 0 t.rxSeq f.port = f.lseq then t.accept f
      else t.outOfOrder f)

/-- Firmware brings the fabric up: FNUM and HSTAT[5] (R410, R426). Operand: FNUM. -/
def execFabricUp (s : State) : Res1 :=
  .next { s with fnum := BitVec.ofNat 16 (s.arg 0 % 4096), hstat := s.hstat ||| 0x20 }

end Sys2Proof.Machine
end

