-- ==== Sys2Proof/Machine/Engine.lean ====
section
/-! DEFINITION. The engines: when a command starts, what each step of it does, and its completion (spec 13 R293-R295,
14 R318-R322, 16 R347-R369, 21 R417-R424, R445). One step moves one unit, row or pass (log entry 14). -/

namespace Sys2Proof.Machine

/-! ### What a command still has to access (R252-R254) -/

/-- An area from an offset on. -/
def Area.from (r : Area) (o : Nat) : Area := { r with
  addr := r.addr + Word.ofNat o,
  len := r.len - o }

/-- Whether a copy's destination lies on another module (R359, R410). -/
def Cmd.far (s : State) (k : Cmd) : Bool := k.f 0x1C 2 != 0xFFFF && k.f 0x1C 2 != s.fnum.toNat

namespace State

/-- Whether a byte of a context's address space lies inside a scope of its tile: by its stripe unit, where a committing page
holds its access too; what does not translate may lie anywhere in the module (R253). -/
def byteIn (s : State) (c scope va : Nat) : Bool :=
  match s.xlate (dieOf (tileOf c)) (s.ctx c).asid.toNat va false with
  | .ok p _ => s.inScope c scope p.flat
  | .hold _ => (s.heldSpots (dieOf (tileOf c)) (s.ctx c).asid.toNat va).any fun p => s.inScope c scope p.flat
  | .fault _ _ => 3 ≤ scope

/-- Whether some byte of a run of virtual addresses in the context's address space lies inside a scope of its tile. -/
def vaIn (s : State) (c scope va n : Nat) : Bool := 1 < scope && (pieces va n).any fun (b, _) => s.byteIn c scope b

/-- Whether some byte of an area lies inside a scope of a context's tile. -/
def areaIn (s : State) (c scope : Nat) (r : Area) : Bool :=
  if bits r.addr.toNat 56 8 = 0 then r.len != 0 else s.vaIn c scope (s.lineBase c r.addr 0) r.len

/-- Source areas that a copy still reads: for a gather the index list from the first row on whose index it has not read, and the
rows that the indices name now (R360). -/
def copySources (s : State) (c : Nat) (k : Cmd) : List Area :=
  let len := k.f 0x18 4
  let o := 64 * k.prog
  match bits (k.f 0 1) 0 2 with
  | 0 => [Area.from ⟨k.w 0x08, len, false, true, 1⟩ o]
  | 1 =>
    let r0 := o / len
    let row (x : Nat) : Area := ⟨k.w 0x08 + Word.ofNat (x * k.f 0x2C 4), len, false, true, 1⟩
    let idx := Area.from ⟨k.w 0x20, 4 * k.f 0x1E 2, false, true, 4⟩ (4 * (r0 + k.idx.length))
    idx :: (List.range (k.f 0x1E 2 - r0)).map fun q =>
      match k.idx.find? fun x => x.1 = r0 + q with
      | some x => row x.2.1
      | none => match s.place c (k.w 0x20) (4 * (r0 + q)) false with
        | .ok p t => row (leNat (t.look p 4).1)
        | _ => row 0
  | _ => k.copyAreas.take 1

/-- Whether a copy still has an access inside a scope. -/
def copyIn (s : State) (c scope : Nat) (k : Cmd) : Bool :=
  let o := 64 * k.prog
  let n := k.copyLen - o
  (k.stop.isNone && (s.copySources c k).any (s.areaIn c scope)) ||
  (if k.far s then 4 ≤ scope
    else if k.f 0x1C 2 = 0xFFFF then k.stop.isNone && s.areaIn c scope (Area.from ⟨k.w 0x10, k.copyLen, true, true, 1⟩ o)
    else k.stop.isNone && s.vaIn c scope (k.f 0x10 8 + o) n)

/-- Whether a placement's run of `n` bytes has a unit inside a scope (R253). -/
def stripeIn (s : State) (c scope base n place : Nat) : Bool :=
  let g := 256 * 2 ^ bits place 20 3
  (List.range (min (n / g) 6144)).any fun i => match stripeOfStale s.geom (base + g * i) place with
    | some h => s.inScope c scope h.flat
    | none => 3 ≤ scope

/-- Whether a re-stripe still has an access inside a scope: the page's leaf, its old home or its new one (R368). -/
def moveIn (s : State) (c scope : Nat) (k : Cmd) : Bool :=
  3 ≤ scope || (scope = 2 && match s.walk (k.f 0x1C 2) (k.f 0x08 8) with
    | .leaf l =>
      (s.entryPlace l.entryAt).any (fun q => s.inScope c 2 q.flat) || s.stripeIn c 2 (k.f 0x10 8) (pageSize l.level) (k.f 0x18 4) ||
      (!(l.entry.testBit 4) && s.stripeIn c 2 (bits l.entry 8 24 * 65536) (pageSize l.level) (bits l.entry 32 32))
    | _ => false)

/-- Whether the home of the window that a reduction names is this module (R363, R415). -/
def redHere (s : State) (c : Nat) (k : Cmd) : Bool :=
  match s.winOf (s.ctx c).asid.toNat (s.lineBase c (k.w 0x10) 0) (k.f 0x18 4) with
  | some w => w.home = s.fnum.toNat
  | none => false

/-- Whether a command writes RESULT or MDIG into its block, which lies in its tile's pool (R362, R365, R420). -/
def hasResult (k : Cmd) : Bool :=
  k.op = 0x31 || (0x3A ≤ k.op && k.op ≤ 0x3C) || (k.op = 0x34 && 2 ≤ bits (k.f 0 1) 0 3)

/-- Whether a command still has an access inside a scope; its RESULT is one in every scope, until it is written with the record
(R252-R254). -/
def leftIn (s : State) (c scope : Nat) (k : Cmd) : Bool :=
  if k.isDone then false
  else if k.ending.isSome then k.result.isSome
  else if hasResult k then true
  else match k.op with
    | 0x30 => s.copyIn c scope k
    | 0x32 => (k.prog = 0 && s.areaIn c scope ⟨k.w 0x08, k.f 0x18 4, false, true, 1⟩) ||
        (s.redHere c k && s.areaIn c scope ⟨k.w 0x10, k.f 0x18 4, true, false, 1⟩) || 4 ≤ scope
    | 0x33 => s.moveIn c scope k
    | 0x34 => 4 ≤ scope || k.collAreas.any fun r => (r.write || k.inst.isNone) && s.areaIn c scope r
    | 0x35 => 4 ≤ scope || k.asked = 0 && s.areaIn c scope (Area.from ⟨k.w 0x08, k.f 0x20 4, false, false, 1⟩ (64 * k.prog))
    | 0x36 => k.arrAreas.any fun r => s.areaIn c scope (Area.from r (k.prog * k.pitch))
    | 0x37 => k.arrAreas.any fun r => s.areaIn c scope (Area.from r (if r.write then 2 * k.prog else k.prog * k.pitch))
    | _ => false

/-- Whether an earlier command of the tile still has an access inside a scope (R252, R254). -/
def earlierIn (s : State) (c issued scope : Nat) : Bool :=
  (s.tileCmds (tileOf c)).any fun (d, _, k) => k.issued < issued && s.leftIn d scope k

/-- Whether a command that orders must still wait for earlier accesses. -/
def mustWait (s : State) (c : Nat) (k : Cmd) : Bool :=
  match k.awaits with
  | some sc => s.earlierIn c k.issued sc
  | none => false

/-- A command is held: by a committing page, whose queue it joins, or by a fence or a claim (R246, R252, R368). -/
def held (s : State) (c i : Nat) (q : Option (Nat × Nat)) : State := (s.joinQueue q).snooze c i

/-- A page fault of a command at a virtual address in its own address space (R349). -/
def faultAt (s : State) (c i progress : Nat) (addr : Word) (reason va : Nat) : State :=
  s.pageFault c i progress (bits addr.toNat 56 8) reason (s.ctx c).asid.toNat va

/-- What to do with a failed or held access of a command. -/
def onGot {α : Type} (s : State) (c i progress : Nat) (addr : Word) (g : Got α) (k : α → State → State) : State :=
  match g with
  | .ok v t => k v t
  | .fault r va => s.faultAt c i progress addr r va
  | .hold q => s.held c i q

/-! ### Copies (R359-R361) -/

/-- Start and length of the destination unit `n` of a copy (R360). -/
def copyUnit (len n : Nat) : Nat × Nat := (64 * n, min 64 (len - 64 * n))

/-- The source runs of `n` destination bytes from `o` on: the gathered row if any, source offset, length (R360). -/
def copyRuns (k : Cmd) : Nat → Nat → Nat → List (Option Nat × Nat × Nat)
  | 0, _, _ => []
  | fuel + 1, o, n =>
    if n = 0 then [] else
      let len := k.f 0x18 4
      let mode := bits (k.f 0 1) 0 2
      if mode = 0 then [(none, o, n)]
      else if mode = 1 then
        let m := min n (len - o % len)
        (some (o / len), o % len, m) :: copyRuns k fuel (o + m) (n - m)
      else
        let z := k.esz
        let rows := k.f 0x1E 2
        let m := min n (z - o % z)
        (none, o / z % rows * k.f 0x2C 4 + o / z / rows * z + o % z, m) :: copyRuns k fuel (o + m) (n - m)

/-- What the source bytes of a unit come to: bytes with marks and a stop (0 none, 1 a poisoned index, r + 2 a row r out
of bounds), a page fault of an extent address, or not yet. -/
inductive Src where
  | ok (bs : List (Byte × Bool)) (stop : Nat) (s : State)
  | fault (addr : Word) (reason va : Nat)
  | hold (q : Option (Nat × Nat))

/-- Cut a run at 16-byte chunks of its source address, so that each piece has one mark. -/
def chunkRun (a0 n : Nat) : List (Nat × Nat) := piecesOf 16 a0 n

/-- Read one run in chunks. -/
def readRun (c issued : Nat) (addr : Word) (a0 off : Nat) : List (Nat × Nat) → State → Src
  | [], s => .ok [] 0 s
  | (a, n) :: r, s =>
    match s.aread c issued addr (off + (a - a0)) n with
    | .ok (bs, pm) t =>
      match readRun c issued addr a0 off r t with
      | .ok l st u => .ok ((bs.map fun b => (b, pm)) ++ l) st u
      | x => x
    | .fault e va => .fault addr e va
    | .hold q => .hold q

/-- Whether `n` source bytes at an offset lie in their extent or scratchpad area. -/
def srcInside (s : State) (c : Nat) (addr : Word) (off n : Nat) : Bool :=
  let i := bits addr.toNat 56 8
  let o := bits addr.toNat 0 56 + off
  let x := s.ctx c
  if i = 0 then x.spLo ≤ o && o + n ≤ x.spHi
  else
    let t := tget {} x.extents i
    t.valid && t.kind = 2 && o + n ≤ t.len

/-- Read the source runs of a unit, by the gather indices that have been read (R360, R382). -/
def readRuns (c : Nat) (k : Cmd) : List (Option Nat × Nat × Nat) → State → Src
  | [], s => .ok [] 0 s
  | (row, o, n) :: r, s =>
    let go (off : Nat) (s : State) : Src :=
      let a0 := s.lineBase c (k.w 0x08) off
      match readRun c k.issued (k.w 0x08) a0 off (chunkRun a0 n) s with
      | .ok l _ t => match readRuns c k r t with
        | .ok m st u => .ok (l ++ m) st u
        | x => x
      | x => x
    match row with
    | none => go o s
    | some q => match k.idx.find? fun x => x.1 = q with
      | none => .hold none
      | some (_, x, pm) =>
        if pm then .ok [] 1 s
        else if !(s.srcInside c (k.w 0x08) (x * k.f 0x2C 4) (k.f 0x18 4)) then .ok [] (q + 2) s
        else go (x * k.f 0x2C 4 + o) s

/-- The first row of a unit whose index has still to be read: none behind one that stops the copy (R360). -/
def nextIndex (s : State) (c : Nat) (k : Cmd) : List (Option Nat × Nat × Nat) → Option Nat
  | [] => none
  | (none, _, _) :: r => s.nextIndex c k r
  | (some q, _, _) :: r => match k.idx.find? fun x => x.1 = q with
    | none => some q
    | some (_, x, pm) => if pm || !(s.srcInside c (k.w 0x08) (x * k.f 0x2C 4) (k.f 0x18 4)) then none else s.nextIndex c k r

/-- Read the index of a gathered row, once for the row (R360). -/
def readIndex (s : State) (c i rows q : Nat) : State :=
  let k := s.cmd c i
  match s.aread c k.issued (k.w 0x20) (4 * q) 4 with
  | .fault e va => s.faultAt c i rows (k.w 0x20) e va
  | .hold h => s.held c i h
  | .ok (bs, pm) t => (t.modCmd c i fun k => { k with idx := k.idx ++ [(q, leNat bs, pm)] }).snooze c i

/-- Write a unit of a copy at its destination in this module. -/
def copyWrite (s : State) (c : Nat) (k : Cmd) (st : Nat) (l : List (Byte × Bool)) : Got Unit :=
  if k.f 0x1C 2 = 0xFFFF then s.awrite c k.issued (k.w 0x10) st l
  else s.cmdWrite c k.issued (k.f 0x10 8 + st) l

/-- Final status and DETAIL of a copy (R361). -/
def copyEnd (s : State) (c i : Nat) : State :=
  let k := s.cmd c i
  let v := k.crc.getD 0
  let bad := (k.f 0 1).testBit 4 && v ^^^ 0xFFFFFFFF != k.f 0x28 4
  s.finish c i (if bad then 0x04 else 0x01) v

/-- Bytes with the bits flipped that an error has flipped in the engine's buffer (R430). -/
def flipped (flips : List (Nat × Nat)) (st : Nat) (l : List (Byte × Bool)) : List (Byte × Bool) :=
  ((List.range l.length).zip l).map fun (n, b, pm) =>
    (flips.foldl (fun v x => if x.1 = st + n then v ^^^ BitVec.ofNat 8 x.2 else v) b, pm)

/-- The word of bits that marks the bytes of a line. -/
def marksOf (l : List (Byte × Bool)) : Nat := ((List.range l.length).zip l).foldl (fun m x => if x.2.2 then m ||| 2 ^ x.1 else m) 0

/-- Pieces of a unit on the lines of its destination, with their addresses (R411). -/
def linesOf (va : Nat) (l : List (Byte × Bool)) : List (Nat × List (Byte × Bool)) :=
  (pieces va l.length).map fun (a, n) => (a, (l.drop (a - va)).take n)

/-- Send the next line of a unit to another module (R359, R411). -/
def copySend (s : State) (c i : Nat) : State :=
  let k := s.cmd c i
  match k.out with
  | [] => s
  | (a, l) :: r =>
    if s.fenced c k.issued hostBase then s.snooze c i
    else
      let t := s.send (k.f 0x1C 2) 0 (s.ctx c).asid.toNat a msgCopy [c, i, k.gen, a, k.crc.getD 0, marksOf l] (l.map (·.1))
      (t.modCmd c i fun k => { k with
        out := r,
        asked := k.asked + 1 }).snooze c i

/-- What a copy does after reading a unit: it goes on, or stops with POISON or BOUNDS (R349, R359, R360). -/
def copyStop (k : Cmd) (stop : Nat) : Option (Nat × Nat) :=
  if stop = 0 then none
  else if stop = 1 then some (0x03, 0)
  else some (0x0C, (stop - 2) % 65536 + k.f 0x0F 1 * 65536 + 5 * 2 ^ 24)

/-- After a unit written here: a copy completes with its last access, or goes on later (R247, R349, R361). -/
def copyNext (s : State) (c i : Nat) : State :=
  let k := s.cmd c i
  match k.stop with
  | some (0x03, _) => s.finish c i 0x03 (k.crc.getD 0)
  | some (e, d) => s.finish c i e d
  | none => if k.copyLen ≤ 64 * k.prog then s.copyEnd c i else s.snooze c i

/-- One step of `acpy`: one index, one destination unit here, or one line of it on another module (R359, R360). -/
def stepCopy (s : State) (c i : Nat) : State :=
  let k := s.cmd c i
  let far := k.far s
  let (st, n) := copyUnit k.copyLen k.prog
  let rows := if bits (k.f 0 1) 0 2 = 1 then st / k.f 0x18 4 else 0
  if k.f 0x1C 2 != 0xFFFF && s.fnum = 0xFFFF then s.pageFault c i 0 0 4 (s.ctx c).asid.toNat (k.f 0x10 8)
  else if k.answers < k.asked then s.snooze c i
  else if !k.out.isEmpty then s.copySend c i
  else if n = 0 || k.stop.isSome then s.copyNext c i
  else match s.nextIndex c k (copyRuns k n st n) with
  | some q => s.readIndex c i rows q
  | none => match readRuns c k (copyRuns k n st n) s with
    | .hold q => s.held c i q
    | .fault a r va => s.faultAt c i rows a r va
    | .ok l0 stop t =>
      let l := flipped k.flips st l0
      let next (t : State) : State :=
        let u := t.modCmd c i fun k => { k with
          prog := k.prog + 1,
          idx := k.idx.filter fun x => (64 * (k.prog + 1)) / k.f 0x18 4 ≤ x.1,
          pois := k.pois || l.any (·.2),
          stop := copyStop k stop,
          out := if far then linesOf (k.f 0x10 8 + st) l else [],
          crc := if far then k.crc else k.crc.map fun v => (l.map (·.1)).foldl crc32c v }
        if far then u.snooze c i else u.copyNext c i
      if far || l.isEmpty then next t
      else match t.copyWrite c k st l with
        | .ok _ u => next u
        | .fault r va => if k.f 0x1C 2 = 0xFFFF then t.faultAt c i rows (k.w 0x10) r va
            else t.pageFault c i rows 0 4 (t.ctx c).asid.toNat va
        | .hold q => s.held c i q

/-! ### Atomics (R254, R257, R265, R362) -/

/-- `aatom` at the word's home, once its release order allows (R254, R255). -/
def stepAtom (s : State) (c i : Nat) : State :=
  let k := s.cmd c i
  let n := k.atomBytes
  let op := bits (k.f 0 1) 0 4
  if s.mustWait c k then s.snooze c i
  else s.onGot c i 0 (k.w 0x08) (s.place c (k.w 0x08) 0 true) fun p t =>
    if t.fenced c k.issued (homeSpot p) || t.placeBusy c p n then s.snooze c i
    else if hostBase ≤ p.flat ∧ (2 < op ∨ !(t.sysaOf (dieOf (tileOf c)) (t.ctx c).asid.toNat (t.lineBase c (k.w 0x08) 0))) then
      t.finish c i 0x06 0
    else
      let ((bs, pm), o, t) := t.homeTake p n
      if pm then t.finish c i 0x03 0
      else
        let v := leNat bs
        let t := match atomNew op (8 * n) v (k.f 0x10 n) (k.f 0x18 n) with
          | some w => t.homePut p o (leBytes n w)
          | none => t
        (t.setResult c i 0x20 (leBytes 8 v)).finish c i 0x01 0

/-! ### Reduce-on-write (R363, R415, R416) -/

/-- Whether some contribution of a command still waits for its epoch. -/
def partsWait (s : State) (c i : Nat) : Bool :=
  s.merges.any fun m => m.parts.any fun p =>
    p.src = some (c, i) && (m.parts.find? fun q => q.rank = p.rank) != some p

/-- Send a contribution to a window to every member, line by line (R411, R416). -/
def sendParts (s : State) (gid asid va rank : Nat) (bs : List Byte) : State :=
  (pieces va bs.length).foldl (fun t (a, k) =>
    t.sendGroup gid 2 asid a msgReduce [a, rank, t.groupN gid] ((bs.drop (a - va)).take k)) s

/-- A command goes on once it has read its group's entry (R199, R325, R414). -/
def withGroup (s : State) (c i gid : Nat) (k : State → State) : State :=
  if s.groupReady gid then k (s.groupUse gid) else (s.groupAsk gid).snooze c i

/-- `ared`: the switch refuses it, or accepts its lines (R363, R414). -/
def stepRed (s : State) (c i : Nat) : State :=
  let k := s.cmd c i
  let asid := (s.ctx c).asid.toNat
  let va := s.lineBase c (k.w 0x10) 0
  let dst : Area := ⟨k.w 0x10, k.f 0x18 4, true, false, 1⟩
  match k.stop with
  | some (e, d) => s.finish c i e d
  | none =>
  if k.prog = 1 then (if s.partsWait c i then s.snooze c i else s.finish c i 0x01 0)
  else match s.winOf asid va (k.f 0x18 4) with
    | none => s.finish c i 0x05 0
    | some w =>
      s.withGroup c i w.gid fun s => match s.rankOf w.gid s.fnum.toNat with
      | none => s.finish c i 0x05 0
      | some r =>
        if w.rop != bits (k.f 0 1) 0 2 || w.fmt != bits (k.f 0 1) 4 4 then s.finish c i 0x05 0
        else if s.fencedBy c k.issued fun d sc => 4 ≤ sc || (w.home = s.fnum.toNat && s.areaIn d sc dst) then s.snooze c i
        else s.onGot c i 0 (k.w 0x08) (s.aread c k.issued (k.w 0x08) 0 (k.f 0x18 4)) fun (bs, pm) t =>
          if pm then t.finish c i 0x03 0
          else
            let t := (t.addParts asid va r t.fnum.toNat (t.groupN w.gid) (some (c, i)) bs).sendParts w.gid asid va r bs
            (t.modCmd c i fun k => { k with prog := 1 }).snooze c i

/-! ### Barriers (R364, R365) -/

/-- A barrier command at the object's home (R255, R364, R365). -/
def stepBar (s : State) (c i : Nat) : State :=
  let k := s.cmd c i
  let val := k.f 0x10 4
  if s.mustWait c k then s.snooze c i
  else s.onGot c i 0 (k.w 0x08) (s.place c (k.w 0x08) 0 (k.op != 0x3C)) fun p t =>
    if t.fenced c k.issued (homeSpot p) then s.snooze c i
    else if hostBase ≤ p.flat then t.finish c i 0x06 0
    else
      let ((bs, pm), o, t) := t.homeTake p 16
      if pm then t.finish c i 0x03 0
      else
        let exp := leNat (bs.take 4)
        let arr := leNat ((bs.drop 4).take 4)
        let phase := leNat ((bs.drop 8).take 4)
        let put (e a f : Nat) : State := t.homePut p o (leBytes 4 e ++ leBytes 4 a ++ leBytes 4 f ++ bs.drop 12)
        let fin (t : State) (st : Nat) : State := (t.setResult c i 0x18 (leBytes 4 phase)).finish c i st 0
        if k.op = 0x3A then fin (put val 0 0) 0x01
        else if k.op = 0x3B then
          if phase != val then fin t 0x0A
          else if (arr + 1) % 2 ^ 32 = exp then fin (put exp 0 ((phase + 1) % 2 ^ 32)) 0x01
          else fin (put exp ((arr + 1) % 2 ^ 32) phase) 0x01
        else if phase != val then fin t 0x01
        else t.snooze c i

/-! ### Re-striping (R367-R369) -/

/-- Whether a unit is live in a record (R212). -/
def unitLive (g : Geom) (st ch b : Nat) : Bool :=
  g.live.getLsbD st && g.chans.getLsbD (32 * st + ch) && g.bgrps.getLsbD (128 * st + 4 * ch + b)

/-- Whether a placement selects a unit that is live in one record and not in the next (R213). -/
def selectsLost (a b : Geom) (p : Nat) : Bool :=
  (plStacks p).any fun st => (List.range 32).any fun ch =>
    chsSelects (bits p 12 4) (bits p 0 12) ch && (List.range 4).any fun g =>
      (bits p 16 4).testBit g && unitLive a st ch g && !(unitLive b st ch g)

/-- Whether a placement selects a unit that the last HBM change retired (R213). -/
def selectsRetired (s : State) (p : Nat) : Bool := selectsLost s.prior s.geom p

/-- Whether a timetabled extent of a dispatched or saved slice covers a byte range of a placement (R216, R396). -/
def pinned (s : State) (p base size : Nat) : Bool :=
  let hit (x : Ctx) : Bool := x.extents.any fun (_, e) =>
    e.valid && e.kind = 1 && bits e.place.toNat 0 23 = bits p 0 23 && e.base.toNat < base + size && base < e.base.toNat + e.len
  (s.ctxs.any fun (_, x) => x.run != .empty && hit x) || s.saved.any fun v => v.frames.any fun f => hit f.ctx

/-- Drop cached leaves of a range of an address space (R199). -/
def invalidate (s : State) (asid va size : Nat) : State :=
  { s with tlb := s.tlb.filter fun t => !(t.asid = asid && t.va < va + size && va < t.va + pageSize t.level) }

/-- An entry of a table as it stands where it is found. -/
def getEntry (s : State) (e : Nat × Nat) : Nat :=
  match s.entryPlace e with
  | some q => s.rdNat q.flat 8
  | none => 0

/-- Rewrite the migration state of a leaf in its table. -/
def setMig (s : State) (at' : Nat × Nat) (mig : Nat) : State :=
  let e := s.getEntry at'
  s.putEntry at' (e - bits e 58 2 * 2 ^ 58 + mig * 2 ^ 58)

/-- A re-stripe as its block or the firmware gives it (R367). -/
structure Restripe where
  regen : Bool
  va : Nat
  nbase : Nat
  nplace : Nat
  asid : Nat
  deriving DecidableEq, Repr

/-- The re-stripe that a block describes (R367). -/
def restripeOf (k : Cmd) : Restripe := ⟨(k.f 0 1).testBit 0, k.f 0x08 8, k.f 0x10 8, k.f 0x18 4, k.f 0x1C 2⟩

/-- A re-stripe ends with a status; firmware's own has no block (R367). -/
def moveEnd (s : State) (own : Option (Nat × Nat)) (st : Nat) : State :=
  match own with
  | some (c, i) => s.finish c i st 0
  | none => s

/-- A re-stripe ends with a page fault in the tables it names (R349, R368). -/
def moveFault (s : State) (own : Option (Nat × Nat)) (r : Restripe) (reason : Nat) : State :=
  match own with
  | some (c, i) => s.pageFault c i 0 0 reason r.asid r.va
  | none => s

/-- A re-stripe has its next step later. -/
def moveLater (s : State) (m : Option (Nat × Nat)) : State :=
  match m with
  | some (c, i) => s.snooze c i
  | none => s

/-- Step 1 of R368, and the whole of the regenerate mode; step 2 where it goes on. -/
def moveBegin (s : State) (own : Option (Nat × Nat)) (r : Restripe) : State :=
  match s.walk r.asid r.va with
  | .absent => s.moveFault own r 0
  | .malformed => s.moveFault own r 3
  | .held => s.moveLater own
  | .leaf l =>
    let size := pageSize l.level
    let p := bits l.entry 32 32
    let base := bits l.entry 8 24 * 65536
    let gen := s.geom.hgen.toNat % 16
    let stale := bits p 28 4 != gen
    let cur := bits p 0 26 + gen * 2 ^ 28
    let ok := !(l.entry.testBit 4) && (stripeOf s.geom (base + size - 1) cur).isSome &&
      (!stale || ((bits p 28 4 + 1) % 16 = gen && !(s.selectsRetired p)))
    let fits := r.va % size = 0 && r.nbase % size = 0 && (stripeOf s.geom (r.nbase + size - 1) r.nplace).isSome
    if !ok then s.moveFault own r 3
    else if s.pinned p base size then s.moveEnd own 0x07
    else if bits p 26 2 != 0 then s.moveEnd own 0x08
    else if r.regen then
      let t := if stale then s.putEntry l.entryAt (bits l.entry 0 60 + gen * 2 ^ 60) else s
      (t.invalidate r.asid r.va size).moveEnd own 0x01
    else if !fits then s.moveFault own r 3
    else
      let m : Move := {
        own := own, asid := r.asid, va := r.va, size := size, entryAt := l.entryAt, entry := l.entry,
        oldBase := base, oldPlace := cur, newBase := r.nbase, newPlace := r.nplace, todo := List.range (size / 256) }
      ({ s with moves := s.moves ++ [m] }.setMig l.entryAt 1).moveLater own

/-- Copy one 256-byte granule, line by line with its marks. -/
def copyGranule (s : State) (m : Move) (g : Nat) : State :=
  match stripeOfStale s.geom (m.oldBase + 256 * g) m.oldPlace, stripeOfStale s.geom (m.newBase + 256 * g) m.newPlace with
  | some a, some b => (List.range 4).foldl (fun t j =>
      t.wr (b.flat + 64 * j) (t.rd (a.flat + 64 * j) 64) (t.marked (a.flat + 64 * j) 64)) s
  | _, _ => s

/-- Replace a move in progress; firmware's makes its next step after a free time. -/
def setMove (s : State) (m n : Move) : State :=
  let n := if n.own.isNone then { n with wake := s.beat + 1 + Config.delay s.fresh } else n
  { s with
    fresh := s.fresh + 1,
    moves := s.moves.map fun q => if q = m then n else q }

/-- Write through what homes outside the module hold for a page, before the page is committed (R256, R413). -/
def settleThrough (s : State) (m : Move) : State :=
  let mine (t : Through) : Bool := onPage m.oldBase m.size m.oldPlace t.place t.stripe
  let u := (s.through.filter mine).foldl (fun u t => u.wr t.dst t.data t.pois) s
  { u with through := u.through.filter fun t => !(mine t) }

/-- Step 5 of R368: the new leaf is installed, the old home forwards, and the held accesses go first. -/
def moveInstall (s : State) (m : Move) : State :=
  let f : Forward := {
    size := m.size, oldBase := m.oldBase, oldPlace := m.oldPlace, newBase := m.newBase, newPlace := m.newPlace,
    last := s.beat + 65536, queue := m.queue, own := m.own }
  let t := { s with
    moves := s.moves.filter (· != m),
    forwards := f :: s.forwards }
  let leaf := bits (t.getEntry m.entryAt) 0 8 + m.newBase / 65536 * 256 + m.newPlace * 2 ^ 32
  ((t.putEntry m.entryAt leaf).invalidate m.asid m.va m.size).moveEnd m.own 0x01

/-- Whether another page's commit holds the table that a re-stripe has to write (R368). -/
def moveHeld (s : State) (m : Move) : Bool :=
  let t := { s with moves := s.moves.filter (· != m) }
  match t.entryPlace m.entryAt with
  | some q => t.placeHeld q
  | none => false

/-- Steps 3 to 5 of R368: a granule, the end of a pass, or the install. -/
def moveStep (s : State) (m : Move) : State :=
  match m.todo with
  | g :: r => ((s.copyGranule m g).setMove m { m with todo := r, dirty := m.dirty.filter (· != g) }).moveLater m.own
  | [] =>
    if s.moveHeld m && (m.committing || m.dirty.isEmpty || 4 ≤ m.pass) then (s.setMove m m).moveLater m.own
    else if m.committing then s.moveInstall m
    else if m.dirty.isEmpty || 4 ≤ m.pass then
      let held := (s.through.filter fun t => onPage m.oldBase m.size m.oldPlace t.place t.stripe).map fun t => (t.stripe - m.oldBase) / 256
      (((s.settleThrough m).setMove m { m with committing := true, todo := (m.dirty ++ held).dedup, dirty := [] }).setMig m.entryAt 2).moveLater m.own
    else (s.setMove m { m with pass := m.pass + 1, todo := m.dirty, dirty := [] }).moveLater m.own

/-- One step of `arestripe`; it begins when no earlier fence holds its page back (R252, R367). -/
def stepMove (s : State) (c i : Nat) : State :=
  match s.moves.find? fun m => m.own = some (c, i) with
  | some m => s.moveStep m
  | none =>
    let k := s.cmd c i
    if s.fencedBy c k.issued fun d sc => s.moveIn d sc k then s.snooze c i else s.moveBegin (some (c, i)) (restripeOf k)

/-- Firmware's own re-stripe that has a step to make (R367). -/
def fwMove (s : State) : Option Move := s.moves.find? fun m => m.own.isNone && m.wake ≤ s.beat

/-- A write that a switch or the root complex writes through: none before it to its line waits (R241, R255, R413). -/
def throughDue (s : State) : Option Through :=
  (s.through.find? fun t => t.due ≤ s.beat && (s.through.find? fun u => u.dst / 64 = t.dst / 64) = some t)

/-! ### Collectives (R417-R422, R445) -/

/-- Whether a command is a synchronising collective on a group. -/
def Cmd.syncOn (k : Cmd) (gid : Nat) : Bool := k.op = 0x34 && 2 ≤ bits (k.f 0 1) 0 3 && k.f 0x24 2 = gid

/-- Whether a synchronising collective issued earlier on the group has still to take its number (R418). -/
def collBehind (s : State) (c i : Nat) (k : Cmd) : Bool :=
  s.ctxs.any fun (d, x) => x.cmds.any fun (j, q) =>
    Cmd.syncOn q (k.f 0x24 2) && !q.isDone && q.inst.isNone &&
      (q.issued < k.issued || (q.issued = k.issued && (d < c || (d = c && j < i))))

/-- Finish a synchronising collective: MDIG, then the record with its DETAIL (R419, R420). -/
def collEnd (s : State) (c i : Nat) (q : Inst) (st : Nat) : State :=
  let k := s.cmd c i
  let rank := (s.rankOf q.gid s.fnum.toNat).getD 0
  let n := s.groupN q.gid
  let lo := if st = 0x15 then q.lines % 65536 else q.majority % 256 + n % 256 * 256
  let t := if q.ends = 0 then { s with insts := s.insts.filter fun x => !(x.gid = q.gid && x.k = q.k) } else s
  (t.setResult c i 0x28 (leBytes 8 k.mdig.toNat)).finish c i st (lo + rank * 65536)

/-- DETAIL of a synchronising collective that ends without a verdict (R419). -/
def collDetail (s : State) (gid : Nat) : Nat :=
  s.groupN gid % 256 * 256 + (s.rankOf gid s.fnum.toNat).getD 0 * 65536

/-- The number that an issue takes on its group: after those that took one, and after earlier issues that ended without a
contribution (R418). -/
def collNumber (s : State) (gid issued c i : Nat) : Nat × State :=
  let before (x : Nat × Nat × Nat × Nat) : Bool := x.1 = gid &&
    (x.2.1 < issued || (x.2.1 = issued && (x.2.2.1 < c || (x.2.2.1 = c && x.2.2.2 < i))))
  let n := tget 0 s.gidCount gid + (s.skipped.filter before).length + 1
  (n, { s with
    gidCount := tset s.gidCount gid n,
    skipped := s.skipped.filter fun x => !(before x) })

/-- Whether a command is a synchronising collective (R418). -/
def syncColl (s : State) (c i : Nat) : Bool := (s.cmd c i).op = 0x34 && 2 ≤ bits ((s.cmd c i).f 0 1) 0 3

/-- A synchronising collective that ends before it contributes still takes a number, when its turn comes (R418). -/
def skipColl (s : State) (c i : Nat) : State :=
  let k := s.cmd c i
  if s.syncColl c i then { s with skipped := s.skipped ++ [(k.f 0x24 2, k.issued, c, i)] } else s

/-- Lines an ALLREDUCE delivers. -/
def collLines (k : Cmd) : Nat := (k.f 0x18 8 % 64 + k.f 0x20 4 + 63) / 64

/-- One step of a synchronising collective that has taken its number. -/
def collRun (s : State) (c i : Nat) (q : Inst) : State :=
  let k := s.cmd c i
  if q.ends != 0 then s.collEnd c i q q.ends
  else match q.todo with
    | (a, bs) :: r =>
      let asid := (s.ctx c).asid.toNat
      match s.cmdWrite c k.issued a (clean bs) with
      | .ok _ t => (t.modInst q.gid q.k fun x => { x with
          todo := r,
          lines := if bits (k.f 0 1) 0 3 = 2 then x.lines else x.lines + 1 }).snooze c i
      | .fault _ va => ({ s with pageReqs := if s.pageReqs.contains (asid, va) then s.pageReqs else (asid, va) :: s.pageReqs }).snooze c i
      | .hold q => s.held c i q
    | [] =>
      if q.judged && q.verdict != 0 && (bits (k.f 0 1) 0 3 != 2 || collLines k ≤ q.lines) then s.collEnd c i q q.verdict
      else s.snooze c i

/-- Send a member's contribution: its lines on the planes of their window addresses, an ALLGATHER's at its rank's place in the
window, then its header and digest on plane 0 (R411, R418, R420, R421). -/
def collGive (s : State) (gid no rank asid : Nat) (j : Joined) (bs : List Byte) : State :=
  let a0 := if j.op = 3 then j.waddr + rank * j.len else j.waddr
  let lines := (pieces a0 bs.length).map fun (a, k) => (a, (bs.drop (a - a0)).take k)
  let t := lines.foldl (fun t (a, l) =>
    (t.giveLine gid no rank (a - a0) l).sendGroup gid 2 asid a msgLine [gid, no, rank, a - a0] l) s
  (t.join gid no rank j).sendGroup gid 3 asid 0 msgJoin [gid, no, rank, j.n, j.op, j.len, j.waddr, j.aux, j.digest.toNat] []

/-- A member's contribution: translate both footprints, read SRC, take the next number and send (R418, R445). -/
def collSend (s : State) (c i rank n : Nat) : State :=
  let k := s.cmd c i
  let op := bits (k.f 0 1) 0 3
  let gid := k.f 0x24 2
  let len := k.f 0x20 4
  let asid := (s.ctx c).asid.toNat
  let reads := op != 4 || k.f 0x26 2 = rank
  let dlen := if op = 3 then k.f 0x26 2 * len else len
  if reads && k.f 0x08 8 = 0 && op = 4 && !(s.srcInside c 0 0 len) then s.pageFault c i 0 0 5 asid 0
  else if s.fencedBy c k.issued fun _ sc => 4 ≤ sc then s.snooze c i
  else
    let a0 := s.lineBase c (k.w 0x10) 0
    s.onGot c i 0 (k.w 0x10) (writePlaces c k.issued (k.w 0x10) a0 0 (pieces a0 dlen) s) fun _ t =>
      s.onGot c i 0 (k.w 0x08) (if reads then t.aread c k.issued (k.w 0x08) 0 len else .ok ([], false) t) fun (bs, pm) u =>
        let (no, u) := u.collNumber gid k.issued c i
        if pm then u.finish c i 0x03 (u.collDetail gid)
        else
          let j : Joined := ⟨u.fnum.toNat, n, op, len, k.f 0x18 8, k.f 0x26 2, k.mdig⟩
          let u := (u.collGive gid no rank asid j bs).modInst gid no fun q => { q with cmd := some (c, i) }
          ((u.judge gid no).modCmd c i fun k => { k with inst := some no }).snooze c i

/-- Register a window (R415, R418). -/
def winReg (s : State) (c i n : Nat) : State :=
  let k := s.cmd c i
  let asid := (s.ctx c).asid.toNat
  let base := k.f 0x18 8
  let mine := s.fnum.toNat
  if k.prog = 0 then
    if s.winClash asid base (k.f 0x20 4) || 256 ≤ (s.windows.filter fun w => w.home = mine).length then s.finish c i 0x16 0
    else
      let rop := bits (k.f 0 1) 3 2
      let fmt := bits (k.f 1 1) 0 4
      let t := { s with windows := s.windows ++ [(⟨mine, asid, base, k.f 0x20 4, k.f 0x24 2, rop, fmt⟩ : Window)] }
      ((t.sendGroup (k.f 0x24 2) 2 asid base msgWindow [k.f 0x24 2, base, k.f 0x20 4, rop, fmt, c, i, k.gen] []).modCmd c i
        fun k => { k with prog := 1 }).snooze c i
  else if k.answers + 1 < n then s.snooze c i
  else if k.total != 0 then
    (({ s with windows := s.windows.filter fun w => !(w.home = mine && w.asid = asid && w.base = base) }).sendGroup
      (k.f 0x24 2) 2 asid base msgUnwindow [base, c, i, k.gen] []).finish c i 0x16 0
  else s.finish c i 0x01 0

/-- Remove a window once its epochs have closed (R418). -/
def winDereg (s : State) (c i n : Nat) : State :=
  let k := s.cmd c i
  let asid := (s.ctx c).asid.toNat
  let base := k.f 0x18 8
  let mine := s.fnum.toNat
  if k.prog = 0 then
    match s.windows.find? fun w => w.home = mine && w.asid = asid && w.base = base && w.gid = k.f 0x24 2 with
    | none => s.finish c i 0x05 0
    | some w =>
      let inside (va : Nat) : Bool := w.base ≤ va && va < w.base + w.len
      if s.merges.any (fun m => m.asid = asid && inside (64 * m.line)) || s.heldWrites.any (fun h => h.asid = asid && inside h.va)
      then s.snooze c i
      else (({ s with windows := s.windows.filter (· != w) }.sendGroup w.gid 2 asid base msgUnwindow [base, c, i, k.gen] []).modCmd c i
        fun k => { k with prog := 1 }).snooze c i
  else if k.answers + 1 < n then s.snooze c i
  else s.finish c i 0x01 0

/-- One step of `acoll` (R417-R422). -/
def stepColl (s : State) (c i : Nat) : State :=
  let k := s.cmd c i
  let gid := k.f 0x24 2
  s.withGroup c i gid fun s => match s.rankOf gid s.fnum.toNat with
  | none => s.finish c i 0x13 (if 2 ≤ bits (k.f 0 1) 0 3 then s.collDetail gid else 0)
  | some rank =>
    let n := s.groupN gid
    let op := bits (k.f 0 1) 0 3
    if op = 0 then s.winReg c i n
    else if op = 1 then s.winDereg c i n
    else match k.inst with
      | none => if s.collBehind c i k then s.snooze c i else s.collSend c i rank n
      | some no => match s.inst gid no with
        | some q => s.collRun c i q
        | none => s.snooze c i

/-! ### Multicast (R424) -/

/-- A multicast that stops midway: what it has sent is announced as all there is, with no flag to count, and the command ends once
every receiver has it (R350, R424). -/
def stopCast (s : State) (c i gid asid : Nat) (st detail : Nat) : State :=
  let k := s.cmd c i
  if k.prog = 0 then s.finish c i st detail
  else ((s.sendGroup gid 0 asid (k.f 0x10 8) msgCastEnd [c, i, k.gen, 64 * k.prog, 0] []).modCmd c i fun k => { k with
    stop := some (st, detail),
    asked := 1 }).snooze c i

/-- One step of `amcast`: a line, then the announcement of its end; the command completes once every receiver has answered,
PAGE_FAULT where one failed (R350, R424). -/
def stepCast (s : State) (c i : Nat) : State :=
  let k := s.cmd c i
  let gid := k.f 0x24 2
  let len := k.f 0x20 4
  let asid := (s.ctx c).asid.toNat
  s.withGroup c i gid fun s => match s.rankOf gid s.fnum.toNat with
  | none => s.finish c i 0x13 0
  | some _ =>
    let off := 64 * k.prog
    let dst := k.f 0x10 8
    if k.asked = 1 then
      (if k.answers + 1 < s.groupN gid then s.snooze c i
        else match k.stop with
          | some (st, d) => s.finish c i st d
          | none => s.finish c i 0x01 0)
    else if s.fencedBy c k.issued fun _ sc => 4 ≤ sc then s.snooze c i
    else if len ≤ off then
      ((s.sendGroup gid 0 asid dst msgCastEnd [c, i, k.gen, len, k.f 0x18 8] []).modCmd c i fun k => { k with asked := 1 }).snooze c i
    else
      match s.aread c k.issued (k.w 0x08) off 64 with
      | .hold q => s.held c i q
      | .fault r va => (s.wantPage asid va).stopCast c i gid asid 0x02
          (pageDetail 0 (bits (k.w 0x08).toNat 56 8) r)
      | .ok (bs, pm) t =>
        if pm then t.stopCast c i gid asid 0x03 0
        else ((t.sendGroup gid 0 asid (dst + off) msgCast [c, i, k.gen, dst + off] bs).modCmd c i
          fun k => { k with prog := k.prog + 1 }).snooze c i

/-! ### The array engine (R293-R295, R318-R322) -/

/-- Global ID of the pair an array-engine command works on. -/
def enginePair (c : Nat) (k : Cmd) : Nat := 16 * tileOf c + k.pairNo

/-- Whether a command is one of the array engine's. -/
def isArr (op : Nat) : Bool := 0x36 ≤ op && op ≤ 0x39

/-- Whether an earlier command on the pair has still to complete (R293, R318). -/
def pairBehind (s : State) (c i : Nat) (k : Cmd) : Bool :=
  (s.tileCmds (tileOf c)).any fun (d, j, q) => isArr q.op && q.pairNo = k.pairNo && !q.isDone &&
    (q.issued < k.issued || (q.issued = k.issued && (d < c || (d = c && j < i))))

/-- Analog peak that the hoist tables of a tile's running slice record, over all its hoists (R95, R293). -/
def tilePeak (s : State) (tile : Nat) : Nat :=
  ([2 * tile, 2 * tile + 1].map fun c =>
    let x := s.ctx c
    if x.run = .empty || x.run = .done || (s.gang x.gang).off then 0 else (x.hoists.map fun m => m.apeak).foldl max x.mark.apeak).sum

/-- Pairs of a die that engine commands hold, or held within the 63 beats before this one (R19, R293). -/
def heldOn (s : State) (die : Nat) : Nat :=
  (s.pairs.filter fun (pid, p) => dieOf (pid / 16) = die && (p.pstate = 1 || (p.freed != 0 && s.beat < p.freed + 63))).length

/-- Live pairs of the module (R212). -/
def livePairs (s : State) : Nat := ((List.range 16384).filter fun n => s.geom.pairs.getLsbD n).length

/-- The firmware's cap on the pairs of a die that commands hold: a free number of which four dies' take at most half of the
module's quarter (R19, R293, R304, log entry 13). -/
def engineCap (s : State) : Nat := if s.livePairs < 16 then 0 else max 1 (min (Config.engineCap + 1) (s.livePairs / 32))

/-- Pairs that commands or analog operations occupy in the window that ends now, a new one among them, the running slice's
operations at their recorded peak (R293). -/
def tileLoad (s : State) (pid : Nat) : Nat :=
  let tile := pid / 16
  (pid :: s.heldFrom tile (s.beat - 63)).dedup.length + max (s.tilePeak tile) (s.occupiedFrom tile (s.beat - 63)).dedup.length

/-- Whether an array-engine command may start, or is turned away, now: its producers have completed, no earlier command
is on the pair, and the pair is in thermal hold, or is enabled and free within the tile's limit (R293, R318). -/
def arrReady (s : State) (c i : Nat) : Bool :=
  let k := s.cmd c i
  let pid := enginePair c k
  let ps := (s.pair pid).pstate
  isArr k.op && !k.isDone && !k.started && k.wake ≤ s.beat && s.producersDone c k &&
    ((s.chainStatus c k).isSome || (!(s.pairBehind c i k) &&
      (ps = 2 || (ps = 0 && !(s.occupied pid) && s.tileLoad pid ≤ 4 && s.heldOn (dieOf (tileOf c)) < s.engineCap))))

/-- 16 x the sensed weight of a cell driven alone at level 128, in units of 2^-269: whole, F or S (R294). -/
def sense (p : Pair) (mode gamma key : Nat) : Int :=
  match mode with
  | 0 => 128 * p.weight gamma key
  | 1 => p.dF key * 16 * 2 ^ 136
  | _ => p.dS key * 16 * 2 ^ 136

/-- One one-hot read of a cell, as FP32 (R294). -/
def oneHot (p : Pair) (mode gamma key noise : Nat) : Nat :=
  (roundEx .fp32 .rne (adcValue (p.calF (key % 512)) 0 (adcCode (sense p mode gamma key) noise))).1

/-- The average of K reads of a cell (R294). -/
def avgRead (p : Pair) (mode gamma key K cols j base : Nat) : Nat :=
  let rs := (List.range K).map fun a => oneHot p mode gamma key (base + a * cols + j)
  let sum := rs.tail.foldl (fun x y => (fpAdd .fp32 .rne 0 x y).1) (rs.headD 0)
  (fpDiv .fp32 .rne 0 sum (floatOfInt .fp32 .rne 0 K).1).1

/-- One row of `xckpt` (R294, R319). -/
def ckptRow (s : State) (c i : Nat) : State :=
  let k := s.cmd c i
  let w := k.win
  let p := s.pair (enginePair c k)
  let K := k.f 1 1 + 1
  if w.rows ≤ k.prog then s.finish c i 0x01 0
  else
    let vs := (List.range w.cols).map fun j =>
      avgRead p (bits (k.f 0 1) 4 2) (k.f 0x20 2) (512 * (w.row0 + k.prog) + w.col0 + j) K w.cols j s.fresh
    let bs := vs.flatMap fun v => if k.elem = 2 then leBytes 2 (bf16OfFp32 .rne 0 v).1 else leBytes 4 v
    match s.awrite c k.issued (k.w 0x10) (k.prog * k.pitch) (clean bs) with
    | .ok _ t =>
      let u := { t with fresh := t.fresh + K * w.cols }.modCmd c i fun k => { k with prog := k.prog + 1 }
      if w.rows ≤ k.prog + 1 then u.finish c i 0x01 0 else u.snooze c i
    | .fault r va => s.faultAt c i k.prog (k.w 0x10) r va
    | .hold q => s.held c i q

/-- A target clamped to its array's window about the symmetry point (R295). -/
def clampTarget (par : BitVec 128) (x : Ex) : Ex :=
  let f (lo : Nat) : Ex := Ex.ofBits .bf16 (par.extractLsb' lo 16).toNat
  let lo := (Ex.add .rne (f 48) (f 32).neg).1
  let hi := (Ex.add .rne (f 64) (f 32).neg).1
  if Ex.lt x lo then lo else if Ex.lt hi x then hi else x

/-- Error of a cell against its target by a fresh read: polarity, steps to take and whether it is out of tolerance
(R295, log entry 64). -/
def progError (p : Pair) (onS : Bool) (tol : Nat) (key : Nat) (target : Ex) (noise : Nat) : Bool × Nat × Bool :=
  let r := Ex.ofBits .fp32 (oneHot p (if onS then 2 else 1) 0 key noise)
  let e := (Ex.add .rne target r.neg).1
  let mag : Ex := if e.sign then e.neg else e
  let dw := Ex.ofBits .bf16 ((if onS then p.parS else p.parF).extractLsb' 0 16).toNat
  let n := match (Ex.div mag dw).1 with
    | .fin _ m x => min (riNat m x) 63
    | .inf _ => 63
    | .nan _ => 0
  (!e.sign, n, Ex.lt (Ex.ofBits .bf16 tol) mag)

/-- One iteration of the verify loop on a row: cells (array, key, target) read, then stepped; how many were out. -/
def progIter (s : State) (pid tol : Nat) (cells : List (Bool × Nat × Ex)) (train : Bool) : Nat × State :=
  let p := s.pair pid
  let errs := ((List.range cells.length).zip cells).map fun (n, onS, key, x) => (onS, key, progError p onS tol key x (s.fresh + n))
  let out := errs.filter fun (_, _, _, _, o) => o
  let t := { s with fresh := s.fresh + cells.length }
  (out.length, if train then out.foldl (fun t (onS, key, up, n, _) =>
      t.stepCells pid onS (List.replicate n (key, up))) t else t)

/-- The verify loop of a row (R295): at most `fuel` trains, then a last read counts the cells left out. -/
def progLoop (pid tol : Nat) (cells : List (Bool × Nat × Ex)) : Nat → State → Nat × State
  | 0, s => s.progIter pid tol cells false
  | fuel + 1, s =>
    let (n, t) := s.progIter pid tol cells true
    if n = 0 then (0, t) else progLoop pid tol cells fuel t

/-- Elements of a row in memory. -/
def rowElems (z : Nat) (bs : List Byte) (cols : Nat) : List Ex :=
  (List.range cols).map fun j => Ex.ofBits (if z = 2 then .bf16 else .fp32) (leNat ((bs.drop (z * j)).take z))

/-- `xprog` completes: with the cells left out, or POISON with the first row of poisoned targets (R320). -/
def progEnd (s : State) (c i : Nat) : State :=
  let k := s.cmd c i
  s.finish c i (if k.low = 0 then 0x01 else 0x03) (if k.low = 0 then k.total else k.low - 1)

/-- One row of `xprog`; a report that must wait waits with its row programmed, and a page fault after a poisoned row ends the command
as one (R295, R320, log entry 75). -/
def progRow (s : State) (c i : Nat) : State :=
  let k := s.cmd c i
  let w := k.win
  let pid := enginePair c k
  let p := s.pair pid
  let z := k.elem
  let off := k.prog * k.pitch
  let plane := bits (k.f 0 1) 4 2 = 1
  let next (n : Nat) (bad : Bool) (u : State) : State :=
    let v := u.modCmd c i fun k => { k with
      prog := k.prog + 1,
      total := k.total + n,
      low := if bad ∧ k.low = 0 then k.prog + 1 else k.low,
      count := none }
    if w.rows ≤ k.prog + 1 then v.progEnd c i else v.snooze c i
  let report (n : Nat) (v : State) : State :=
    if k.f 0x28 8 = 0 then next n false v
    else match v.awrite c k.issued (k.w 0x28) (2 * k.prog) (clean (leBytes 2 n)) with
      | .ok _ x => next n false x
      | .fault r va => v.faultAt c i k.prog (k.w 0x28) r va
      | .hold q => (v.modCmd c i fun k => { k with count := some n }).held c i q
  if w.rows ≤ k.prog then s.progEnd c i
  else match k.count with
  | some n => report n s
  | none =>
    match s.aread c k.issued (k.w 0x10) off (w.cols * z) with
    | .hold q => s.held c i q
    | .fault r va => s.faultAt c i k.prog (k.w 0x10) r va
    | .ok (b0, m0) t =>
      match (if plane then t.aread c k.issued (k.w 0x18) off (w.cols * z) else .ok ([], false) t) with
      | .hold q => s.held c i q
      | .fault r va => s.faultAt c i k.prog (k.w 0x18) r va
      | .ok (b1, m1) u =>
        if m0 || m1 then next 0 true u
        else
          let x0 := rowElems z b0 w.cols
          let fs := if plane then x0 else x0.map fun _ => Ex.fin false 0 0
          let ss := if plane then rowElems z b1 w.cols else x0
          let keys := (List.range w.cols).map fun j => 512 * (w.row0 + k.prog) + w.col0 + j
          let cells := ((keys.zip fs).map fun (q, x) => (false, q, clampTarget p.parF x)) ++
            ((keys.zip ss).map fun (q, x) => (true, q, clampTarget p.parS x))
          let (n, v) := progLoop pid (k.f 0x22 2) cells (k.f 2 1 % 16) u
          report n v

/-- A parameter record with a 16-bit field replaced. -/
def setPar (r : BitVec 128) (lo : Nat) (v : BitVec 16) : BitVec 128 :=
  (r &&& ~~~(0xFFFF#128 <<< lo)) ||| (v.setWidth 128 <<< lo)

/-- A record with its measured fields from free values, and MEASN (R288, R321). -/
def measure (r : BitVec 128) (fields : List Nat) (base : Nat) (measn : BitVec 16) : BitVec 128 :=
  setPar (((List.range fields.length).zip fields).foldl (fun r (n, lo) => setPar r lo (Config.measured (base + n))) r) 112 measn

end State

/-- A pair after `xcal`, its values free from number `base` on: both calibration tables and RNOISE of both records
(R321). -/
def Pair.calibrated (p : Pair) (base : Nat) : Pair :=
  let entry (n : Nat) : Half := Config.measured (base + 2 * n + 1) ++ Config.measured (base + 2 * n)
  { p with
    measn := p.measn + 1,
    calfw := ((List.range 512).map fun n => (n, entry n)),
    calbw := ((List.range 512).map fun n => (n, entry (512 + n))),
    parF := State.measure p.parF [80] (base + 2048) (p.measn + 1),
    parS := State.measure p.parS [80] (base + 2049) (p.measn + 1) }

/-- A pair after `xsym` of the arrays ARR selects: SP, DWMIN, ASYM, GMIN, GMAX and C2C, and SPF, SPS (R321). -/
def Pair.symmetric (p : Pair) (arr base : Nat) : Pair :=
  let fields := [32, 0, 16, 48, 64, 96]
  let n := p.measn + 1
  let q := if arr = 2 then p else { p with parF := State.measure p.parF fields base n, spf := Config.measured base }
  let q := if arr = 1 then q else { q with parS := State.measure p.parS fields (base + 6) n, sps := Config.measured (base + 6) }
  { q with measn := n }

namespace State

/-- A measured pair whose record leaves R289 is to be retired (R292). -/
def judgePair (s : State) (pid : Nat) : State :=
  if (s.pair pid).ok || s.suspects.contains pid then s else { s with suspects := s.suspects ++ [pid] }

/-- `xcal` completes (R321). -/
def calDone (s : State) (c i : Nat) : State :=
  let pid := enginePair c (s.cmd c i)
  (({ s with fresh := s.fresh + 2050 }.modPair pid fun p => p.calibrated s.fresh).judgePair pid).finish c i 0x01 0

/-- `xsym` completes (R321). -/
def symDone (s : State) (c i : Nat) : State :=
  let arr := bits ((s.cmd c i).f 0 1) 4 2
  let pid := enginePair c (s.cmd c i)
  (({ s with fresh := s.fresh + 12 }.modPair pid fun p => p.symmetric arr s.fresh).judgePair pid).finish c i 0x01 0

/-! ### Start and step of any command -/

/-- Start value of a copy's running CRC (R361). -/
def crcStart (s : State) (c : Nat) (k : Cmd) : Option Nat :=
  if k.op != 0x30 then none
  else match bits (k.f 0 1) 2 2 with
    | 0 => none
    | 1 => some 0xFFFFFFFF
    | _ => some (((s.cmd c (k.prods.headD 0)).crc).getD 0xFFFFFFFF)

/-- Whether a command reads or writes HBM, which takes an open interval (R210). -/
def usesHbm (k : Cmd) : Bool :=
  k.op = 0x32 || k.op = 0x33 || k.op = 0x34 || k.op = 0x35 || (k.op = 0x30 && k.f 0x1C 2 != 0xFFFF) ||
  ((if k.op = 0x30 then [0x0F, 0x17, 0x27] else if k.op = 0x31 then [0x0F]
    else if k.op = 0x36 then [0x17] else if k.op = 0x37 then [0x17, 0x1F, 0x2F]
    else if 0x3A ≤ k.op ∧ k.op ≤ 0x3C then [0x0F] else []).any fun o => k.f o 1 != 0)

/-- A command makes the accesses of a step, by the walker of its tile's die (R199). -/
def asCmd (s : State) (c i : Nat) : State := { s with
  asker := .cmd c i,
  die := dieOf (tileOf c) }

/-- One step of a started command: its accesses are its own in the queue of a committing page; one that has performed waits
only for its bank-cycles (R246, R350, R368). -/
def stepCmd (s : State) (c i : Nat) : State :=
  let s := s.asCmd c i
  let k := s.cmd c i
  match k.ending with
  | some (st, d) => s.finish c i st d
  | none =>
  match k.op with
  | 0x30 => s.stepCopy c i
  | 0x31 => s.stepAtom c i
  | 0x32 => s.stepRed c i
  | 0x33 => s.stepMove c i
  | 0x34 => s.stepColl c i
  | 0x35 => s.stepCast c i
  | 0x36 => s.ckptRow c i
  | 0x37 => s.progRow c i
  | 0x38 => s.calDone c i
  | 0x39 => s.symDone c i
  | 0x3D => if s.mustWait c k then s.snooze c i else s.finish c i 0x01 0
  | _ => s.stepBar c i

/-- Whether a general command may start, or be turned away, now (R248, R352); a synchronising collective that is poisoned reads the
group table for its DETAIL (R210, R419). -/
def cmdReady (s : State) (c i : Nat) : Bool :=
  let k := s.cmd c i
  !(isArr k.op) && !k.isDone && !k.started && !k.cancelled && k.wake ≤ s.beat && s.producersDone c k &&
    (s.openNow || !(s.syncColl c i) || !((s.chainStatus c k).any fun x => x.1 = 0x03))

/-- Whether a started command has a step to make now; one that uses HBM in an open interval (R210). -/
def cmdDue (s : State) (c i : Nat) : Bool :=
  let k := s.cmd c i
  !k.isDone && k.started && !k.cancelled && k.wake ≤ s.beat && (s.openNow || k.ending.isSome || !(usesHbm k))

end State

/-- A command whose producers have completed begins, or completes POISON or CHAIN_BROKEN (R248, R352). Operands:
context and command. -/
def execEngineCommandStart (s : State) : Res1 :=
  let c := s.arg 0
  let i := s.arg 1
  .next (if !(s.cmdReady c i) then s
    else match s.chainStatus c (s.cmd c i) with
      | some (st, d) =>
        if st = 0x03 ∧ s.syncColl c i then
          (s.asCmd c i).withGroup c i ((s.cmd c i).f 0x24 2) fun t =>
            (t.skipColl c i).finish c i st (t.collDetail ((t.cmd c i).f 0x24 2))
        else (s.skipColl c i).finish c i st d
      | none =>
        let v := s.crcStart c (s.cmd c i)
        (s.modCmd c i fun k => { k with
          started := true,
          gen := s.fresh,
          crc := v }).snooze c i)

/-- An array-engine command starts on its pair and holds it, or completes POISON, CHAIN_BROKEN or THERMAL (R293, R318,
R352). -/
def execArrayEngineStart (s : State) : Res1 :=
  let c := s.arg 0
  let i := s.arg 1
  .next (if !(s.arrReady c i) then s
    else match s.chainStatus c (s.cmd c i) with
      | some (st, d) => s.finish c i st d
      | none =>
        let pid := State.enginePair c (s.cmd c i)
        if (s.pair pid).pstate = 2 then s.finish c i 0x09 0
        else ((s.modPair pid fun p => { p with pstate := 1 }).modCmd c i fun k => { k with
          started := true,
          pairHeld := true }).snooze c i)

/-- A started command makes its next step; with the last one its accesses have performed, and its record, token and
counter follow (R247, R349, R350). -/
def execEngineCommandCompletion (s : State) : Res1 :=
  .next (if s.cmdDue (s.arg 0) (s.arg 1) then s.stepCmd (s.arg 0) (s.arg 1) else s)

/-- 65,536 beats after its install, an old home stops forwarding and refuses what still comes by a translation cached
before; once no such translation is cached there is nothing left to refuse (R369). -/
def execStaleForwardingExpiry (s : State) : Res1 :=
  let t := { s with forwards := s.forwards.map fun (f : Forward) => if f.last ≤ s.beat ∧ f.own.isNone then { f with gone := true, queue := [] } else f }
  let stale (f : Forward) (x : Tlb) : Bool := { t with forwards := [f] }.placementStale x || { t with forwards := [f] }.entryStale x
  .next { t with forwards := t.forwards.filter fun (f : Forward) => !f.gone || t.tlb.any (stale f) }

end Sys2Proof.Machine
end

