-- ==== Sys2Proof/Machine/Frame.lean ====
section
/-! DEFINITION. The bytes of a context frame: header, section table, sections and held items (spec 19 R386, R390, R399). What
R399 leaves open within a section is the model's layout (log entry 21). -/

namespace Sys2Proof.Machine

/-! ### Values with their units' marks -/

/-- A list of units of `n` bytes, then one mark byte per unit. -/
def markedUnits (n : Nat) (l : List (Nat × Bool)) : List Byte :=
  l.flatMap (fun x => leBytes n x.1) ++ l.map fun x => if x.2 then 1 else 0

/-- FFL of a frame (R399). -/
def frameFlags (failed : Bool) (g : Gang) (x : Ctx) : Nat :=
  let why (w : Why) : Bool := match g.fz with
    | some f => f.why = w
    | none => false
  failed.toNat + 2 * (why .preempt).toNat + 4 * (why .trap).toNat + 8 * x.wait.isSome.toNat + 16 * (x.run = .rewinding : Bool).toNat

/-! ### Sections 0 to 3: the registers of a context, or of its snapshot -/

/-- Section 0: general registers, predicates, the loop stack, the program counter and the special registers 0x07 to 0x13
(R121, R399). -/
def frameScalar (x : Ctx) (r : Regs) : List Byte :=
  let loops := (List.range 4).flatMap fun i => match r.loops[i]? with
    | some l => leBytes 2 l.start.toNat ++ leBytes 2 l.stop.toNat ++ leBytes 4 (l.count % 2 ^ 31 + 2 ^ 31 * l.rot.toNat)
    | none => leBytes 8 0
  let sr := [r.fstat.toNat, r.burg.toNat, r.seedlo.toNat, r.seedhi.toNat, r.dcnt.toNat, r.rotpos, x.budget.toNat, x.deadln.toNat,
    0, r.tcode.toNat, r.targ.toNat, r.tbeat.toNat, x.rply.toNat]
  markedUnits 8 ((List.range 32).map fun n => ((r.gr n).toNat, r.isMarked (keyG n))) ++
  markedUnits 1 ((List.range 16).map fun n => ((r.pr n).toNat, r.isMarked (keyP n))) ++ loops ++
  leBytes 2 r.pc.toNat ++ leBytes 2 r.loops.length ++ leBytes 4 0 ++ sr.flatMap (leBytes 8)

/-- Section 1: NV vector registers and m1 to m7 (R126, R127). -/
def frameVector (x : Ctx) (r : Regs) : List Byte :=
  markedUnits 4 ((List.range x.nv).flatMap fun n => (List.range 128).map fun l => ((r.lane n l).toNat, r.isMarked (unitV n l))) ++
  markedUnits 16 ((List.range' 1 7).map fun n => ((r.mr n).toNat, r.isMarked (keyM n)))

/-- A FIFO: its slots with tags and marks, Wq, Cq, and the landing cycle of each reserved position (R174, R177). -/
def frameFifo (hb q : Nat) (r : Regs) : List Byte :=
  let f := r.fifo q
  let slot (i : Nat) : BitVec 512 × BitVec 32 := tget (0, 0) f.slots i
  markedUnits 68 ((List.range 64).map fun i => ((slot i).1.toNat + 2 ^ 512 * (slot i).2.toNat, r.isMarked (unitQ q i))) ++
  leBytes 8 f.wq ++ leBytes 8 f.cq ++ (List.range 64).flatMap fun i => leBytes 8 (tget hb f.land (f.wq + i - 64) - hb)

/-- Section 2: accumulators and FIFOs. -/
def frameMatrix (x : Ctx) (r : Regs) : List Byte :=
  ((List.range x.accs).flatMap fun z => markedUnits 128 ((List.range 32).map fun i =>
    (leNat (bytesOfLanes ((List.range 32).map fun j => r.acc z (32 * i + j))), r.isMarked (unitZ z i)))) ++
  frameFifo x.hbase 0 r ++ frameFifo x.hbase 1 r

/-- Section 3: token bindings, counters, and the outstanding commands with their block addresses (R351, R356). -/
def frameTokens (x : Ctx) (r : Regs) : List Byte :=
  let out := x.cmds.filter fun c => !c.2.isDone
  (List.range 64).flatMap (fun t => leBytes 8 (tget 0 r.tok t)) ++ (List.range 16).flatMap (fun k => leBytes 2 (tget 0 r.k k).toNat) ++
  leBytes 8 out.length ++ out.flatMap fun c => leBytes 8 c.1 ++ leBytes 8 c.2.pos ++ leBytes 1 c.2.op ++ leBytes 7 0

/-! ### Section 4: held items (R386, R390, R399) -/

/-- One held item before its head is laid out: kind, target, value, and the marks of its value's units, one bit each. -/
structure Held where
  kind : Nat
  tgt : Nat
  val : List Byte := []
  mks : Nat := 0
  deriving DecidableEq, Repr

/-- The mark word of a value that is marked whole, or not at all. -/
def wholeMark (mk : Bool) : Nat := if mk then 2 ^ 32 - 1 else 0

/-- The mark word of numbered units, each with its mark. -/
def markWord (l : List (Nat × Bool)) : Nat := l.foldl (fun m x => if x.2 then m ||| 2 ^ (x.1 % 32) else m) 0

/-- Values of at most 512 bytes each, with the offset of each from the first. -/
def heldParts : Nat → Nat → List Byte → List (Nat × List Byte)
  | 0, _, _ => []
  | n + 1, o, bs => if bs.isEmpty then [] else (o, bs.take 512) :: heldParts n (o + 512) (bs.drop 512)

/-- TGT of a register: class 0 general, 1 predicate, 2 special, 3 vector, 4 mask, 5 accumulator, 6 and 7 FIFOs, 8 AWIN, 9 AGAIN,
10 XSEED, with its index and 32 bits of lane mask or row. -/
def regTgt (cls i : Nat) (m : Nat) : Nat := i + 2 ^ 16 * cls + 2 ^ 32 * m

/-- Lands on lanes, a quarter of the register at a time: the mask names lanes within the quarter. -/
def heldLanes (n : Nat) (vals : List (Nat × Half × Bool)) : List Held :=
  (List.range 4).filterMap fun q =>
    let l := vals.filter fun v => v.1 / 32 = q
    if l.isEmpty then none
    else some ⟨0, regTgt 3 (n + 256 * q) (l.foldl (fun m v => m ||| 2 ^ (v.1 % 32)) 0), bytesOfLanes (l.map (·.2.1)),
      markWord (l.map fun v => (v.1, v.2.2))⟩

/-- A pool write's pieces. -/
def heldPool (tile : Nat) (chunks : List (Nat × List Byte × Bool)) : List Held :=
  chunks.flatMap fun (o, bs, mk) => (heldParts (bs.length / 512 + 1) o bs).map fun p => ⟨4, p.1 + 2 ^ 32 * tile, p.2, wholeMark mk⟩

/-- The held items that stand for an item in flight; every item has at least one (R386). -/
def Ctx.heldOf (x : Ctx) : Act → List Held
  | .g r v pm => [⟨0, regTgt 0 r 0, leBytes 8 v.toNat, wholeMark pm⟩]
  | .p r v pm => [⟨0, regTgt 1 r 0, [if v then 1 else 0], wholeMark pm⟩]
  | .preds vs => vs.map fun v => ⟨0, regTgt 1 v.1 0, [if v.2 then 1 else 0], 0⟩
  | .lanes n vals => heldLanes n vals
  | .m n v pm => [⟨1, regTgt 4 n 0, leBytes 16 v.toNat, wholeMark pm⟩]
  | .sreg i v => [⟨0, regTgt 2 i 0, leBytes 8 v.toNat, 0⟩]
  | .flags f => [⟨8, 0, [f.setWidth 8], 0⟩]
  | .fold ws => [⟨7, 0, ws.flatMap fun w => leBytes 8 w.toNat, 0⟩]
  | .draws n => [⟨0, regTgt 2 0x0B 0, leBytes 8 n, 0⟩]
  | .awin p v => [⟨0, regTgt 8 p 0, leBytes 8 v.toNat, 0⟩]
  | .again p v => [⟨0, regTgt 9 p 0, leBytes 8 v.toNat, 0⟩]
  | .xseed p v => [⟨0, regTgt 10 p 0, leBytes 8 v.toNat, 0⟩]
  | .pool tile chunks => heldPool tile chunks
  | .vldHalf n off => [⟨5, off, leBytes 8 n, 0⟩]
  | .vldbScale n _ parts => parts.map fun p => ⟨5, p.2.1, leBytes 8 n, markWord ((List.range p.2.2.length).zip (p.2.2.map (·.2)))⟩
  | .qldGroup q _ es => es.map fun e => ⟨5, e.2.1, leBytes 8 q ++ leBytes 8 e.1, 0⟩
  | .qldScale q _ es => es.map fun e => ⟨5, e.2.2.2, leBytes 8 q ++ leBytes 8 e.1, wholeMark e.2.2.1⟩
  | .fifo q es => es.map fun e =>
      ⟨3, regTgt (6 + q) e.1 0, leBytes 64 e.2.1.toNat ++ leBytes 4 e.2.2.1.toNat, wholeMark e.2.2.2⟩
  | .flit _ tile off bs marks => [⟨4, off + 2 ^ 32 * tile, bs, markWord ((List.range marks.length).zip marks)⟩]
  | .arrive _ c => [⟨4, 2 ^ 32 * (c / 2), [], 0⟩]
  | .hbmRead loc _ _ _ _ => [⟨6, loc, [], 0⟩]
  | .hbmWrite loc _ off => [⟨6, loc, leBytes 8 off, 0⟩]
  | .hbmLand loc dst tgt pos bs pm =>
    if dst = 0 then [⟨4, tgt, bs, wholeMark pm⟩] else if dst = 1 then [⟨3, regTgt (6 + tgt) pos 0, bs, wholeMark pm⟩]
    else [⟨6, loc, bs, wholeMark pm⟩]
  | .hbmPerform loc bs pm => [⟨6, loc, bs, wholeMark pm⟩]
  | .frame _ f ok => [⟨6, f, [if ok then 1 else 0], 0⟩]
  | .hrdtLand q p k => [⟨3, regTgt (6 + q) p 0, [], markWord ((tget [] x.gather k).map fun l => (l.1, l.2.2))⟩]
  | .mmaRead _ _ _ _ z _ _ _ _ _ => [⟨2, regTgt 5 z 0, [], 0⟩]
  | .mmaAcc _ _ _ _ z _ _ => [⟨2, regTgt 5 z 0, [], 0⟩]
  | .zland z vals rows => (heldParts (vals.length / 128 + 1) 0 (bytesOfLanes (vals.map (·.2)))).map fun p =>
      ⟨2, regTgt 5 z (p.1 / 128), p.2, markWord (rows.map fun r => (r, true))⟩
  | .zldRow _ z off _ _ rows _ => [⟨5, off, leBytes 8 z, markWord (rows.map fun r => (r, true))⟩]
  | .zstRead _ _ z off _ _ _ => [⟨4, off, leBytes 8 z, 0⟩]
  | .ain n g => [⟨5, (tget .absent x.ops n).src + 256 * g, leBytes 8 n, 0⟩]
  | .aout n g =>
    let o := tget .absent x.ops n
    [⟨4, o.dst + 256 * g, bytesOfLanes ((o.outs.drop (64 * g)).take 64), 0⟩]
  | .pulse n i => [⟨0, regTgt 10 n i, [], 0⟩]
  | .digital n => [⟨0, regTgt 10 n 0, [], 0⟩]
  | .train n => [⟨0, regTgt 10 n 0, [], 0⟩]
  | .lost _ a => x.heldOf a

/-- A held item: the 16-byte head H, KIND, SLOT, LEN and TGT, then its value, padded to 16 bytes (R399). -/
def heldBytes (h slot : Nat) (k : Held) : List Byte :=
  let n := (k.val.length + 15) / 16
  leBytes 4 h ++ leBytes 2 (k.kind + 16 * (slot % 16) + 256 * n) ++ leBytes 2 0 ++ leBytes 8 k.tgt ++ k.val ++
  List.replicate (16 * n - k.val.length) 0

/-- Section 4: every item in flight by the HCYC at which it takes effect, then a mark word for each; an item that has
consumed poison is marked whole (R386, R390, R399). -/
def frameHeld (x : Ctx) : List Byte :=
  x.items.flatMap (fun it => (x.heldOf it.act).flatMap (heldBytes (it.due - x.hbase) it.slot)) ++
  x.items.flatMap fun it => (x.heldOf it.act).flatMap fun h => leBytes 4 (if it.bad then wholeMark true else h.mks)

/-! ### The other sections, and the whole frame -/

/-- Section 5: the blocks of cancelled copies (R355). -/
def frameBlocks (x : Ctx) : List Byte := (x.cmds.filter fun c => c.2.cancelled).flatMap fun c => leBytes 8 c.1 ++ c.2.blk

/-- AWIN and AGAIN of every pair, XSEED and STEP of the update-granted pairs (R274, R399). -/
def pairRegs (r : Regs) (ps : Table (Word × Half)) : List Byte :=
  (List.range 16).flatMap (fun p => leBytes 8 (tget awinReset r.awin p).toNat ++ leBytes 4 (tget againReset r.again p).toNat) ++
  ps.flatMap fun p => leBytes 4 p.1 ++ leBytes 8 p.2.1.toNat ++ leBytes 4 p.2.2.toNat

/-- Section 8: the pairs' registers and the holding latches (R298). -/
def framePairs (f : SavedCtx) : List Byte :=
  pairRegs f.ctx.regs f.pairs ++ f.ctx.ops.flatMap fun o => leBytes 8 o.1 ++ bytesOfLanes o.2.outs

/-- One bit for each 16-byte chunk of the scratchpad area: its mark. -/
def frameMap (base n : Nat) (marks : Table Bool) : List Byte :=
  (List.range (n / 128)).map fun i => BitVec.ofNat 8 ((List.range 8).foldl (fun v j =>
    if (tfind marks (base + 16 * (8 * i + j))).isSome then v + 2 ^ j else v) 0)

/-- The nine sections of a frame: the program counter and the loops as they stand at the next bundle, the snapshot with the
registers of its pairs (R274, R399). -/
def frameSections (f : SavedCtx) : List (List Byte) :=
  let x := f.ctx
  [frameScalar x x.settled.regs, frameVector x x.regs, frameMatrix x x.regs, frameTokens x x.regs, frameHeld x, frameBlocks x,
    frameScalar x x.snap ++ frameVector x x.snap ++ frameMatrix x x.snap ++ frameTokens x x.snap ++ pairRegs x.snap x.xsnap,
    f.pool ++ frameMap (poolAt (tileOf f.cid) x.spLo) f.pool.length f.marks, framePairs f]

/-- The section table: offset in 64-byte units and length of each section, the first after the header (R399). -/
def sectTable : Nat → List Nat → List Byte
  | _, [] => []
  | o, n :: r => leBytes 4 o ++ leBytes 4 n ++ sectTable (o + (n + 63) / 64) r

/-- The 256-byte header (R399). -/
def frameHeader (f : SavedCtx) : List Byte :=
  let x := f.ctx
  let st := sectTable 4 ((frameSections f).map List.length)
  leBytes 4 0x4D524643 ++ leBytes 2 1 ++ leBytes 2 f.ffl ++ leBytes 2 (tileOf f.cid) ++
  leBytes 2 (x.pos.2.2 + 16 * x.pos.2.1 + 256 * x.pos.1) ++ leBytes 4 x.ctxid.toNat ++ leBytes 4 x.part.toNat ++
  leBytes 4 x.xgrant.toNat ++ leBytes 2 x.asid.toNat ++ leBytes 2 x.gang ++ leBytes 2 x.rply.toNat ++
  leBytes 2 (x.rs.toNat + 2 * x.sc.toNat) ++ leBytes 8 f.beatz ++ leBytes 8 f.hz ++ leBytes 8 f.charge ++
  leBytes 4 f.recseq ++ leBytes 4 0 ++ st ++ List.replicate (128 - st.length) 0 ++ leBytes 64 0

/-- The bytes of a frame: its header and its sections, each padded to 64 bytes (R399). -/
def frameImage (f : SavedCtx) : List Byte :=
  frameHeader f ++ (frameSections f).flatMap fun l => l ++ List.replicate ((64 - l.length % 64) % 64) 0

/-- Whether the header bytes read back match a frame of the slice being restored: MAGIC, FVER, TILEID, PART and GANGID (R398). -/
def SavedCtx.headerOk (f : SavedCtx) (gid : Nat) (h : List Byte) : Bool :=
  let g (o n : Nat) : Nat := leNat ((h.drop o).take n)
  g 0 4 = 0x4D524643 && g 4 2 = 1 && g 8 2 = tileOf f.cid && g 0x10 4 = f.ctx.part.toNat && g 0x1A 2 = gid % 65536

end Sys2Proof.Machine
end

