-- ==== Sys2Proof/Machine/Hoist.lean ====
section
/-! DEFINITION. Hoist entry, context switches, rewinds, freezes, pre-emption, context frames and restarts (spec 02 R41-R43,
05 R117-R123, 06 R149, 13 R297-R300, 19 R387-R402). -/

namespace Sys2Proof.Machine

/-- The first multiple of `f` at or after `b` (R206). -/
def alignUp (f b : Nat) : Nat := (b + f - 1) / f * f

/-- Gather beats G (R149). -/
def Gang.gather (g : Gang) : Nat :=
  if g.members.length ≤ 1 then 0 else if g.dies.length ≤ 1 then 4 else 32

/-- The hoist-mark entry of an address; an unlisted hoist is unmarked (R95). -/
def Ctx.markAt (x : Ctx) (pc : Nat) : HoistMark :=
  (x.hoists.find? fun h => h.entry.toNat = pc).getD ⟨BitVec.ofNat 16 pc, false, false, 0, []⟩

/-- Registers as a snapshot holds them: no mark is of the new attempt, no MMA has issued (R41, R180, R383). -/
def Regs.fresh (r : Regs) : Regs := { r with
  marks := (r.marks.map fun (u, _) => (u, false)),
  lastMma := none }

namespace State

/-- The hoist-mark entry of a context's next bundle. -/
def nextMark (s : State) (c : Nat) : HoistMark := (s.ctx c).markAt (s.seqAddr (tileOf c) (s.ctx c).pcNext.toNat)

/-- Whether the hoist that a gang begins next is HBM-marked (R95, R206). -/
def nextHbm (s : State) (gid : Nat) : Bool := (s.gang gid).members.any fun c => (s.nextMark c).hbm

/-- BUDGET: what CBUDGET leaves, or all ones (R338). -/
def budgetOf (s : State) (gid : Nat) : Word :=
  let sl := (s.gang gid).slice
  if sl.cbudget = 0 then BitVec.allOnes 64 else Word.ofNat sl.cbudget - Word.ofNat sl.charge

/-- XSEED and STEP of the pairs a context may update (R274). -/
def xsnapOf (s : State) (c : Nat) : Table (Word × Half) :=
  ((List.range 16).filter fun p => (s.ctx c).xgrant.getLsbD (2 * p + 1)).map fun p =>
    let pid := 16 * tileOf c + p
    (pid, (s.pair pid).xseed, (s.pair pid).step)

/-- A context enters a hoist at this beat: mark, snapshot, live bits, RPLY 0, BUDGET (R29, R41, R95, R121, R387). -/
def enterCtx (s : State) (c : Nat) : State :=
  let s := s.modCtx c Ctx.settled
  let mk := s.nextMark c
  let xs := s.xsnapOf c
  let b := s.budgetOf (s.ctx c).gang
  let s := { s with undo := tdel s.undo c }
  s.modCtx c fun x => { x with
    run := .running,
    regs := x.regs.fresh,
    snap := x.regs.fresh,
    xsnap := xs,
    mark := mk,
    rs := mk.rs,
    sc := true,
    rply := 0,
    budget := b,
    hbase := s.beat,
    nextAt := s.beat,
    cmd0 := x.nextCmd,
    op0 := x.nextOp,
    rew := none,
    wait := none }

/-- Every member of a gang enters a hoist at this beat (R139). -/
def enterHoist (s : State) (gid : Nat) : State :=
  let h := s.nextHbm gid
  ((s.gang gid).members.foldl enterCtx s).modGang gid fun g => { g with entry := none, hbm := h }

/-! ### Rendezvous (R117-R119, R149, R338, R340, R353, R400) -/

/-- The forms the members of a gang wait with; `none` while one has not arrived. -/
def formsOf (s : State) (gid : Nat) : Option (List Rdv) :=
  (s.gang gid).members.mapM fun c => if (s.ctx c).run = .waiting then (s.ctx c).wait.map (·.form) else none

/-- Whether the members' forms may not meet (R119, R358). -/
def mixedForms (fs : List Rdv) : Bool :=
  !(fs.all fun f => f = .rdvfin) && !(fs.all fun f => f = .swapctx) && fs.any fun f => f = .rdvfin || f = .swapctx

/-- Whether no member's counter is still awaited. -/
def noPend (s : State) (gid : Nat) : Bool :=
  (s.gang gid).members.all fun c => match (s.ctx c).wait with
    | some w => !w.pend
    | none => false

/-- The latest end of the members' own waits. -/
def lastEnd (s : State) (gid : Nat) : Nat :=
  (s.gang gid).members.foldl (fun n c => match (s.ctx c).wait with
    | some w => max n w.over
    | none => n) 0

/-- The beat P of R117: 0 without a predecessor, `none` while it has not completed. -/
def predBeat (s : State) (gid : Nat) : Option Nat :=
  let sl := (s.gang gid).slice
  match sl.pred with
  | none => some 0
  | some _ => sl.predAt

/-- Whether a gang's rendezvous is complete, so that its next entry can be fixed or taken now. -/
def entryDue (s : State) (gid : Nat) : Bool :=
  !(s.gangFrozen gid) && !(s.gang gid).off && match (s.gang gid).entry with
    | some e => e ≤ s.beat && (s.formsOf gid).isSome
    | none => match s.formsOf gid with
      | none => false
      | some fs => !fs.isEmpty && !(fs.all fun f => f = .rdvfin) && s.noPend gid && s.lastEnd gid ≤ s.beat + 1 &&
          (!(fs.contains .predwait) || (s.predBeat gid).isSome)

/-- Fix the entry beat: the latest wait, the gather and withheld beats, the predecessor, the frame (R149, R206, R400). -/
def fixEntry (s : State) (gid : Nat) (fs : List Rdv) : State :=
  let g := s.gang gid
  let (n, s) := s.free
  let e := s.lastEnd gid + g.gather + Config.withheld n % 65536
  let e := max s.beat (if fs.contains .predwait then max e ((s.predBeat gid).getD 0) else e)
  let e := if s.nextHbm gid && !(fs.contains .swapctx) then alignUp s.geom.frameF e else e
  s.modGang gid fun g => { g with entry := some e }

/-- HCYC that the hoist just ended charges: the largest of its members' (R338). -/
def hoistCharge (s : State) (gid : Nat) : Nat := (s.gang gid).members.foldl (fun n c => max n (s.ctx c).hz) 0

/-- Faults that completions of a context raise, where `p` selects the counted ones; in the order of R380. -/
def completionFaults (s : State) (c : Nat) (p : Cmd → Bool) : List (Nat × Nat) :=
  let fs := (s.ctx c).cmds.filterMap fun (_, k) => if k.isDone && !k.raised && p k then statusFault k.status else none
  [0x0A, 0x0D, 0x0F, 0x10].flatMap fun code => fs.filter fun f => f.1 = code

/-- The faults a member takes at its rendezvous, in the order of R380. -/
def rdvFaults (s : State) (gid c : Nat) (fs : List Rdv) : List (Nat × Nat) :=
  let sl := (s.gang gid).slice
  (if sl.cbudget ≠ 0 ∧ sl.cbudget < sl.charge + s.hoistCharge gid then [(0x0C, 0)] else []) ++
  (if fs.contains .predwait && sl.predFailed then [(0x0E, 0)] else []) ++
  (match (s.ctx c).wait with
    | some w => if w.form = .waitk then s.completionFaults c fun k => k.cnt = some w.k && k.done ≤ w.w else []
    | none => []) ++
  (if mixedForms fs then [(0x03, 0x0F)] else [])

/-- Take the first of a member's rendezvous faults; more of them set MORE (R379, R380). -/
def takeRdv (s : State) (c : Nat) (l : List (Nat × Nat)) : State :=
  match l with
  | [] => s
  | (code, d) :: r =>
    let t := s.takeFault c code d 0xFF 0 0 false false
    if r.isEmpty then t else t.setMore c

/-- Whether some context runs or is to run on a tile for a gang other than `gid`. -/
def tileBusy (s : State) (gid tile : Nat) : Bool :=
  [2 * tile, 2 * tile + 1].any fun c =>
    let x := s.ctx c
    x.run != .empty && x.gang != gid && (!(s.gang x.gang).off || (s.gang x.gang).resume.isSome)

/-- Gangs that are resident but off, share a tile with `gid`, and can run once it leaves: those the dispatcher has marked
runnable (R118, R395, log entry 73). -/
def runnable (s : State) (gid : Nat) : List Nat :=
  let tiles := (s.gang gid).members.map tileOf
  (tkeys s.gangs).filter fun h =>
    let g := s.gang h
    h != gid && g.off && g.resume.isNone && g.members.any (fun c => tiles.contains (tileOf c)) &&
      g.members.all fun c => [2 * tileOf c, 2 * tileOf c + 1].all fun d =>
        (s.ctx d).run = .empty || (s.ctx d).gang = h || (s.ctx d).gang = gid ||
          ((s.gang (s.ctx d).gang).off && (s.gang (s.ctx d).gang).resume.isNone)

/-- The runnable gangs that share no tile, by rising number, are to run 300 beats from now (R118, R395, log entry 61). -/
def leave (s : State) (gid : Nat) : State :=
  (s.runnable gid).foldl (fun t h =>
    if (t.runnable gid).contains h then t.modGang h fun g => { g with resume := some (s.beat + 300) } else t) s

/-- Charge the hoist just ended. -/
def charge (s : State) (gid : Nat) : State :=
  let n := s.hoistCharge gid
  s.modGang gid fun g => { g with slice := { g.slice with charge := g.slice.charge + n } }

/-- Whether a `swapctx` with nothing to switch to must still wait for its next hoist's frame: it acts as `rdv` (R118,
R206). -/
def swapWaits (s : State) (gid : Nat) (fs : List Rdv) : Bool :=
  fs.contains .swapctx && (s.runnable gid).isEmpty && s.nextHbm gid && s.beat % s.geom.frameF != 0

/-- Take a fixed entry: the faults of the rendezvous, a switch, or the next hoist (R118, R379). All members switch as soon as
one of their tiles has a runnable context (log entry 53); before a hoist on a frame that is looked at twice (log entry 61). -/
def takeEntry (s : State) (gid : Nat) (fs : List Rdv) : State :=
  let g := s.gang gid
  let l := g.members.map fun c => (c, s.rdvFaults gid c fs)
  if s.swapWaits gid fs then s.modGang gid fun g => { g with entry := some (alignUp s.geom.frameF s.beat) }
  else if l.any fun x => !x.2.isEmpty then l.foldl (fun t x => t.takeRdv x.1 x.2) s
  else
    let s := s.charge gid
    if fs.contains .swapctx && !(s.runnable gid).isEmpty then
      ((s.modAll g.members fun x => { x with run := .ready, rs := false, wait := none }).modGang gid fun g =>
        { g with entry := none, off := true, offAt := s.beat }).leave gid
    else s.enterHoist gid

end State

/-- A rendezvous whose members have all arrived fixes its entry beat with the withheld beats; at that beat its faults
are taken, its contexts switch, or the next hoist begins (R43, R118, R119, R149, R206, R338, R340, R353, R400). Operand:
the gang. -/
def execHoistEntry (s : State) : Res1 :=
  let gid := s.arg 0
  .next (if !(s.entryDue gid) then s
    else match s.formsOf gid with
      | none => s
      | some fs => match (s.gang gid).entry with
        | none => s.fixEntry gid fs
        | some _ => s.takeEntry gid fs)

namespace State

/-- Whether a gang that is to run after a switch starts at this beat (R118, R206, R395). -/
def switchDue (s : State) (gid : Nat) : Bool :=
  match (s.gang gid).resume with
  | none => false
  | some t => t ≤ s.beat && !s.trip && ((s.gang gid).fz.isSome || !(s.nextHbm gid) || s.beat % s.geom.frameF = 0)

/-- The first beat from now on at which a frozen gang may restart: its phase is kept (R391). -/
def restartBeat (s : State) (gid : Nat) : Nat :=
  let g := s.gang gid
  match g.fz with
  | none => s.beat
  | some f => if g.hbm then s.beat + (s.geom.frameF - (s.beat - f.beat) % s.geom.frameF) % s.geom.frameF else s.beat

/-- Have a frozen gang restart as soon as its phase allows. -/
def setRestart (s : State) (gid : Nat) : State :=
  let b := s.restartBeat gid
  s.modGang gid fun g => { g with fz := g.fz.map fun f => { f with restart := some b } }

end State

/-- 300 beats after a switch the other bank's gang starts a hoist, or restarts if it was frozen (R118, R395). Operand: the
gang. -/
def execContextSwitchStart (s : State) : Res1 :=
  let gid := s.arg 0
  .next (if !(s.switchDue gid) then s
    else
      let t := s.modGang gid fun g => { g with off := false, resume := none }
      if (s.gang gid).fz.isSome then t.setRestart gid else t.enterHoist gid)

/-! ### Rewind (R387-R389) -/

namespace State

/-- The members that rewind together with a context. -/
def rewindSet (s : State) (c : Nat) : List Nat :=
  if (s.ctx c).rewAll then (s.gang (s.ctx c).gang).members.filter fun m => (s.ctx m).run = .rewinding else [c]

/-- Commands a context issued in the abandoned attempt. -/
def attempt (x : Ctx) : List Cmd := (x.cmds.filter fun (i, _) => x.cmd0 ≤ i).map (·.2)

/-- The replay beat r, once every command of the attempt has completed (R388). -/
def rewindBeat (s : State) (c : Nat) : Option Nat :=
  let set := s.rewindSet c
  let g := s.gang (s.ctx c).gang
  if set.any fun m => (attempt (s.ctx m)).any fun k => !k.isDone then none
  else
    let l := set.foldl (fun n m =>
      max (max n (s.ctx m).rewAt) ((attempt (s.ctx m)).foldl (fun n k => max n k.done) 0)) 0
    let r := set.foldl (fun n m => max n (s.ctx m).rewMin) (l + 40 + (if 1 < set.length then g.gather else 0))
    some (if g.hbm then alignUp s.geom.frameF r else r)

/-- The earliest replay beat of a rewinding context whose gang restarts now, frozen `n` beats: the replay comes as long after the
restart as it would have come after the freeze (R388, R391; log entry 76). -/
def rewindAfter (s : State) (n c : Nat) : Nat :=
  if (s.ctx c).run != .rewinding then 0
  else match s.rewindBeat c with
    | some r => r + n
    | none => s.beat

/-- Whether a rewinding context replays now. -/
def rewindDue (s : State) (c : Nat) : Bool :=
  (s.ctx c).run = .rewinding && !(s.gangFrozen (s.ctx c).gang) && match s.rewindBeat c with
    | some r => r ≤ s.beat
    | none => false

/-- A context with its snapshot restored for a replay at beat `b` (R41, R137, R174, R303, R354, R388). -/
def restored (b : Nat) (x : Ctx) : Ctx := { x with
  run := .running,
  regs := x.snap,
  rply := if x.rply = 0xFFFF then x.rply else x.rply + 1,
  rs := x.mark.rs,
  sc := true,
  hbase := b,
  nextAt := b,
  lands := [],
  items := (x.items.filter fun it => it.tries < 255),
  ops := (x.ops.filter fun o => o.1 < x.op0),
  gather := [],
  cmds := (x.cmds.map fun (i, k) => (i, if x.cmd0 ≤ i then { k with raised := true } else k)),
  cmd0 := x.nextCmd,
  rew := none,
  rewAll := false,
  rewMin := 0 }

/-- Restore a context's snapshot, XSEED and STEP with it: the return from a rewindable fault (R41, R274, R388). -/
def restoreCtx (s : State) (c : Nat) : State :=
  ((s.ctx c).xsnap.foldl (fun t (pid, v, st) => t.modPair pid fun p => { p with xseed := v, step := st }) s).modCtx c
    (restored s.beat)

end State

/-- The replay entry of a rewind (R388). Operand: a context that rewinds. -/
def execRewind (s : State) : Res1 :=
  .next (if s.rewindDue (s.arg 0) then (s.rewindSet (s.arg 0)).foldl State.restoreCtx s else s)

/-! ### Freezes on request (R297, R299, R393, R394, R401) -/

namespace State

/-- Whether an analog operation of a context is in flight: begun, or a train (R297, R298). -/
def analogInFlight (s : State) (c : Nat) : Bool := (s.ctx c).ops.any fun (_, o) => o.begun && s.beat ≤ o.last

/-- Whether a gang is at a safe point (R297, R393). -/
def atSafePoint (s : State) (gid : Nat) : Bool :=
  (s.gang gid).members.all fun c => (s.ctx c).run != .rewinding && !(s.analogInFlight c)

/-- Whether a gang runs: it is dispatched, resident, not off and not frozen. -/
def gangLive (s : State) (gid : Nat) : Bool :=
  (s.gang gid).slice.b0.isSome && !(s.gang gid).members.isEmpty && !(s.gang gid).off && (s.gang gid).fz.isNone

/-- A notice of a gang, written by its first member's sequencer (R377, R394, R401). -/
def notice (s : State) (gid code detail : Nat) : State :=
  let g := s.gang gid
  s.postRecord g.slice.fd { s.ctxRecord (g.members.headD 0) code 3 detail 0xFF with aux0 := 0 }

/-- A copy as a pre-emption cancels it: its block, token and counter stay, nothing of what it has done (R355). -/
def cancelled (k : Cmd) : Cmd :=
  { op := k.op, blk := k.blk, pos := k.pos, cnt := k.cnt, prods := k.prods, issued := k.issued, wake := k.wake, cancelled := true }

/-- Cancel the copies of a gang that have not completed (R355). -/
def cancelCopies (s : State) (gid : Nat) : State :=
  s.modAll (s.gang gid).members fun x => { x with
    cmds := (x.cmds.map fun (i, k) => (i, if k.op = 0x30 && !k.isDone then cancelled k else k)) }

/-- What is done with a frozen gang: a PREEMPT notice with the action, then a swap, a save or nothing (R394, R395). -/
def actOn (s : State) (gid action : Nat) : State :=
  let (n, t) := (s.notice gid 0x21 action).free
  let t := t.modGang gid fun g => { g with
    preempt := none,
    reset := none,
    action := action,
    off := action ≤ 1,
    offAt := s.beat,
    saveAt := s.beat + 1 + Config.delay n }
  if action ≤ 1 then t.leave gid else t

/-- Whether a thermal trip's request to freeze has reached a gang (R401). -/
def hotNow (s : State) (gid : Nat) : Bool :=
  s.trip && match (s.gang gid).hot with
    | some b => b ≤ s.beat
    | none => false

/-- A gang that freezes has met the request of a thermal trip: its notice is written where the request had reached it (R401). -/
def meetTrip (s : State) (gid : Nat) : State :=
  (if s.hotNow gid then s.notice gid 0x22 0 else s).modGang gid fun g => { g with hot := none }

/-- A pre-emption freezes its gang at this beat and does what was requested, a thermal trip's request met with it (R393-R395,
R401). -/
def preemptNow (s : State) (gid action : Nat) : State :=
  (((s.freezeGang gid s.beat .preempt).meetTrip gid).cancelCopies gid).actOn gid action

/-- Whether a gang was frozen by a pre-emption and kept in place (R394, R395). -/
def keptFrozen (s : State) (gid : Nat) : Bool :=
  let g := s.gang gid
  match g.fz with
  | some f => f.why = .preempt && f.beat ≤ s.beat && f.restart.isNone && g.action = 3 && !g.off
  | none => false

/-- Whether a requested freeze takes a gang at this beat. -/
def freezeDue (s : State) (gid : Nat) : Bool :=
  s.gangLive gid && s.atSafePoint gid &&
    ((match (s.gang gid).preempt with
      | some (b, _) => b ≤ s.beat && (s.gang gid).reset.isNone
      | none => false) || s.hotNow gid)

end State

/-- The dispatcher asks for a gang's pre-emption: it reaches every member after the gather beats. A gang kept frozen is
swapped out or saved at once (R393-R395, log entry 28). Operands: gang, action (0 or 1 swap, 2 save, 3 keep). -/
def execPreemptRequest (s : State) : Res1 :=
  let gid := s.arg 0
  .next (if s.keptFrozen gid then (if s.arg 1 % 4 = 3 then s else s.actOn gid (s.arg 1 % 4))
    else if !(s.gangLive gid) || (s.gang gid).preempt.isSome then s
    else
      let b := s.beat + (s.gang gid).gather
      s.modGang gid fun g => { g with
        preempt := some (b, s.arg 1 % 4),
        watch := b + s.wdog.toNat % 2 ^ 20 })

/-- At the first safe point the gang freezes, for a pre-emption or a thermal trip (R393, R394, R401). Operand: the gang. -/
def execPreemptFreeze (s : State) : Res1 :=
  let gid := s.arg 0
  .next (if !(s.freezeDue gid) then s
    else match (s.gang gid).preempt with
      | some (b, a) => if b ≤ s.beat ∧ (s.gang gid).reset.isNone then s.preemptNow gid a
          else (s.freezeGang gid s.beat .thermal).meetTrip gid
      | none => (s.freezeGang gid s.beat .thermal).meetTrip gid)

namespace State

/-- Whether an operation is a read in flight (R298, R299). -/
def readInFlight (s : State) (o : AnOp) : Bool := o.kind ≤ 1 && o.begun && s.beat ≤ o.last

/-- Whether an item is a pool write or the flags of one of a list of lost reads (R299). -/
def ofLost (lost : List (Nat × AnOp)) (it : Item) : Bool :=
  match it.act with
  | .aout n _ => (lost.map (·.1)).contains n
  | .flags _ => it.slot = 3 && (lost.map fun o => o.2.first).contains it.issued
  | _ => false

/-- Lose the reads in flight of a context, how many: what they would still have written stays listed, not performed
(R299, R386, R394). -/
def loseReads (s : State) (c : Nat) : Nat × State :=
  let x := s.ctx c
  let lost := x.ops.filter fun o => s.readInFlight o.2
  (lost.length, s.setCtx c { x with
    ops := (x.ops.map fun (i, o) => (i, if (lost.map (·.1)).contains i then { o with last := s.beat - 1 } else o)),
    items := (x.items.map fun it => if ofLost lost it then { it with tries := 255 } else it) })

/-- Latest beat of a train in flight of a gang. -/
def trainEnd (s : State) (gid : Nat) : Nat :=
  (s.gang gid).members.foldl (fun n c => (s.ctx c).ops.foldl (fun n (_, o) =>
    if 2 ≤ o.kind && s.beat ≤ o.last then max n (o.last + 1) else n) n) s.beat

/-- Whether the watchdog or the end of a reset is due (R299, R394). -/
def watchDue (s : State) (gid : Nat) : Bool :=
  s.gangLive gid && (s.gang gid).preempt.isSome && match (s.gang gid).reset with
    | some (b, _) => b ≤ s.beat
    | none => (s.gang gid).watch < s.beat && !(s.freezeDue gid)

/-- A reset has ended: a slice fault where reads were lost, else the pre-emption (R394). -/
def resetEnd (s : State) (gid lost : Nat) : State :=
  let g := s.gang gid
  if lost = 0 then s.preemptNow gid ((g.preempt.map (·.2)).getD 3)
  else (s.modGang gid fun g => { g with preempt := none, reset := none }).takeFault (g.members.headD 0) 0x12 (min lost 255)
    0xFF 0 0 false false

end State

/-- No safe point came in time: reads in flight are lost, trains complete, and the gang freezes at the beat the reset ends; it
goes on issuing until then (R299, R394, log entry 65). Operand: the gang. -/
def execSafePointWatchdogExpiry (s : State) : Res1 :=
  let gid := s.arg 0
  .next (if !(s.watchDue gid) then s
    else match (s.gang gid).reset with
      | some (_, n) => s.resetEnd gid n
      | none =>
        let (n, t) := (s.gang gid).members.foldl (fun (n, t) c => let (m, u) := State.loseReads t c; (n + m, u)) (0, s)
        let e := t.trainEnd gid
        if e ≤ s.beat then t.resetEnd gid n else t.modGang gid fun g => { g with reset := some (e, n) })

/-! ### Context frames (R392, R396-R399) -/

namespace State

/-- The code frames a context owns, with their bytes. -/
def codeOf (s : State) (c : Nat) : List (Nat × Bool × List Byte) :=
  (List.range 16).filterMap fun f =>
    let fr := tget {} s.frames (16 * tileOf c + f)
    if fr.owner = some c then some (f, fr.valid, s.rd (storeAt (tileOf c) (4096 * f)) 4096) else none

/-- SEQ that the record of a fault of a tile is to have, 0 where its gang holds none (R399). -/
def recSeq (s : State) (gid tile : Nat) : Nat :=
  if (s.gang gid).fails.any fun r => r.src = srcTile tile then (tget 0 s.seqs (srcTile tile)).toNat else 0

/-- One member's frame, at the `n`-th of the places the firmware keeps for frames, each of 1 MiB: of a failed slice, a rewinding
member is recorded in its restored state, with what its attempt had in flight at its own cycles (R386, R389, R392, R399). -/
def frameOf (s : State) (gid : Nat) (failed : Bool) (c n : Nat) : SavedCtx :=
  let g := s.gang gid
  let x := s.ctx c
  let back := failed && x.run = .rewinding
  let base := poolAt (tileOf c) x.spLo
  { addr := 2 ^ 20 * (Config.frameAt + n),
    ffl := frameFlags failed g x,
    beatz := match g.fz with
      | some f => f.beat
      | none => 0,
    hz := if back then 0 else s.hcyc c,
    charge := g.slice.charge,
    recseq := s.recSeq gid (tileOf c),
    ctx := if back then { restored s.beat x with run := .rewinding, items := x.items, hbase := x.hbase, ops := x.ops, gather := x.gather }
      else x,
    cid := c,
    pairs := if back then x.xsnap else s.xsnapOf c,
    pool := s.rd base (x.spHi - x.spLo),
    marks := (s.marks.filter fun (k, _) => base ≤ k && k < poolAt (tileOf c) x.spHi),
    code := s.codeOf c }

/-- The frames of a whole gang. -/
def framesIn (s : State) (gid : Nat) (failed : Bool) : Saved :=
  let ms := (s.gang gid).members
  ⟨gid, s.gang gid, ((List.range ms.length).zip ms).map fun (i, c) => s.frameOf gid failed c (s.fresh + i)⟩

/-- The frames of a whole gang, and the state that has written them at their addresses (R392, R395; log entry 21). -/
def framesOf (s : State) (gid : Nat) (failed : Bool) : Saved × State :=
  let v := s.framesIn gid failed
  (v, v.frames.foldl (fun t f => t.ctlWr f.addr (frameImage f)) { s with fresh := s.fresh + v.frames.length })

/-- A context's analog operations still count as occupancy after it has left (R303). -/
def keepOccupied (s : State) (c : Nat) : State :=
  (s.ctx c).ops.foldl (fun t (_, o) => t.modPair o.pid fun p => { p with freed := max p.freed (o.last + 1) }) s

/-- Empty the banks of a gang and give up its code frames (R192, R336). -/
def clearBanks (s : State) (gid : Nat) : State :=
  let ms := (s.gang gid).members
  let t := (ms.foldl keepOccupied s).modAll ms fun _ => {}
  { t with frames := t.frames.map fun (k, f) => match f.owner with
      | some c => if ms.contains c then (k, {}) else (k, f)
      | none => (k, f) }

/-- Whether the frame of a pre-empted gang can have been written: its commands have stopped, in an open interval (R210, R355,
R395). -/
def saveDue (s : State) (gid : Nat) : Bool :=
  let g := s.gang gid
  (match g.fz with
    | some f => f.why = .preempt && f.beat ≤ s.beat
    | none => false) && g.action = 2 && g.saveAt ≤ s.beat && !g.members.isEmpty &&
  (g.members.all fun c => (s.ctx c).cmds.all fun (_, k) => k.isDone || k.cancelled) && s.openNow && s.ctlQuiet

/-- Copies that a pre-emption cancelled are issued again (R355, R397). -/
def reissue (s : State) (c : Nat) : State :=
  s.modCtx c fun x => { x with cmds := (x.cmds.map fun (i, k) =>
    (i, if k.cancelled then { k with cancelled := false, wake := s.beat + 1 } else k)) }

/-- Restart a frozen gang at this beat; a fixed entry of an HBM-marked hoist keeps its phase (R206, R391). -/
def resumeGang (s : State) (gid : Nat) : State :=
  let n := s.beat - ((s.gang gid).fz.map fun f => f.beat).getD s.beat
  let t := (s.gang gid).members.foldl reissue (s.restartGang gid)
  let t := (s.gang gid).members.foldl (fun t c => t.modCtx c fun x => { x with rewMin := s.rewindAfter n c }) t
  t.modGang gid fun g => { g with
    off := false,
    resume := none,
    action := 3,
    entry := (g.entry.map fun e => if t.nextHbm gid then alignUp s.geom.frameF e else e) }

/-- Whether a gang's restart beat has come; during a thermal trip every frozen gang stays frozen (R401). -/
def restartDue (s : State) (gid : Nat) : Bool :=
  match (s.gang gid).fz with
  | some f => match f.restart with
    | some r => r ≤ s.beat && f.beat ≤ s.beat && !s.trip
    | none => false
  | none => false

end State

/-- A frozen gang restarts once its phase allows; a gang that is failing does not, none does during a thermal trip, and one
that is swapped out waits for its bank (R123, R391, R395, R401). Operand: the gang. -/
def execGangRestart (s : State) : Res1 :=
  let gid := s.arg 0
  .next (if s.restartDue gid then s.resumeGang gid
    else match (s.gang gid).fz with
      | none => s
      | some f =>
        if f.why = .fail || s.beat < f.beat || s.trip || (s.gang gid).resume.isSome ||
            (s.gang gid).members.any fun c => s.tileBusy gid (tileOf c) then s
        else
          let t := s.setRestart gid
          if t.restartDue gid then t.resumeGang gid else t)

namespace State

/-- Move a frame's context to another bank: the members it names are renumbered (R397). -/
def rebank (bank : Nat) (x : Ctx) : Ctx := { x with
  ctxid := (BitVec.ofNat 1 bank) ++ (x.ctxid.extractLsb' 0 16),
  items := (x.items.map fun it => { it with act := match it.act with
    | .arrive d m => .arrive d (2 * tileOf m + bank)
    | .lost m a => .lost (2 * tileOf m + bank) a
    | a => a }) }

/-- Whether a bank of every tile of a saved slice can take it: the bank is empty, the pool areas and HBM channels are free,
the frames are not owned (R397). -/
def bankFits (s : State) (v : Saved) (bank : Nat) : Bool :=
  v.frames.all fun f =>
    let tile := tileOf f.cid
    let other := s.ctx (2 * tile + (1 - bank))
    let x := f.ctx
    let rg (y : Ctx) : Nat × Nat :=
      (4096 * (y.part.extractLsb' 22 7).toNat, 4096 * (y.part.extractLsb' 22 7).toNat + (512 * y.nv + 4096 * y.accs + 4095) / 4096 * 4096)
    let clash (a b : Nat × Nat) : Bool := a.1 < b.2 && b.1 < a.2
    (s.ctx (2 * tile + bank)).run = .empty && !(s.tileBusy v.gid tile) &&
    (other.run = .empty || !(clash (rg x) (rg other) || clash (rg x) (other.spLo, other.spHi) ||
      clash (x.spLo, x.spHi) (rg other) || clash (x.spLo, x.spHi) (other.spLo, other.spHi))) &&
    f.code.all fun (n, _, _) => (tget {} s.frames (16 * tile + n)).owner = none

/-- Put one frame back (R397). -/
def putFrame (s : State) (bank : Nat) (f : SavedCtx) : State :=
  let tile := tileOf f.cid
  let c := 2 * tile + bank
  let base := poolAt tile f.ctx.spLo
  let t := (s.setCtx c (rebank bank f.ctx)).wr base f.pool false
  let t := { t with marks := f.marks.foldl (fun m (k, v) => tset m k v) t.marks }
  let t := f.pairs.foldl (fun t (pid, v, st) => t.modPair pid fun p => { p with xseed := v, step := st }) t
  f.code.foldl (fun t (n, ok, bs) =>
    let fr : Frame := { owner := some c, valid := ok }
    ({ t with frames := tset t.frames (16 * tile + n) fr }).wr (storeAt tile (4096 * n)) bs false) t

/-- Whether header bytes read back match the slice, 256 bytes for each member in turn (R398). -/
def headersOk (v : Saved) (h : List Byte) : Bool :=
  ((List.range v.frames.length).zip v.frames).all fun (i, f) => f.headerOk v.gid ((h.drop (256 * i)).take 256)

/-- Install a saved slice in a bank and restart it under R391. -/
def install (s : State) (v : Saved) (bank : Nat) : State :=
  let m (c : Nat) : Nat := 2 * tileOf c + bank
  let g := { v.gang with
    members := (v.gang.members.map m),
    claims := (v.gang.claims.map fun c => { c with ctx := m c.ctx }),
    lines := (v.gang.lines.map fun l => { l with ctx := m l.ctx }),
    off := false,
    action := 3 }
  let t := v.frames.foldl (fun t f => t.putFrame bank f) ({ s with saved := s.saved.filter fun w => w.gid != v.gid })
  (t.setGang v.gid g).setRestart v.gid

end State

/-! ### Lockstep, traps, link retries (R123, R402, R409) -/

/-- A shadow mismatch is found, two beats after its bundle issued: SEQ_LOCKSTEP, unless protection is off, or the gang was switched
out that long ago (R402; log entry 78). Operand: the context. -/
def execSeqLockstepMismatch (s : State) : Res1 :=
  let c := s.arg 0
  let x := s.ctx c
  .next (if x.run = .empty || x.run = .done || ((s.gang x.gang).off && (s.gang x.gang).offAt + 2 ≤ s.beat) ||
      (s.gang x.gang).slice.noprot then s
    else s.takeFault c 0x0B 0 0xFF 0 0 false false)

/-- While a trap freezes its gang, the command processor writes TARG (R123). Operands: context, value. -/
def execTargWrite (s : State) : Res1 :=
  let c := s.arg 0
  .next (match (s.gang (s.ctx c).gang).fz with
    | some f => if f.why = .trap ∧ f.beat ≤ s.beat then s.modRegs c fun r => { r with targ := Word.ofNat (s.arg 1) } else s
    | none => s)

/-- Whether an item is on the ring: a cross-die flit, or a line of a far stack (R408, R409). -/
def Act.onRing (c : Nat) : Act → Bool
  | .flit d _ _ _ _ => d
  | .hbmLand loc _ _ _ _ _ => State.flatDie loc != dieOf (tileOf c)
  | .hbmPerform loc _ _ => State.flatDie loc != dieOf (tileOf c)
  | _ => false

/-- The context on which an abandoned flit or line raises LINK_REPLAY. -/
def Act.lostAt : Act → Option Nat
  | .lost victim _ => some victim
  | _ => none

def Act.isLost (a : Act) : Bool := a.lostAt.isSome

namespace State

/-- One more retry of an item; the third abandons it, and LINK_REPLAY falls at its landing or perform beat (R409). -/
def retryItem (s : State) (c : Nat) (it : Item) : State :=
  if it.tries < 2 then s.modCtx c fun x => { x with items := (x.items.map fun k => if k = it then { it with tries := it.tries + 1 } else k) }
  else
    let t := s.modCtx c fun x => { x with items := x.items.erase it }
    match it.act with
    | .flit d tile _ _ _ =>
      let m := ((s.gang (s.ctx c).gang).members.find? fun m => tileOf m = tile).getD c
      let a : Act := .lost m it.act
      let t := t.modCtx c fun x => { x with items := (x.items.filter fun k =>
        !(k.slot = it.slot && k.issued = it.issued && k.act = .arrive d m)) }
      t.addItem c { it with due := it.due + 1, tries := 3, act := a }
    | .hbmLand _ dst _ _ _ _ =>
      let a : Act := .lost c it.act
      t.addItem c { it with due := if dst = 0 then it.due + 1 else it.due, tries := 3, act := a }
    | _ =>
      let a : Act := .lost c it.act
      t.addItem c { it with tries := 3, act := a }

end State

/-- A flit or line on the ring fails its link CRC and is sent again: operands context and 1 + its number among the
context's items in flight. With 0 as second and an item's place as third operand, an abandoned one reaches its beat and LINK_REPLAY
is taken (R409). -/
def execUcieFlitRetry (s : State) : Res1 :=
  let c := s.arg 0
  .next (if s.arg 1 = 0 then
      s.onItemAt (s.arg 2) Act.isLost fun t c it => match it.act with
        | .lost m _ => (t.takeFault m 0x09 0x05 (if m = c then it.slot else 0xFF) 0 0 false false).dropItem c it
        | _ => t
    else match (s.ctx c).items[s.arg 1 - 1]? with
      | some it => if it.act.onRing c then s.retryItem c it else s
      | none => s)

end Sys2Proof.Machine
end

