-- ==== Sys2Proof/Machine/Sched.lean ====
section
/-! DEFINITION. Region control blocks, queues, doorbells, admission, completion records, and the completion or failure of a
slice (spec 15 R325-R343, R345, 19 R392, R397, 21 R422, R426). -/

namespace Sys2Proof.Machine

namespace State

/-! ### Region control blocks (R326-R328, R422) -/

/-- Whether an overridden field of an RCB other than ASID holds a malformed value (R327). -/
def rcbValueBad (s : State) (a : Nat) : Bool :=
  let ovr := s.ctlNat (a + 8) 4
  (ovr.testBit 1 && 63 < s.ctlNat (a + 0x0D) 1) || (ovr.testBit 2 && 2 < s.ctlNat (a + 0x0E) 1) ||
  (ovr.testBit 3 && s.ctlNat (a + 0x0F) 1 = 0) || (ovr.testBit 6 && 16384 < s.ctlNat (a + 0x14) 2)

/-- Whether a node overrides ASID with 0 (R327). -/
def rcbAsidBad (s : State) (a : Nat) : Bool := (s.ctlNat (a + 8) 4).testBit 4 && s.ctlNat (a + 0x10) 2 = 0

/-- Whether a node is malformed by itself in another way (R326, R327); FLAGS bit 2 is DHOLD (R422). A PARENT that is not 64-aligned
is malformed (log entry 80). -/
def rcbFormBad (s : State) (a : Nat) : Bool :=
  let ovr := s.ctlNat (a + 8) 4
  a % 64 != 0 || 255 < ovr || (s.ctlNat a 8 = 0 && ovr != 255) || 7 < s.ctlNat (a + 0x16) 2 ||
  s.ctlNat (a + 0x2A) 22 != 0 || s.rcbValueBad a

/-- Whether a node is malformed by itself (R326, R327; log entry 80). -/
def rcbBad (s : State) (a : Nat) : Bool := s.rcbFormBad a || s.rcbAsidBad a

/-- The nodes from `a` to its root, or none where one is malformed or the chain is too long (R327). -/
def rcbChain (s : State) (bad : Nat → Bool) : Nat → Nat → Option (List Nat)
  | 0, _ => none
  | f + 1, a =>
    if bad a then none
    else if s.ctlNat a 8 = 0 then some [a]
    else (s.rcbChain bad f (s.ctlNat a 8)).map fun l => a :: l

/-- A node and at most 16 ancestors. -/
def chainOf (s : State) (a : Nat) : Option (List Nat) := s.rcbChain s.rcbBad 17 a

/-- The effective value of a field: of the first node that overrides it (R327). -/
def rcbField (s : State) (chain : List Nat) (bit off n : Nat) : Nat :=
  match chain.find? fun a => (s.ctlNat (a + 8) 4).testBit bit with
  | some a => s.ctlNat (a + off) n
  | none => 0

def prioOf (s : State) (l : List Nat) : Nat := s.rcbField l 0 0x0C 1
def fdomOf (s : State) (l : List Nat) : Nat := s.rcbField l 1 0x0D 1
def cbankOf (s : State) (l : List Nat) : Nat := s.rcbField l 2 0x0E 1
def asidOf (s : State) (l : List Nat) : Nat := s.rcbField l 4 0x10 2
def ctxnOf (s : State) (l : List Nat) : Nat := s.rcbField l 5 0x12 2
def paircapOf (s : State) (l : List Nat) : Nat := s.rcbField l 6 0x14 2
def flagsOf (s : State) (l : List Nat) : Nat := s.rcbField l 7 0x16 2

/-- The status of a candidate whose chain is malformed: DESC_INVALID where nothing is wrong but that its effective ASID is 0, else
RCB_INVALID (R325, R327; log entry 79). -/
def chainRefusal (s : State) (a : Nat) : Nat :=
  match s.rcbChain s.rcbFormBad 17 a with
  | some l => if s.asidOf l = 0 then 0x09 else 0x0A
  | none => 0x0A

/-- Every tail of a chain: each node with its ancestors. -/
def tails : List Nat → List (List Nat)
  | [] => []
  | a :: r => (a :: r) :: tails r

/-- Beats, pairs added and pairs taken that are still to be charged to a node (R328). -/
def pending (s : State) (a : Nat) : Nat × Nat × Nat :=
  s.dues.foldl (fun n d => match d.2 with
    | .charge b t p m => if b = a then (n.1 + t, n.2.1 + p, n.2.2 + m) else n
    | _ => n) (0, 0, 0)

/-- R328 on every node of a chain for a slice with `new` pair grants, and no divergence hold (R422). -/
def chainMeets (s : State) (chain : List Nat) (new : Nat) : Bool :=
  (tails chain).all fun l =>
    let a := l.headD 0
    let tb := s.ctlNat (a + 0x18) 8
    let (beats, plus, minus) := s.pending a
    (tb = 2 ^ 64 - 1 || s.ctlNat (a + 0x20) 8 + beats < tb) && s.ctlNat (a + 0x28) 2 + plus - minus + new ≤ s.paircapOf l &&
      !((s.ctlNat (a + 0x16) 2).testBit 2)

/-- TUSED and PUSED of every node of a chain are to change, by the dispatch engine of a queue (R328). -/
def chargeChain (s : State) (queue : Nat) (chain : List Nat) (beats plus minus : Nat) : State :=
  { s with dues := s.dues ++ chain.map fun a => (queueDie queue, .charge a beats plus minus) }

/-- Whether some node of a chain is held for divergence (R422). -/
def chainHeld (s : State) (chain : List Nat) : Bool := chain.any fun a => (s.ctlNat (a + 0x16) 2).testBit 2

/-- Add to TUSED and change PUSED of a node (R328). -/
def chargeNow (s : State) (a beats plus minus : Nat) : State :=
  (s.ctlWrNat (a + 0x20) 8 (s.ctlNat (a + 0x20) 8 + beats)).ctlWrNat (a + 0x28) 2 (s.ctlNat (a + 0x28) 2 + plus - minus)

/-- Try an input again at the next beat: it stays first of the host's accesses. -/
def again (s : State) (what : Instr) : State := { s with inputs := ⟨s.beat + 1, what, s.ev⟩ :: s.inputs }

/-! ### Queues (R329-R331) -/

/-- Whether a die's command processors restart (R345). -/
def restarting (s : State) (die : Nat) : Bool := (tfind s.restarts die).isSome

/-- Control address of a queue's descriptor. -/
def queueAt (s : State) (n : Nat) : Nat := s.qtab + 64 * n

def qField (s : State) (n o k : Nat) : Nat := s.ctlNat (s.queueAt n + o) k
def setQ (s : State) (n o k v : Nat) : State := s.ctlWrNat (s.queueAt n + o) k v

/-- Whether a queue descriptor is malformed (R329). -/
def queueBad (s : State) (n : Nat) : Bool :=
  let q := s.qField n
  q 0x18 1 = 0 || 16 < q 0x18 1 || q 0x19 1 = 0 || 16 < q 0x19 1 || q 0 8 % 256 != 0 || q 8 8 % 32 != 0 ||
  q 0x10 8 = 0 || q 0x10 8 % 64 != 0 || 3 < q 0x1A 1 || q 0x1B 1 != 0 || q 0x2C 20 != 0

/-- A notice of the dispatch engine that serves a queue. -/
def queueNotice (s : State) (n fd code : Nat) : State :=
  s.postRecord fd { beat := s.beat, seq := 0, src := srcDispatch (queueDie n), code := code, cls := 3, detail := 0, slot := 0xFF, pc := 0 }

/-- A malformed queue is disabled (R329). -/
def disableQueue (s : State) (n : Nat) : State := (s.setQ n 0x1A 1 3).queueNotice n 0 0x24

/-- Whether a doorbell write of count `t` overruns a queue (R330). -/
def overruns (s : State) (n t : Nat) : Bool :=
  let tail := s.qField n 0x1C 4
  2 ^ s.qField n 0x18 1 < (tail + 2 ^ 32 - s.qField n 0x20 4) % 2 ^ 32 + (t + 2 ^ 32 - tail) % 2 ^ 32

/-- Whether a queue takes doorbells: it is resident or parked (R329). -/
def queueLive (s : State) (n : Nat) : Bool := s.qField n 0x1A 1 = 1 || s.qField n 0x1A 1 = 2

/-- The outcome of a doorbell write of count `t` to queue `n` (R329, R330, R426). -/
def doorbell (s : State) (n t : Nat) : State :=
  if s.qtab = 0 then s
  else if s.queueBad n then s.disableQueue n
  else if !(s.queueLive n) then s.queueNotice n 0 0x24
  else if !(s.overruns n t) then s.setQ n 0x1C 4 t
  else
    let fd := match s.chainOf (s.qField n 0x10 8) with
      | some l => s.fdomOf l
      | none => 0
    (s.setQ n 0x1A 1 3).queueNotice n fd 0x23

/-- The nodes of a chain as far as they are present and well formed. -/
def chainRuns (s : State) : Nat → Nat → List (Nat × Nat)
  | 0, _ => []
  | f + 1, a => (a, 64) :: if (s.ctlGap a 64).isSome || s.rcbBad a || s.ctlNat a 8 = 0 then [] else s.chainRuns f (s.ctlNat a 8)

/-- A queue's descriptor and its chain of RCBs. -/
def queueRuns (s : State) (n : Nat) : List (Nat × Nat) :=
  (s.queueAt n, 64) :: if (s.ctlGap (s.queueAt n) 64).isSome then [] else s.chainRuns 17 (s.qField n 0x10 8)

/-- What a doorbell write reads and writes: the queue's descriptor, and its RCBs where it overruns (R325, R330). -/
def bellRuns (s : State) (n t : Nat) : List (Nat × Nat) :=
  if (s.ctlGap (s.queueAt n) 64).isNone && !(s.queueBad n) && s.queueLive n && s.overruns n t then s.queueRuns n
  else [(s.queueAt n, 64)]

/-- A doorbell write that has been delivered; it waits for an absent or a committing page, behind those to its queue that wait
already (R325, R330, R368). -/
def ring (s : State) (n t : Nat) : State :=
  if s.qtab = 0 then s
  else if s.bells.any (fun b => b.1 = n) || !(s.ctlReady (s.bellRuns n t)) then
    { s.askGaps (s.bellRuns n t) with bells := s.bells ++ [(n, t)] }
  else (s.ctlUse (s.bellRuns n t)).doorbell n t

/-- The first doorbell write that has waited and can have its outcome now (R330). -/
def bellDue (s : State) : Option (Nat × Nat) :=
  s.bells.find? fun b => (s.bells.find? fun x => x.1 = b.1) = some b &&
    (let t := s.onDie (queueDie b.1); t.ctlReady (t.bellRuns b.1 b.2))

/-- It has it. -/
def ringAgain (s : State) (b : Nat × Nat) : State :=
  ({ s with bells := s.bells.erase b }.ctlUse (s.bellRuns b.1 b.2)).doorbell b.1 b.2

end State

/-- A write to the doorbell array, or with a fourth operand of 1 a read of it, which returns TAIL (R330, R331, R426).
Operands: offset in BAR2, size, value, read. A doorbell whose pages are absent waits for them. -/
def execDoorbellWrite (s : State) : Res1 :=
  let n := s.arg 0 / 4 % 4096
  .next (if s.arg 3 = 1 then
      { s with answers := ⟨.doorbellWrite, leBytes 4 (if s.qtab = 0 then 0 else s.qField n 0x1C 4)⟩ :: s.answers }
    else if s.arg 1 != 4 || s.arg 0 % 4 != 0 then s
    else s.ring n (s.arg 2 % 2 ^ 32))

/-! ### Completion records and graphs' kernels (R342, R343) -/

namespace State

/-- Where a queue's next completion record goes (R343). -/
def recordAt (s : State) (n : Nat) : Nat := s.qField n 8 8 + 32 * (s.qField n 0x24 4 % 2 ^ s.qField n 0x19 1)

/-- Write a completion record and advance CTAIL (R343). -/
def recordNow (s : State) (c : Completion) : State :=
  let (n, t) := s.nextSeq (srcDispatch (queueDie c.queue))
  let k := t.qField c.queue 0x24 4
  let t := t.ctlWr (t.recordAt c.queue) (leBytes 8 c.tag.toNat ++ leBytes 8 c.beat ++ leBytes 4 n.toNat ++ leBytes 2 c.status ++
    leBytes 2 c.cfl ++ leBytes 4 c.detail ++ leBytes 4 c.pcons)
  t.setQ c.queue 0x24 4 (k + 1)

/-- A completion record is to be written, in an open interval (R210, R343). -/
def record (s : State) (c : Completion) : State := { s with deferred := s.deferred ++ [c] }

/-- What a completion record reads and writes (R343). -/
def recordRuns (s : State) (n : Nat) : List (Nat × Nat) := [(s.queueAt n, 64), (s.recordAt n, 32)]

/-- The first completion record that can be written now: behind those of its queue, once a restart of its die has ended and the
pages of its queue's descriptor and ring are present (R325, R343, R345). -/
def recordDue (s : State) : Option Completion :=
  s.deferred.find? fun c => (s.deferred.find? fun d => d.queue = c.queue) = some c && !(s.restarting (queueDie c.queue)) &&
    (let t := s.onDie (queueDie c.queue); t.ctlReady (t.recordRuns c.queue))

/-- It is written. -/
def recordAgain (s : State) (c : Completion) : State :=
  ({ s with deferred := s.deferred.erase c }.ctlUse (s.recordRuns c.queue)).recordNow c

/-- Replace a graph by its identity. -/
def setGraph (s : State) (g : GraphRun) : State :=
  { s with graphs := s.graphs.map fun h => if h.id = g.id then g else h }

/-- A graph node's field. -/
def nodeField (s : State) (g : GraphRun) (o n : Nat) : Nat := s.ctlNat (g.base + 64 * g.node + o) n

/-- Record a completion, or pass it to the graph whose KERNEL node ran it (R342). -/
def report (s : State) (graph : Option Nat) (c : Completion) : State :=
  match graph with
  | some id => { s with graphs := s.graphs.map fun (g : GraphRun) => if g.id = id then { g with state := .ended c.status c.cfl c.detail } else g }
  | none => s.record c

/-- End a graph (R342, R343). -/
def endGraph (s : State) (g : GraphRun) (st detail : Nat) : State :=
  { s with graphs := s.graphs.filter fun h => h.id != g.id }.report g.parent ⟨g.queue, g.tag, s.beat, st, g.cfl, detail, 0⟩

end State

/-! ### Candidates (R332-R335) -/

/-- A field of a candidate's descriptor (R332). -/
def Cand.f (c : Cand) (o n : Nat) : Nat := leNat ((c.blk.drop o).take n)

def Cand.tag (c : Cand) : Word := Word.ofNat (c.f 0x68 8)
def Cand.deadline (c : Cand) : Nat := c.f 0x20 8
def Cand.rows (c : Cand) : Nat := bits (c.f 0x10 4) 0 4 + 1
def Cand.cols (c : Cand) : Nat := bits (c.f 0x10 4) 4 4 + 1
def Cand.ndies (c : Cand) : Nat := bits (c.f 0x10 4) 8 2 + 1
def Cand.tiles (c : Cand) : Nat := c.rows * c.cols * c.ndies

/-- Pairs its XGRANT grants, times its member count (R328). -/
def Cand.grants (c : Cand) : Nat := c.tiles * ((List.range 16).filter fun p => (c.f 0x18 4).testBit (2 * p)).length

def Cand.pins (c : Cand) : List Nat := (List.range (c.f 0x35 1)).map fun i => c.f (0x40 + 4 * i) 4
def Cand.pouts (c : Cand) : List Nat := (List.range (c.f 0x36 1)).map fun i => c.f (0x50 + 4 * i) 4

/-- The key of a pennant word in an address space (R339). -/
def pennantKey (asid w : Nat) : Nat × Nat × Nat := (asid, bits w 24 8, bits w 0 24)

/-- The checks of R334 as a descriptor enters, against the effective PAIRCAP. -/
def Cand.bad (c : Cand) (paircap : Nat) : Bool :=
  let kind := c.f 0x1C 4
  bits (c.f 0x10 4) 10 22 != 0 || 1 < kind || c.f 0xC0 64 != 0 || (c.f 0x37 1 != 0 && c.f 0x38 8 % 8 != 0) ||
  4 < c.f 0x35 1 || 4 < c.f 0x36 1 || 96 < c.f 0x34 1 ||
  (List.range 4).any (fun i => c.f 0x35 1 ≤ i && c.f (0x40 + 4 * i) 4 != 0) ||
  (List.range 4).any (fun i => c.f 0x36 1 ≤ i && c.f (0x50 + 4 * i) 4 != 0) ||
  (kind = 1 && (c.f 0x35 1 != 0 || c.f 0x36 1 != 0 || c.f 0x60 8 != 0)) || (c.f 0x34 1 = 0 && 1 < c.ndies) || paircap < c.grants

namespace State

/-- Remove a candidate. -/
def dropCand (s : State) (id : Nat) : State := { s with cands := s.cands.filter fun k => k.id != id }

/-- Refuse a candidate: a completion record, or its status to its graph, and nothing else (R334, R342). -/
def refuse (s : State) (c : Cand) (st detail : Nat) : State :=
  (s.dropCand c.id).report c.graph ⟨c.queue, c.tag, s.beat, st, 0, detail, 0⟩

/-- Change a candidate. -/
def modCand (s : State) (id : Nat) (f : Cand → Cand) : State := { s with cands := s.cands.map fun k => if k.id = id then f k else k }

/-- A candidate parks on a page and asks system software for it (R200). -/
def parkCand (s : State) (c : Cand) (asid va : Nat) : State :=
  (s.askPage asid va).modCand c.id fun k => { k with
    parked := (asid, va) :: k.parked,
    ready := none }

/-- What reading a candidate's descriptor needs: it, and the queue with its RCBs (R325). -/
def loadRuns (s : State) (c : Cand) (addr : Nat) : List (Nat × Nat) := (addr, 256) :: s.queueRuns c.queue

/-- The first candidate whose descriptor can be read now, or has to park (R325, R335). -/
def loadDue (s : State) : Option Cand :=
  if !s.openNow then none
  else s.cands.find? fun c => match c.todo with
    | some a => c.parked.isEmpty && !(s.restarting (queueDie c.queue)) &&
        (let t := s.onDie (queueDie c.queue); !(t.ctlHeld (t.loadRuns c a)))
    | none => false

/-- Read a candidate's descriptor and check it once its pages and those of its RCBs are present; on an absent one it parks
(R325, R327, R334; log entries 67, 79). A successor whose predecessor has failed meanwhile ends here (R340). -/
def load (s : State) (c : Cand) : State :=
  let addr := c.todo.getD 0
  match s.ctlGaps (s.loadRuns c addr) with
  | some v => s.parkCand c 0 v
  | none =>
    let s := s.ctlUse (s.loadRuns c addr)
    let k := { c with
      blk := s.ctlRd addr 256,
      todo := none }
    let t := s.modCand c.id fun _ => k
    match s.chainOf (s.qField c.queue 0x10 8) with
    | none => t.refuse k (s.chainRefusal (s.qField c.queue 0x10 8)) 0
    | some l => if k.bad (s.paircapOf l) then t.refuse k 0x09 0
      else if k.predFailed && !k.released then t.refuse k 0x0C 0 else t

/-- Enter a descriptor into the candidate set; it is read in an open interval (R325, R334, R335). -/
def enter (s : State) (queue order addr : Nat) (pred graph : Option Nat) : State :=
  let c : Cand := {
    id := s.nextId,
    queue := queue,
    order := order,
    blk := [],
    todo := some addr,
    pred := pred,
    released := pred.isNone,
    graph := graph }
  { s with
    nextId := s.nextId + 1,
    cands := s.cands ++ [c] }

/-- A queue's own entries that have entered and are not dispatched: candidates, and slices placed before their B0 (R335,
R337). -/
def undispatched (s : State) (n : Nat) : Nat :=
  (s.cands.filter fun c => c.queue = n && c.pred.isNone && c.graph.isNone).length +
  (s.gangs.filter fun (_, g) =>
    g.slice.queue = n && g.slice.b0.isNone && g.slice.pred.isNone && g.slice.graph.isNone && !g.members.isEmpty).length

/-- Whether the dispatch engines look at their queues at this beat: the first of an open interval, dispatch running (R325,
R335, R426). -/
def scanNow (s : State) : Bool := s.beat % s.geom.frameF = s.geom.frameT && s.hstat.getLsbD 0 && s.qtab != 0

/-- Whether a resident queue has an entry to place in the candidate set (R335). -/
def admits (s : State) (n : Nat) : Bool :=
  s.scanNow && !(s.restarting (queueDie n)) && s.ctlReady [(s.queueAt n, 64)] && s.qField n 0x1A 1 = 1 &&
  s.qField n 0x20 4 != s.qField n 0x1C 4 && s.undispatched n < 16

/-- The first page of the queue table that is absent and has not been asked for: what its queues hold is parked on it (R325). -/
def tableGap (s : State) : Option Nat :=
  if !s.scanNow then none
  else (List.range 4).findSome? fun d =>
    let t := s.onDie d
    (pagesOf [(s.qtab + 65536 * d, 65536)]).find? fun v => (t.ctlGaps [(v, 1)]).isSome && !(s.pageReqs.contains (0, v))

end State

/-- A resident queue's next entry enters the candidate set; a malformed queue is disabled instead (R329, R334, R335). Operand:
the queue. -/
def execCandidateAdmission (s : State) : Res1 :=
  let n := s.arg 0
  .next (if !(s.admits n) then s
    else if s.queueBad n then (s.ctlUse [(s.queueAt n, 64)]).disableQueue n
    else
      let h := s.qField n 0x20 4
      let a := s.qField n 0 8 + 256 * (h % 2 ^ s.qField n 0x18 1)
      ((s.setQ n 0x20 4 (h + 1)).enter n s.nextId a none none))

namespace State

/-- A parked queue becomes resident again, as soon as the command processors of its die run (R331, R345). -/
def resume (s : State) (n : Nat) : State :=
  if s.qField n 0x1A 1 != 2 then s
  else if s.restarting (queueDie n) then { s with resumeQs := n :: s.resumeQs.erase n }
  else (s.ctlUse [(s.queueAt n, 64)]).setQ n 0x1A 1 1

/-- The first queue that can become resident again now: dispatch and its die's command processors run, and its page is present
(R331, R345). -/
def resumeDue (s : State) : Option Nat :=
  if s.hstat.getLsbD 0 then s.resumeQs.find? fun n => !(s.restarting (queueDie n)) && (s.onDie (queueDie n)).ctlReady [(s.queueAt n, 64)]
  else none

/-- It does. -/
def resumeNow (s : State) (n : Nat) : State := { s with resumeQs := s.resumeQs.erase n }.resume n

end State

/-- Firmware makes a parked queue resident; entries accepted while it was parked then enter in ring order. With a second
operand of 1 it parks the queue (R331). It waits for the page of the queue's descriptor (R325). Operand: the queue. -/
def execQueueUnpark (s : State) : Res1 :=
  let n := s.arg 0
  let l := [(s.queueAt n, 64)]
  .next (if s.qtab = 0 then s
    else if !(s.ctlReady l) then (s.askGaps l).again .queueUnpark
    else if s.queueBad n then s
    else if s.arg 1 = 1 then
      { (if s.qField n 0x1A 1 = 1 then (s.ctlUse l).setQ n 0x1A 1 2 else s) with resumeQs := s.resumeQs.erase n }
    else s.resume n)

/-- System software reports pages resolved: a candidate with no other page to wait for may be ready again, and what still waits
for a page that is absent asks for it again (R200, R325, R335). Operands: address space, first address, length. -/
def execPagesResolved (s : State) : Res1 :=
  let hit (p : Nat × Nat) : Bool := p.1 = s.arg 0 && p.2 / 65536 * 65536 < s.arg 1 + s.arg 2 && s.arg 1 ≤ p.2
  .next { s with
    cands := (s.cands.map fun (c : Cand) => { c with parked := c.parked.filter fun p => !(hit p) }),
    pageReqs := s.pageReqs.filter fun p => !(hit p) }

/-- The command processor invalidates cached translations of a range (R199). Operands: address space, first address,
length. -/
def execTranslationInvalidate (s : State) : Res1 := .next (s.invalidate (s.arg 0) (s.arg 1) (s.arg 2))

/-! ### A dispatched slice ends (R122, R261, R328, R339, R340, R343) -/

namespace State

/-- Whether every member has issued `trig` (R122). -/
def allTrig (s : State) (gid : Nat) : Bool := (s.gang gid).members.all fun c => (s.ctx c).trig

/-- The gang of a slice's number, if it is resident. -/
def gangOf (s : State) (id : Nat) : Option Nat := (s.gangs.find? fun (_, g) => g.slice.id = id && !g.members.isEmpty).map (·.1)

/-- Tell the successor of a slice that it has completed or failed at this beat, which is BEAT of the record (R117, log entry 74);
`freed` when every member had released it (R340). -/
def tellSuccessor (s : State) (id : Nat) (ok freed : Bool) : State :=
  let at' := some s.beat
  let mark (sl : Slice) : Slice := if sl.pred = some id then { sl with
    predAt := at',
    predFailed := !ok } else sl
  let markGang (g : Gang) : Gang := { g with slice := mark g.slice }
  let t := { s with
    gangs := (s.gangs.map fun (x : Nat × Gang) => (x.1, markGang x.2)),
    saved := (s.saved.map fun (v : Saved) => { v with gang := markGang v.gang }),
    cands := (s.cands.map fun (c : Cand) => if c.pred = some id ∧ (ok ∨ freed ∨ c.released) then { c with
      released := true,
      predAt := at',
      predFailed := !ok } else if c.pred = some id then { c with predFailed := true } else c) }
  match t.cands.find? fun c => c.pred = some id && !c.released && c.todo.isNone with
  | some c => t.refuse c 0x0C 0
  | none => t

/-- Charges, pennants, successor and record of a slice that completes OK (status 0) or FAILED (1). -/
def settle (s : State) (g : Gang) (st detail : Nat) (excess freed : Bool) : State :=
  let sl := g.slice
  let keys := if st = 0 then sl.pout.map (pennantKey sl.asid) else []
  let dup := keys.any (fun k => s.pennants.contains k) || keys.dedup.length != keys.length
  let t := s.chargeChain sl.queue sl.chain (g.members.length * (s.beat - sl.b0.getD s.beat)) 0 sl.pairs
  let t := { t with pennants := keys.foldl (fun l k => if l.contains k then l else l ++ [k]) t.pennants }
  let t := t.tellSuccessor sl.id (st = 0) freed
  t.report sl.graph ⟨sl.queue, sl.tag, s.beat, st, (if sl.deadline < s.beat then 1 else 0) + 2 * excess.toNat + 4 * dup.toNat, detail,
    if st = 0 then 0 else sl.npin⟩

/-- CTXN of a gang's first member. -/
def gangCtxn (g : Saved) : Nat := match g.frames with
  | f :: _ => f.ctx.ctxid.toNat % 65536
  | [] => 0

/-- Whether some context of a context number is resident. -/
def residentCtxn (s : State) (ctxn : Nat) : Bool :=
  s.ctxs.any fun (_, x) => x.run != .empty && x.ctxid.toNat % 65536 = ctxn

/-- Whether a context number is away: it has a saved context and none that is resident (R331). -/
def isAway (s : State) (ctxn : Nat) : Bool := !(s.residentCtxn ctxn) && s.saved.any fun v => gangCtxn v = ctxn

/-- The queues of a context number that has just gone away are to be parked (R331). -/
def parkIfAway (s : State) (ctxn : Nat) : State :=
  if s.isAway ctxn && s.qtab != 0 then { s with dues := s.dues ++ [(0, .away ctxn (List.range 4096))] } else s

/-- CTXN of the context in a bank. -/
def ctxnAt (s : State) (c : Nat) : Nat := (s.ctx c).ctxid.toNat % 65536

/-- A gang leaves its banks for good; its context may be away from now on (R331, R336). -/
def removeGang (s : State) (gid : Nat) : State :=
  let t := (s.leave gid).clearBanks gid
  { t with gangs := tdel t.gangs gid }.parkIfAway (s.ctxnAt ((s.gang gid).members.headD 0))

/-- Whether every command of a gang has completed or is cancelled (R261, R355). -/
def cmdsDone (s : State) (gid : Nat) : Bool :=
  (s.gang gid).members.all fun c => (s.ctx c).cmds.all fun (_, k) => k.isDone || k.cancelled

/-- Whether a slice's completion wait has ended (R261, R400). -/
def sliceDone (s : State) (gid : Nat) : Bool :=
  !(s.gangFrozen gid) && s.lastEnd gid ≤ s.beat && s.cmdsDone gid && match s.formsOf gid with
    | some fs => !fs.isEmpty && fs.all fun f => f = .rdvfin
    | none => false

end State

/-- Every member's `rdvfin` wait and every engine command has ended: the completion faults are taken, or the slice
completes, its writes released by the order in which they were made (R117, R122, R261, R328, R338, R339, R353, R400).
Operand: the gang. -/
def execSliceCompletion (s : State) : Res1 :=
  let gid := s.arg 0
  let g := s.gang gid
  .next (if !(s.sliceDone gid) then s
    else
      let l := g.members.map fun c => (c, s.completionFaults c fun _ => true)
      if l.any fun x => !x.2.isEmpty then l.foldl (fun t x => t.takeRdv x.1 x.2) s
      else
        let excess := g.slice.cbudget != 0 && g.slice.cbudget < g.slice.charge + s.hoistCharge gid
        (s.removeGang gid).settle g 0 0 excess true)

namespace State

/-- Write the record of a fault taken at this beat: a rewind's at once, a slice fault's once its frame has been written
(R378, R387, R392). -/
def fileFault (s : State) (r : Record) : State :=
  if r.code = 0x25 then s.postRecord (s.gang r.gang).slice.fd r
  else s.modGang r.gang fun g => { g with fails := g.fails ++ [r] }

/-- Write the records of every fault taken at this beat. -/
def fileFaults (s : State) : State := s.taken.reverse.foldl fileFault { s with taken := [] }

/-- A fault's record as it is written: a context frame has been written, and AUX0 is its address where the fault names no
other (R385, R392; log entry 31). -/
def failRecord (v : Saved) (r : Record) : Record :=
  let a := match v.frames.find? fun f => srcTile (tileOf f.cid) = r.src with
    | some f => Word.ofNat f.addr
    | none => 0
  { r with
    frame := true,
    aux0 := if r.aux0 = 0 ∧ !([0x04, 0x06, 0x08].contains r.code) then a else r.aux0 }

/-- SEQ of the first of a gang's fault records still to be written, by (BEAT, SEQ, SRC) (R378, R385). -/
def firstFault (s : State) (gid : Nat) : Nat :=
  let key (r : Record) : Nat := (r.beat * 2 ^ 32 + (tget 0 s.seqs r.src).toNat) * 2 ^ 32 + r.src
  match (s.gang gid).fails with
  | [] => 0
  | r :: t => (tget 0 s.seqs (t.foldl (fun a c => if key c < key a then c else a) r).src).toNat

/-- Whether a failing gang has come to rest, in an open interval: commands completed, trains ended, commanded lines performed
(R210, R386, R390, R392). -/
def failDue (s : State) (gid : Nat) : Bool :=
  let g := s.gang gid
  (match g.fz with
    | some f => f.why = .fail && f.beat ≤ s.beat
    | none => false) && !g.members.isEmpty && s.cmdsDone gid &&
  (g.members.all fun c => !((s.ctx c).items.any fun it => it.rt && s.beat ≤ it.due)) && s.openNow && s.ctlQuiet

end State

/-- After a slice fault the commands have completed: context frames are written, then the members' fault records, and the
slice completes FAILED (R386, R392, R399). Operand: the gang. -/
def execSliceFailureCompletion (s : State) : Res1 :=
  let gid := s.arg 0
  .next (if !(s.failDue gid) then s
    else
      let s := s.fileFaults
      let g := s.gang gid
      let seq := s.firstFault gid
      let freed := s.allTrig gid
      let (v, t) := s.framesOf gid true
      let t := g.fails.foldl (fun t r => t.postRecord g.slice.fd (State.failRecord v r)) { t with failed := v :: t.failed }
      (t.removeGang gid).settle g 1 seq false freed)

/-! ### Save and restore (R395-R398) -/

namespace State

/-- The queues that firmware parked for a context number are to become resident again (R331). -/
def unparkAway (s : State) (ctxn : Nat) : State :=
  let mine := (s.awayQs.filter fun q => q.2 = ctxn).map (·.1)
  { s with
    awayQs := s.awayQs.filter fun q => q.2 != ctxn,
    resumeQs := s.resumeQs ++ mine }

end State

/-- The frames of a pre-empted gang have been written and its banks are free; a successor that every member has released
stays released, and the queues of a context no longer resident are parked (R122, R331, R355, R395, R396). Operand: the
gang. -/
def execContextSaveComplete (s : State) : Res1 :=
  let gid := s.arg 0
  .next (if !(s.saveDue gid) then s
    else
      let freed := s.allTrig gid
      let (v, t) := s.framesOf gid false
      let t := (({ t with saved := t.saved ++ [v] }).leave gid).clearBanks gid
      let latch (c : Cand) : Cand := if freed && c.pred = some v.gang.slice.id then { c with released := true } else c
      let t := { t with
        gangs := tdel t.gangs gid,
        cands := t.cands.map latch }
      t.parkIfAway (State.gangCtxn v))

namespace State

/-- Stacks and channels that a context's timetabled extents select (R209). -/
def extentChans (s : State) (x : Table Extent) : List (Nat × Nat) :=
  x.flatMap fun (_, e) =>
    if e.valid && e.kind = 1 then
      let p := e.place.toNat
      (liveStacks s.geom p).flatMap fun st => (liveChans s.geom p st).map fun ch => (st, ch)
    else []

/-- Channels held by resident slices other than one gang's. -/
def heldChans (s : State) (gid : Nat) : List (Nat × Nat) :=
  (s.gangs.filter fun (i, _) => i != gid).flatMap fun (_, g) => s.extentChans (s.ctx (g.members.headD 0)).extents

end State

namespace State

/-- The header bytes of a saved slice's frames, in control space (R398). -/
def headerRuns (v : Saved) : List (Nat × Nat) := v.frames.map fun f => (f.addr, 256)

/-- Whether a saved slice can be placed in a bank of its tiles now: the bank, its areas, its code frames and its channels are
free, and no die it needs restarts its command processors (R336, R345, R397). -/
def restoreFits (s : State) (v : Saved) (bank : Nat) : Bool :=
  let chans := s.extentChans ((v.frames.head?.map fun f : SavedCtx => f.ctx).getD {}).extents
  s.bankFits v bank && !((s.heldChans v.gid).any fun k => chans.contains k) &&
    v.frames.all fun f => !(s.restarting (dieOf (tileOf f.cid)))

/-- FRAME_INVALID: the fault of a gang whose frame is not its own (R385, R398). -/
def frameInvalid (s : State) (v : Saved) : Record :=
  match v.frames with
  | [] => { beat := s.beat, seq := 0, src := 0, code := 0x13, cls := 1, detail := 0, slot := 0xFF, pc := 0 }
  | f :: _ =>
    let x := f.ctx
    { beat := s.beat, seq := 0, src := srcTile (tileOf f.cid), code := 0x13, cls := 1, detail := 0, slot := 0xFF, pc := x.pcNext,
      rs := x.rs, sc := x.sc, hcyc := f.hz, gang := v.gid, ctxn := x.ctxid.toNat % 65536, asid := x.asid.toNat,
      rply := x.rply.toNat, tag := v.gang.slice.tag }

/-- A frame is refused: the gang takes FRAME_INVALID and its slice completes FAILED (R343, R398). -/
def refuseFrame (s : State) (v : Saved) : State :=
  let r := s.frameInvalid v
  let seq := tget 0 s.seqs r.src
  let t := s.postRecord v.gang.slice.fd r
  let t := { t with
    saved := t.saved.filter (fun w => w.gid != v.gid),
    failed := v :: t.failed }
  (if t.saved.any fun w => gangCtxn w = gangCtxn v then t else t.unparkAway (gangCtxn v)).settle v.gang 1 seq.toNat false
    (v.frames.all fun f => f.ctx.trig)

end State

/-- The dispatcher restores a saved slice on its own tiles, in a bank where its areas, code frames and channels are free; a
frame whose bytes in memory do not match is refused with FRAME_INVALID. It reads them in an open interval, once their pages
are present (R210, R325, R397, R398). Operands: gang, bank. -/
def execContextRestore (s : State) : Res1 :=
  let bank := s.arg 1 % 2
  .next (match s.saved.find? fun v => v.gid = s.arg 0 with
    | none => s
    | some v =>
      let l := State.headerRuns v
      if !(s.ctlReady l) then (s.askGaps l).again .contextRestore
      else if !(s.restoreFits v bank) then s
      else
        let t := s.ctlUse l
        if State.headersOk v (v.frames.flatMap fun f => t.ctlRd f.addr 256) then
          (t.install v bank).unparkAway (State.gangCtxn v)
        else t.refuseFrame v)

/-! ### Command processors (R344, R345, R443) -/

namespace State

/-- A die's command processors restart: decisions stop, and its resident queues are to be parked (R345). -/
def restartDie (s : State) (die : Nat) : State :=
  if s.restarting die then s
  else
    let (n, t) := s.free
    { t with
      restarts := tset t.restarts die (s.beat + 1 + Config.delay n),
      dues := t.dues ++ [(die, .park die ((List.range 1024).map fun i => 1024 * die + i))],
      hstat := t.hstat ||| (2#32 <<< die) }

/-- Park those of a list of queues that are resident (R331, R345). -/
def parkQs (s : State) (qs : List Nat) : List Nat × State :=
  let res := qs.filter fun q => s.qField q 0x1A 1 = 1
  (res, res.foldl (fun t q => t.setQ q 0x1A 1 2) (s.ctlUse (res.map fun q => (s.queueAt q, 64))))

/-- Park the resident queues of a die whose page can be written now, until its restart ends; the others follow when theirs can
(R325, R331, R345). -/
def parkDie (s : State) (die : Nat) (qs : List Nat) : State :=
  if s.restarting die && s.qtab != 0 then
    let (now, later) := qs.partition fun q => s.ctlReady [(s.queueAt q, 64)]
    let (res, t) := s.parkQs now
    { t with
      resumeQs := t.resumeQs ++ res,
      dues := if later.isEmpty then t.dues else t.dues ++ [(die, .park die later)] }
  else s

/-- What firmware reads of a queue to see whether it belongs to a context number: its descriptor, and where it is resident, or
parked by a restart, its RCBs (R326, R331). -/
def awayRuns (s : State) (n : Nat) : List (Nat × Nat) :=
  (s.queueAt n, 64) :: if (s.ctlGap (s.queueAt n) 64).isNone && (s.qField n 0x1A 1 = 1 || s.resumeQs.contains n) then
    s.chainRuns 17 (s.qField n 0x10 8) else []

/-- Whether a queue belongs to a context number (R326). -/
def queueOf (s : State) (ctxn n : Nat) : Bool := ((s.chainOf (s.qField n 0x10 8)).map s.ctxnOf) = some ctxn

/-- Firmware parks the queues of a context number that is away, as far as it can read and write them now; the others follow. Those
that a restart of their die has parked stay so (R325, R331, R345). -/
def parkAway (s : State) (ctxn : Nat) (qs : List Nat) : State :=
  if s.isAway ctxn then
    let (now, later) := qs.partition fun q => s.ctlReady (s.awayRuns q)
    let late := now.filter fun q => s.resumeQs.contains q && s.queueOf ctxn q
    let mine := now.filter fun q => s.qField q 0x1A 1 = 1 && s.queueOf ctxn q
    let (res, t) := (s.ctlUse (mine.flatMap s.awayRuns)).parkQs mine
    { t with
      resumeQs := t.resumeQs.filter fun n => !(late.contains n),
      awayQs := t.awayQs ++ (res ++ late).map fun q => (q, ctxn),
      dues := if later.isEmpty then t.dues else t.dues ++ [(0, .away ctxn later)] }
  else s

/-- Whether a die's restart has ended. -/
def restartOver (s : State) (die : Nat) : Bool :=
  match tfind s.restarts die with
  | some b => b ≤ s.beat
  | none => false

end State

/-- A lockstep mismatch of a die's command processors (R345). Operand: the die. -/
def execCpLockstepMismatch (s : State) : Res1 := .next (s.restartDie (s.arg 0 % 4))

/-- The side-band port restarts one die's command processors (R345, R443). Operand: the die. -/
def execResetDie (s : State) : Res1 := .next (s.restartDie (s.arg 0 % 4))

/-- The restart ends: its queues become resident again, and completions are recorded with their true beats, each in an open
interval (R210, R345). Operand: the die. -/
def execCpRestartComplete (s : State) : Res1 :=
  let die := s.arg 0
  .next (if !(s.restartOver die) then s
    else { s with
      restarts := tdel s.restarts die,
      hstat := s.hstat &&& ~~~(2#32 <<< die) })

end Sys2Proof.Machine
end

