-- ==== Sys2Proof/Machine/Shake.lean ====
section
/-! DEFINITION. SHAKE256 as FIPS 202 has it (log entry 19), the bytes of the geometry record and the defect-map
signature (spec 09 R212). -/

namespace Sys2Proof.Machine

/-- The 25 lanes of a Keccak state, lane x + 5 y. -/
abbrev Lanes := List Word

def keccakLane (a : Lanes) (x y : Nat) : Word := a.getD (x % 5 + 5 * (y % 5)) 0

/-- Rotation offsets of rho, by lane. -/
def rhoOff : List Nat :=
  [0, 1, 62, 28, 27, 36, 44, 6, 55, 20, 3, 10, 43, 25, 39, 41, 45, 15, 21, 8, 18, 2, 61, 56, 14]

/-- Round constants of iota. -/
def iotaConst : List Word :=
  [0x0000000000000001, 0x0000000000008082, 0x800000000000808A, 0x8000000080008000, 0x000000000000808B, 0x0000000080000001,
   0x8000000080008081, 0x8000000000008009, 0x000000000000008A, 0x0000000000000088, 0x0000000080008009, 0x000000008000000A] ++
  [0x000000008000808B, 0x800000000000008B, 0x8000000000008089, 0x8000000000008003, 0x8000000000008002, 0x8000000000000080,
   0x000000000000800A, 0x800000008000000A, 0x8000000080008081, 0x8000000000008080, 0x0000000080000001, 0x8000000080008008]

/-- A list of 25 lanes from a function of x and y. -/
def lanesOf (f : Nat → Nat → Word) : Lanes := (List.range 25).map fun i => f (i % 5) (i / 5)

/-- One round: theta, rho and pi, chi, iota. -/
def keccakRound (a : Lanes) (rc : Word) : Lanes :=
  let c := (List.range 5).map fun x => (List.range 5).foldl (fun v y => v ^^^ keccakLane a x y) 0
  let d := (List.range 5).map fun x => c.getD ((x + 4) % 5) 0 ^^^ (c.getD ((x + 1) % 5) 0).rotateLeft 1
  let t := lanesOf fun x y => keccakLane a x y ^^^ d.getD x 0
  let b := lanesOf fun x y =>
    let u := (x + 3 * y) % 5
    (keccakLane t u x).rotateLeft (rhoOff.getD (u + 5 * x) 0)
  lanesOf fun x y => (keccakLane b x y ^^^ (~~~(keccakLane b (x + 1) y) &&& keccakLane b (x + 2) y)) ^^^ (if x = 0 ∧ y = 0 then rc else 0)

def keccakF (a : Lanes) : Lanes := iotaConst.foldl keccakRound a

/-- Xor a 136-byte block into the first 17 lanes. -/
def absorb (a : Lanes) (blk : List Byte) : Lanes :=
  keccakF ((List.range 25).map fun i =>
    a.getD i 0 ^^^ (if i < 17 then Word.ofNat (leNat ((blk.drop (8 * i)).take 8)) else 0))

/-- Cut a message into blocks and absorb them; `fuel` bounds the blocks. -/
def absorbAll : Nat → Lanes → List Byte → Lanes
  | 0, a, _ => a
  | f + 1, a, m => if m.isEmpty then a else absorbAll f (absorb a (m.take 136)) (m.drop 136)

/-- The message padded to whole blocks: 1F, zeros, 80 in the last byte. -/
def padShake (m : List Byte) : List Byte :=
  let k := 136 - m.length % 136
  if k = 1 then m ++ [0x9F] else m ++ [0x1F] ++ List.replicate (k - 2) 0 ++ [0x80]

/-- The first `n` bytes, at most 136, of SHAKE256. -/
def shake256 (m : List Byte) (n : Nat) : List Byte :=
  let p := padShake m
  ((absorbAll (p.length / 136) (List.replicate 25 0) p).flatMap fun w => leBytes 8 w.toNat).take n

/-- Bytes 0x000-0x98F of the geometry record (R212). -/
def Geom.body (g : Geom) : List Byte :=
  leBytes 4 0x47524F47 ++ leBytes 2 1 ++ leBytes 2 g.genr.toNat ++ leBytes 4 g.fcfg.toNat ++ leBytes 2 g.hgen.toNat ++
  leBytes 2 0 ++ leBytes 128 g.tiles.toNat ++ leBytes 2 g.live.toNat ++ leBytes 14 0 ++ leBytes 48 g.chans.toNat ++
  leBytes 192 g.bgrps.toNat ++ leBytes 2048 g.pairs.toNat

/-- The defect-map signature (R212). -/
def Geom.signature (g : Geom) : Nat := leNat (shake256 g.body 8)

end Sys2Proof.Machine
end

