-- ==== Sys2Proof/Machine/Place.lean ====
section
/-! DEFINITION. Images and variants, declared ranges, the joint decision, positions and reservations, and the dispatch of
a slice (spec 02 R26, 04 R92-R97, 09 R186-R202, R206-R216, 13 R272-R275, 14 R304, 15 R332-R340). -/

namespace Sys2Proof.Machine

/-- What judging a candidate that is about to be placed comes to (R334). -/
inductive Judged (α : Type) where
  /-- Refused with a status and a DETAIL. -/
  | refuse (st detail : Nat)
  /-- Parked on a page of an address space (R200). -/
  | park (asid va : Nat)
  /-- Not now: a page is being committed (R215). -/
  | hold
  | go (x : α)

def Judged.bind {α β : Type} (j : Judged α) (k : α → Judged β) : Judged β :=
  match j with
  | .refuse st d => .refuse st d
  | .park a v => .park a v
  | .hold => .hold
  | .go x => k x

/-! ### Images (R92-R97) -/

/-- An entry of a variant table, as read (R93). -/
structure VEnt where
  key : Nat
  any : Bool
  nfr : Nat
  nreq : Nat
  npos : Nat
  nhst : Nat
  ndat : Nat
  frt : Nat
  rqt : Nat
  pst : Nat
  hst : Nat
  dat : Nat
  /-- A bit that must be zero is not. -/
  junk : Bool
  deriving DecidableEq, Repr

/-- The head of a data record at an image offset (R96). -/
structure DatRec where
  eidx : Nat
  pos : Nat
  nb : Nat
  off : Nat
  /-- Control address of its bytes. -/
  bytes : Nat
  junk : Bool
  deriving DecidableEq, Repr

/-- A declared range (R333). -/
structure Declared where
  va : Nat
  len : Nat
  eidx : Nat
  fl : Nat
  junk : Bool
  deriving DecidableEq, Repr

def Declared.timetabled (r : Declared) : Bool := r.fl.testBit 1
def Declared.wr (r : Declared) : Bool := r.fl.testBit 0

/-- The declared range of an extent index. -/
def rangeOf (l : List Declared) (e : Nat) : Option Declared := l.find? fun r => r.eidx = e

namespace State

/-- Go on when control structures are present, else park; not now where accesses to one are held (R325, R368). -/
def need {α : Type} (s : State) (l : List (Nat × Nat)) (k : Judged α) : Judged α :=
  match s.ctlGaps l with
  | some v => .park 0 v
  | none => if s.ctlHeld l then .hold else k

/-- Go on unless the image or its variant table is invalid (R97). -/
def valid {α : Type} (bad : Bool) (k : Judged α) : Judged α := if bad then .refuse 0x0E 0 else k

/-- An entry of a variant table (R93). The KEY of an `any` entry is ignored, whatever it holds (log entry 44). -/
def readVEnt (s : State) (a : Nat) : VEnt :=
  { key := s.ctlNat a 8,
    any := (s.ctlNat (a + 8) 1).testBit 0,
    nfr := s.ctlNat (a + 9) 1,
    nreq := s.ctlNat (a + 0x0A) 1,
    npos := s.ctlNat (a + 0x0C) 2,
    nhst := s.ctlNat (a + 0x0E) 2,
    ndat := s.ctlNat (a + 0x10) 4,
    frt := s.ctlNat (a + 0x18) 8,
    rqt := s.ctlNat (a + 0x20) 8,
    pst := s.ctlNat (a + 0x28) 8,
    hst := s.ctlNat (a + 0x30) 8,
    dat := s.ctlNat (a + 0x38) 8,
    junk := 1 < s.ctlNat (a + 8) 1 || s.ctlNat (a + 0x0B) 1 != 0 || s.ctlNat (a + 0x14) 4 != 0 }

def readRange (s : State) (a : Nat) : Declared :=
  { va := s.ctlNat a 8,
    len := s.ctlNat (a + 8) 8,
    eidx := s.ctlNat (a + 0x10) 1,
    fl := s.ctlNat (a + 0x11) 1,
    junk := 2 ^ 57 ≤ s.ctlNat a 8 || 3 < s.ctlNat (a + 0x11) 1 || s.ctlNat (a + 0x12) 6 != 0 }

/-- The declared ranges of a candidate (R333). -/
def rangesOf (s : State) (c : Cand) : List Declared := (List.range (c.f 0x37 1)).map fun i => s.readRange (c.f 0x38 8 + 24 * i)

/-- The lists of a variant: image offset and bytes of each; of the data records, the first one's head. -/
def listsOf (v : VEnt) : List (Nat × Nat) :=
  [(v.frt, 16 * v.npos * v.nfr), (v.rqt, 8 * v.nreq), (v.pst, 8 * v.npos), (v.hst, 16 * v.nhst), (v.dat, 16 * min v.ndat 1)]

/-- Frame number and code offset of slot `i` of position `p` (R94). -/
def frameEnt (s : State) (img : Nat) (v : VEnt) (p i : Nat) : Nat × Nat :=
  let a := img + v.frt + 16 * (p * v.nfr + i)
  (s.ctlNat a 1, s.ctlNat (a + 8) 8)

/-- The frame numbers of a position. -/
def frameNos (s : State) (img : Nat) (v : VEnt) (p : Nat) : List Nat := (List.range v.nfr).map fun i => (s.frameEnt img v p i).1

/-- Whether the frame list breaks its rules: numbers, zero bytes, code past the image, positions that disagree. -/
def framesBad (s : State) (img len : Nat) (v : VEnt) : Bool :=
  (List.range v.npos).any fun p => s.frameNos img v p != s.frameNos img v 0 || (List.range v.nfr).any fun i =>
    let (f, o) := s.frameEnt img v p i
    15 < f || s.ctlNat (img + v.frt + 16 * (p * v.nfr + i) + 1) 7 != 0 || len < o + 4096

/-- The positions a position table lists, as ENTRY and POSN (R94). -/
def posEnts (s : State) (img : Nat) (v : VEnt) : List (Nat × Nat) :=
  (List.range v.npos).map fun p => (s.ctlNat (img + v.pst + 8 * p) 2, s.ctlNat (img + v.pst + 8 * p + 2) 2)

/-- POSN of gang die index, row and column (R94). -/
def posn (k y x : Nat) : Nat := x + 16 * y + 256 * k

/-- Every POSN of a gang shape, in position order. -/
def allPosn (dies rows cols : Nat) : List Nat :=
  (List.range dies).flatMap fun k => (List.range rows).flatMap fun y => (List.range cols).map fun x => posn k y x

def positionsBad (s : State) (img : Nat) (v : VEnt) (c : Cand) : Bool :=
  let l := (s.posEnts img v).map (·.2)
  (allPosn c.ndies c.rows c.cols).any (fun p => (l.filter fun q => q = p).length != 1) ||
  (List.range v.npos).any fun p => s.ctlNat (img + v.pst + 8 * p + 4) 4 != 0

/-- Hoist-table entry `n`: position and mark (R95). -/
def hoistEnt (s : State) (img : Nat) (v : VEnt) (n : Nat) : Nat × HoistMark :=
  let a := img + v.hst + 16 * n
  let fl := s.ctlNat (a + 4) 1
  (s.ctlNat (a + 2) 2, ⟨BitVec.ofNat 16 (s.ctlNat a 2), fl.testBit 0, fl.testBit 1, s.ctlNat (a + 5) 1,
    (List.range (s.ctlNat (a + 6) 2)).map fun i =>
      let b := img + s.ctlNat (a + 8) 8 + 8 * i
      (s.ctlNat b 4, s.ctlNat (b + 4) 4)⟩)

/-- The hoist marks of a position. -/
def hoistsOf (s : State) (img : Nat) (v : VEnt) (p : Nat) : List HoistMark :=
  ((List.range v.nhst).map fun n => s.hoistEnt img v n).filterMap fun (q, m) => if q = p then some m else none

/-- The safe-point lists of a variant's hoists (R95). -/
def safeRuns (s : State) (img : Nat) (v : VEnt) : List (Nat × Nat) :=
  (List.range v.nhst).map fun n =>
    let a := img + v.hst + 16 * n
    (img + s.ctlNat (a + 8) 8, 8 * s.ctlNat (a + 6) 2)

/-- Whether a variant's hoist tables cannot be ones (R95): an entry whose POS names no position is not held against the image, nor an
APEAK above 4 (log entry 71). -/
def hoistsBad (s : State) (img len : Nat) (v : VEnt) : Bool :=
  ((List.range v.nhst).any fun n =>
    let a := img + v.hst + 16 * n
    3 < s.ctlNat (a + 4) 1 || len < s.ctlNat (a + 8) 8 + 8 * s.ctlNat (a + 6) 2) ||
  let l := (List.range v.nhst).map fun n => s.hoistEnt img v n
  (l.map (·.1)).dedup.any fun p =>
    let es := (l.filter fun x => x.1 = p).map fun x => x.2.entry
    512 < es.length || es.dedup.length != es.length

/-- The data records of a variant, up to the first that cannot be one; the padding of the last is not held against LEN (R96,
log entry 66). -/
def datRecs (s : State) (img len : Nat) : Nat → Nat → List DatRec
  | 0, _ => []
  | n + 1, o =>
    let a := img + o
    let nb := s.ctlNat (a + 4) 4
    let r : DatRec := {
      eidx := s.ctlNat a 1,
      pos := s.ctlNat (a + 2) 2,
      nb := nb,
      off := s.ctlNat (a + 8) 8,
      bytes := a + 16,
      junk := s.ctlNat (a + 1) 1 != 0 || nb = 0 || 16777216 < nb || len < o + 16 + nb }
    if r.junk then [r] else r :: s.datRecs img len n (o + 16 + (nb + 15) / 16 * 16)

/-- Whether a data record breaks R97 for a candidate. -/
def recBad (c : Cand) (rs : List Declared) (r : DatRec) : Bool :=
  let lo := 4096 * bits (c.f 0x14 4) 8 7
  r.junk || (if r.eidx = 0 then r.off < lo || lo + 4096 * bits (c.f 0x14 4) 15 7 < r.off + r.nb
    else r.pos != 0xFFFF || match rangeOf rs r.eidx with
      | some d => d.len < r.off + r.nb
      | none => true)

/-- Control address of the variant table in use (R93). -/
def vtabOf (s : State) (c : Cand) : Nat := if c.f 8 8 = 0 then c.f 0 8 + s.ctlNat (c.f 0 8 + 0x18) 8 else c.f 8 8

/-- The lists of a table's variants. -/
def listRuns (img : Nat) (vs : List VEnt) : List (Nat × Nat) := vs.flatMap fun v => (listsOf v).map fun (o, k) => (img + o, k)

/-- The heads of data records, those that are not junk. -/
def headRuns (top : Nat) (ds : List DatRec) : List (Nat × Nat) := (ds.filter fun r => r.bytes ≤ top).map fun r => (r.bytes - 16, 16)

/-- Read and check a candidate's image and the variant table in use; the answer is the table's entries (R92-R97, log entry
66). -/
def judgeImage (s : State) (c : Cand) (rs : List Declared) : Judged (List VEnt) :=
  let img := c.f 0 8
  let ext := c.f 8 8
  s.need [(img, 64)] <|
  let len := s.ctlNat (img + 8) 8
  let own := s.ctlNat (img + 0x18) 8
  let vt := s.vtabOf c
  valid (s.ctlNat img 4 != 0x31494251 || s.ctlNat (img + 4) 2 != 1 || s.ctlNat (img + 6) 2 != 0 ||
    s.ctlNat (img + 0x14) 4 != 0 || s.ctlNat (img + 0x20) 32 != 0 || len < 64 || len < own + 16 || ext % 8 != 0 ||
    s.ctlNat (img + 0x10) 4 != c.f 0x10 4) <|
  s.need [(vt, 16)] <|
  let n := s.ctlNat (vt + 4) 2
  valid (s.ctlNat vt 4 != 0x54564251 || n = 0 || 255 < n || s.ctlNat (vt + 6) 10 != 0 ||
    (ext = 0 && len < own + 16 + 64 * n)) <|
  s.need [(vt + 16, 64 * n)] <|
  let vs := (List.range n).map fun i => s.readVEnt (vt + 16 + 64 * i)
  valid (vs.any fun v => v.junk || v.nfr = 0 || v.npos != c.tiles || (listsOf v).any fun (o, k) => len < o + k) <|
  s.need (listRuns img vs) <|
  valid (vs.any fun v => s.framesBad img len v || s.positionsBad img v c || s.hoistsBad img len v ||
    ((List.range v.nreq).any fun i => s.ctlNat (img + v.rqt + 8 * i + 1) 3 != 0 || 2 ^ 23 ≤ s.ctlNat (img + v.rqt + 8 * i + 4) 4)) <|
  s.need (vs.flatMap (s.safeRuns img)) <|
  let ds := vs.flatMap fun v => s.datRecs img len v.ndat v.dat
  s.need (headRuns (img + len) ds) <|
  valid (ds.any (recBad c rs)) (.go vs)

/-- What judging a candidate has read of its range list and image, as far as it is present (R97, R333). -/
def judgeRuns (s : State) (c : Cand) : List (Nat × Nat) :=
  let img := c.f 0 8
  let vt := s.vtabOf c
  let top := [(c.f 0x38 8, 24 * c.f 0x37 1), (img, 64)]
  let table := top ++ [(vt, 16 + 64 * s.ctlNat (vt + 4) 2)]
  if (s.ctlGaps top).isSome then top
  else if (s.ctlGaps table).isSome then table
  else
    let vs := (List.range (s.ctlNat (vt + 4) 2)).map fun i => s.readVEnt (vt + 16 + 64 * i)
    table ++ listRuns img vs ++ if (s.ctlGaps (listRuns img vs)).isSome then [] else vs.flatMap (s.safeRuns img)

/-! ### Partitions (R186-R188) -/

/-- First and last-but-one 4 KiB units of the register area and of the scratchpad area of a partition word. -/
def areasOf (p : Nat) : (Nat × Nat) × (Nat × Nat) :=
  let nv := if p.testBit 0 then 128 else 64
  ((bits p 22 7, bits p 22 7 + (512 * nv + 4096 * bits p 3 4 + 4095) / 4096), (bits p 8 7, bits p 8 7 + bits p 15 7))

def meet (a b : Nat × Nat) : Bool := a.1 < b.2 && b.1 < a.2

/-- Whether a partition word by itself is refused (R188). -/
def partBad (p : Nat) : Bool :=
  let nv := if p.testBit 0 then 128 else 64
  let (rg, sp) := areasOf p
  bits p 1 2 = 3 || 8 < bits p 3 4 || p.testBit 7 || bits p 29 3 != 0 || nv - 32 < 32 * (bits p 1 2 + 1) || sp.1 = sp.2 ||
  112 < rg.2 || 112 < sp.2 || meet rg sp

/-- Whether two partition words overlap on one tile. -/
def partsMeet (p q : Nat) : Bool :=
  let (a, b) := areasOf p
  let (c, d) := areasOf q
  meet a c || meet a d || meet b c || meet b d

/-! ### Declared ranges (R196-R202, R213, R333) -/

/-- Whether the range list itself is refused with RANGE_INVALID (R196, R333). A length of 2^56 or more passes and is kept whole
(log entry 59). -/
def rangesBad (rs : List Declared) : Bool :=
  rs.any (fun r => r.junk || r.eidx = 0 || r.len = 0 || 2 ^ 57 < r.va + r.len) ||
  (rs.map fun r => r.eidx).dedup.length != rs.length

/-- Whether an HBM leaf is well formed and its placement current (R199, R203). -/
def leafGood (s : State) (l : Leaf) : Bool :=
  l.entry.testBit 4 || (stripeOf s.geom (bits l.entry 8 24 * 65536 + pageSize l.level - 1) (bits l.entry 32 32)).isSome

/-- The leaves that cover a range, with the page each covers, up to the first that is absent or malformed. -/
def leaves (s : State) (asid : Nat) : Nat → Nat → Nat → List (Nat × Option Leaf)
  | 0, _, _ => []
  | f + 1, va, stop =>
    if stop ≤ va then []
    else match s.walk asid va with
      | .leaf l => if s.leafGood l then (va, some l) :: s.leaves asid f (va - va % pageSize l.level + pageSize l.level) stop else [(va, none)]
      | _ => [(va, none)]

/-- Whether a walk has to wait at a table's page (R368). -/
def walkHeld (s : State) (asid va : Nat) : Bool :=
  match s.walk asid va with
  | .held => true
  | _ => false

/-- The stripe-space address and placement of a page's byte, for an HBM leaf. -/
def leafStripe (l : Leaf) (va : Nat) : Option (Nat × Nat) :=
  if l.entry.testBit 4 then none else some (bits l.entry 8 24 * 65536 + va % pageSize l.level, bits l.entry 32 32)

/-- Whether a placement selects a unit that an HBM change is draining (R213). -/
def draining (s : State) (p : Nat) : Bool :=
  match s.geo with
  | .drain g | .install g => selectsLost s.geom g p
  | _ => false

/-- Whether a page of a timetabled range parks its slice (R200, R213). -/
def pageParks (s : State) (r : Declared) (l : Option Leaf) : Bool :=
  match l with
  | none => true
  | some l => (r.wr && !(l.entry.testBit 1)) || (!(l.entry.testBit 4) && (bits l.entry 58 2 != 0 || s.draining (bits l.entry 32 32)))

/-- The extent of a timetabled range, or its refusal or parking (R200, R202, R334 step 5). -/
def judgeTimetabled (s : State) (asid : Nat) (r : Declared) : Judged (Nat × Extent) :=
  let ls := s.leaves asid (r.len / 65536 + 2) r.va (r.va + r.len)
  match ls.find? fun (_, l) => s.pageParks r l with
  | some (va, l) => if l.isNone && s.walkHeld asid va then .hold else .park asid va
  | none =>
    match ls.head? >>= fun (va, l) => l >>= fun l => leafStripe l va with
    | none => .refuse 6 0
    | some (a0, p0) =>
      let same := ls.all fun (va, l) => match l >>= fun l => leafStripe l va with
        | some (a, p) => a = a0 + (va - r.va) && bits p 0 26 = bits p0 0 26 && bits p 28 4 = bits p0 28 4
        | none => false
      if same then .go (r.eidx, {
        base := BitVec.ofNat 57 a0,
        len := r.len,
        valid := true,
        wr := r.wr,
        kind := 1,
        place := BitVec.ofNat 32 p0 })
      else .refuse 6 0

/-- The extent of an open range; a writable one parks on a leaf with WR = 0 (R200). Absent pages are passed over. -/
def judgeOpen (s : State) (asid : Nat) (r : Declared) : Judged (Nat × Extent) :=
  let pages := (List.range (r.len / 65536 + 2)).map fun i => max r.va (r.va - r.va % 65536 + 65536 * i)
  let shut := (pages.filter fun va => va < r.va + r.len).find? fun va => match s.walk asid va with
    | .leaf l => !(l.entry.testBit 1)
    | .held => true
    | _ => false
  match if r.wr then shut else none with
  | some va => if s.walkHeld asid va then .hold else .park asid va
  | none => .go (r.eidx, {
      base := BitVec.ofNat 57 r.va,
      len := r.len,
      valid := true,
      wr := r.wr,
      kind := 2,
      place := 0 })

/-- The extent table of a list of ranges, taken in turn. -/
def judgeRanges (s : State) (asid : Nat) : List Declared → Judged (Table Extent)
  | [] => .go []
  | r :: l => (if r.timetabled then s.judgeTimetabled asid r else s.judgeOpen asid r).bind fun (e, x) =>
      (s.judgeRanges asid l).bind fun t => .go (tset t e x)

/-! ### Variants (R94, R214) -/

/-- The lowest extent index that fails a variant's placement requirements, or none (R94, R214). -/
def failing (s : State) (img : Nat) (v : VEnt) (xs : Table Extent) : Option Nat :=
  let reqs := (List.range v.nreq).map fun i => (s.ctlNat (img + v.rqt + 8 * i) 1, s.ctlNat (img + v.rqt + 8 * i + 4) 4)
  (List.range 256).find? fun e =>
    let want := reqs.filterMap fun (k, p) => if k = e then some p else none
    let x := tget {} xs e
    let have' := if x.valid && x.kind = 1 then [bits x.place.toNat 0 23] else []
    want != have'

/-- The variant chosen, or GEOMETRY_NO_VARIANT with its DETAIL (R214). -/
def chooseVariant (s : State) (img : Nat) (vs : List VEnt) (xs : Table Extent) : Judged VEnt :=
  let sig := s.geom.signature
  let keyed := vs.filter fun v => !v.any && v.key = sig
  let anys := vs.filter fun v => v.any
  match (keyed ++ anys).find? fun v => (s.failing img v xs).isNone with
  | some v => .go v
  | none => .refuse 7 (match (keyed ++ anys).head? with
      | some v => (s.failing img v xs).getD 0
      | none => 0)

/-- What a candidate would run: its variant, extents and address space (R214). -/
structure Plan where
  img : Nat
  ent : VEnt
  extents : Table Extent
  ranges : List Declared
  asid : Nat
  apeak : Nat
  deriving DecidableEq, Repr

/-- Steps 1 and 2 of R334, but for an overlap with the other bank: the variants. -/
def judge1to2 (s : State) (c : Cand) : Judged (List VEnt) :=
  s.need [(c.f 0x38 8, 24 * c.f 0x37 1)] <|
  (s.judgeImage c (s.rangesOf c)).bind fun vs => if partBad (c.f 0x14 4) then .refuse 2 0 else .go vs

/-- Steps 3 to 7 of R334. -/
def judge3to7 (s : State) (c : Cand) (asid : Nat) (vs : List VEnt) : Judged Plan :=
  let img := c.f 0 8
  let rs := s.rangesOf c
    if rangesBad rs then .refuse 5 0
    else if rs.any fun r => r.timetabled && (r.va % 64 != 0 || r.len % 64 != 0) then .refuse 4 0
    else (s.judgeRanges asid (rs.mergeSort fun a b => a.eidx ≤ b.eidx)).bind fun xs =>
      (s.chooseVariant img vs xs).bind fun v =>
        let fs := s.frameNos img v 0
        if 16 < v.nfr ∨ fs.dedup.length ≠ fs.length then .refuse 3 0
        else .go {
          img := img,
          ent := v,
          extents := xs,
          ranges := rs,
          asid := asid,
          apeak := ((List.range v.npos).map fun p => ((s.hoistsOf img v p).map fun m => m.apeak).foldl max 0).sum }

/-! ### Positions (R191, R209, R275, R304, R336) -/

/-- Die sets of a count, by ascending mask. -/
def dieSets (n : Nat) : List (List Nat) :=
  ((List.range 16).map fun m => (List.range 4).filter fun d => m.testBit d).filter fun l => l.length = n

/-- Tiles of a position in position order (R94, R138). -/
def tilesAt (p : Position) : List Nat :=
  p.dies.flatMap fun d => (List.range p.rows).flatMap fun r => (List.range p.cols).map fun c => 256 * d + 16 * (p.y + r) + p.x + c

/-- Every position of a shape in the order in which it is tried (R336). -/
def allPositions (dies rows cols : Nat) (banks : List Nat) : List Position :=
  (dieSets dies).flatMap fun ds => (List.range (17 - rows)).flatMap fun y => (List.range (17 - cols)).flatMap fun x =>
    banks.map fun b => ⟨ds, y, x, b, rows, cols⟩

/-- Boundary directions that routes between the dies of a set cross (R145). -/
def ringDirs (dies : List Nat) : List (Nat × Nat) :=
  (dies.flatMap fun a => dies.flatMap fun b => if a = b then [] else (dieHops a b).map fun (p, q, _) => (p, q)).dedup

/-- Gangs that hold grants: resident and saved ones. -/
def allGangs (s : State) : List Gang := s.gangs.map (·.2) ++ s.saved.map (·.gang)

/-- The lowest start of a free range of ring slots (R145). -/
def ringStart (s : State) (dies : List Nat) (n : Nat) : Option Nat :=
  let dirs := ringDirs dies
  if dirs.isEmpty then some 0
  else
    let busy := (s.allGangs.filter fun g => (ringDirs g.dies).any fun d => dirs.contains d).map fun g => (g.ring0, g.ring0 + g.ringN)
    (List.range (97 - n)).find? fun b => busy.all fun (lo, hi) => b + n ≤ lo || hi ≤ b

/-- Whether some other context of a tile, resident or saved, may update a pair that a grant word lets update (R275). -/
def updateClash (s : State) (tile : Nat) (xg : Nat) : Bool :=
  let clash (y : Ctx) : Bool := (List.range 16).any fun p => xg.testBit (2 * p + 1) && y.xgrant.getLsbD (2 * p + 1)
  ([2 * tile, 2 * tile + 1].any fun c => (s.ctx c).run != .empty && clash (s.ctx c)) ||
  s.saved.any fun v => v.frames.any fun f => tileOf f.cid = tile && clash f.ctx

/-- Whether a gang is frozen in place: it keeps its bank and does not run (R336, R395, R396; log entry 81). -/
def gangAtRest (s : State) (gid : Nat) : Bool :=
  match (s.gang gid).fz with
  | some f => f.beat ≤ s.beat && f.restart.isNone
  | none => false

/-- Whether a tile can take a context of a candidate in a bank; firmware holds dispatch to a tile or a pair that it is about
to retire (R191, R213, R275, R336). -/
def tileFits (s : State) (xg : Nat) (frames : List Nat) (bank tile : Nat) : Bool :=
  s.geom.tiles.getLsbD tile && !(s.tilesOut.contains tile) &&
  !(s.suspects.any fun pid => pid / 16 = tile && xg.testBit (2 * (pid % 16))) && (s.ctx (2 * tile + bank)).run = .empty &&
  ([2 * tile, 2 * tile + 1].all fun c =>
    let x := s.ctx c
    x.run = .empty || s.gangAtRest x.gang && (s.gang x.gang).resume.isNone || ((s.gang x.gang).off && (s.gang x.gang).resume.isNone)) &&
  frames.all (fun f => (tget {} s.frames (16 * tile + f)).owner.isNone) && !(s.updateClash tile xg)

/-- Whether a position is reserved for another slice of earlier deadline (R336). -/
def blockedBy (s : State) (c : Cand) (p : Position) : Bool :=
  let ts := tilesAt p
  s.cands.any fun k => k.id != c.id && k.deadline < c.deadline && match k.resv with
    | some q => (tilesAt q).any fun t => ts.contains t
    | none => false

/-- Whether every die of a position can grant tiles (R345). -/
def diesUp (s : State) (p : Position) : Bool := p.dies.all fun d => !(s.restarting d)

/-- Whether a slice fits the module apart from its position: channels and analog peaks (R209, R304). -/
def fitsModule (s : State) (pl : Plan) : Bool :=
  let chans := s.extentChans pl.extents
  let held := s.gangs.flatMap fun (_, g) => s.extentChans (s.ctx (g.members.headD 0)).extents
  (chans.isEmpty || !(held.any fun k => chans.contains k)) &&
  (s.allGangs.map fun g => g.slice.apeak).sum + pl.apeak + 4 * s.engineCap ≤ s.livePairs / 4

/-- The first position that fits (R336). -/
def findPosition (s : State) (c : Cand) (pl : Plan) (cbank : Nat) : Option Position :=
  if !(s.fitsModule pl) then none
  else
    let frames := s.frameNos pl.img pl.ent 0
    (allPositions c.ndies c.rows c.cols (if cbank = 2 then [0, 1] else [cbank])).find? fun p =>
      s.diesUp p && (tilesAt p).all (s.tileFits (c.f 0x18 4) frames p.bank) && !(s.blockedBy c p) && (s.ringStart p.dies (c.f 0x34 1)).isSome

/-- The first position that fits in all that does not depend on the chosen variant (R334 step 2, log entry 54). -/
def roughPosition (s : State) (c : Cand) (cbank : Nat) : Option Position :=
  (allPositions c.ndies c.rows c.cols (if cbank = 2 then [0, 1] else [cbank])).find? fun p =>
    s.diesUp p && (tilesAt p).all (s.tileFits (c.f 0x18 4) [] p.bank) && !(s.blockedBy c p) && (s.ringStart p.dies (c.f 0x34 1)).isSome

/-- The position a waiting slice reserves: the first that overlaps no other reservation, be its tiles live or not (R336). -/
def freeToReserve (s : State) (c : Cand) : Option Position :=
  let taken := s.cands.flatMap fun k => if k.id = c.id then [] else match k.resv with
    | some q => tilesAt q
    | none => []
  (allPositions c.ndies c.rows c.cols [0]).find? fun p => (tilesAt p).all fun t => !(taken.contains t)

/-! ### Placing (R26, R96, R190-R193, R199, R328, R337, R339) -/

/-- Whether a partition overlaps the other bank's context on some tile of a position (R188). -/
def partClash (s : State) (c : Cand) (p : Position) : Bool :=
  (tilesAt p).any fun t =>
    let y := s.ctx (2 * t + (1 - p.bank))
    y.run != .empty && partsMeet (c.f 0x14 4) y.part.toNat

/-- Whether a grant names a retired pair at a position (R281, R292). -/
def retiredAt (s : State) (c : Cand) (p : Position) : Bool :=
  (tilesAt p).any fun t => (List.range 16).any fun i =>
    (c.f 0x18 4).testBit (2 * i) && (!(s.geom.pairs.getLsbD (16 * t + i)) || (s.pair (16 * t + i)).pstate = 3)

/-- The places of a data record's bytes in a declared range, writable or not; DY is set on a writable leaf (R96, R199,
R200). -/
def recPlaces (die asid : Nat) : List (Nat × Nat) → State → Got (List (Place × Nat))
  | [], s => .ok [] s
  | (a, n) :: r, s =>
    (s.xlate die asid a false).andThen fun p t =>
      let dirty : Got Unit := match t.tlbFind die asid a with
        | some u => if u.entry.testBit 1 then t.tlbDirty u else .ok () t
        | none => .ok () t
      dirty.andThen fun _ t => (recPlaces die asid r (t.touchMoves p)).andThen fun l u => .ok ((p, n) :: l) u

/-- The loads of a slice with the places of those for declared ranges, all found before any is made (R96). -/
def loadPlaces (die asid : Nat) : List Load → State → Got (List (Load × List (Place × Nat)))
  | [], s => .ok [] s
  | x :: r, s => match x.dst with
    | .range va => (recPlaces die asid (pieces va x.n) s).andThen fun ps t =>
        (loadPlaces die asid r t).andThen fun l u => .ok ((x, ps) :: l) u
    | _ => (loadPlaces die asid r s).andThen fun l u => .ok ((x, []) :: l) u

/-- Make one load (R96, R190, R191). -/
def loadOne (s : State) (x : Load × List (Place × Nat)) : State :=
  let bs := s.ctlRd x.1.src x.1.n
  match x.1.dst with
  | .frame m f =>
    let fr : Frame := { owner := some m, valid := true }
    ({ s with frames := tset s.frames (16 * tileOf m + f) fr }).wr (storeAt (tileOf m) (4096 * f)) bs false
  | .pool tile off => s.wr (poolAt tile off) bs false
  | .range _ => s.writeAt x.2 (clean bs)

/-- Walk the leaves of a timetabled range through the cache: AC on all, DY where it is writable (R199). -/
def touchLeaves (die asid : Nat) (wr : Bool) : List Nat → State → Got Unit
  | [], s => .ok () s
  | va :: l, s => match s.tlbFill die asid va with
    | .hold q => .hold q
    | .fault _ _ => touchLeaves die asid wr l s
    | .ok t u => (if wr then u.tlbDirty t else .ok () u).andThen fun _ v => touchLeaves die asid wr l v

/-- The same of several ranges: address, length and whether it is writable. -/
def touchRanges (die asid : Nat) : List (Nat × Nat × Bool) → State → Got Unit
  | [], s => .ok () s
  | (va, len, wr) :: l, s =>
    (touchLeaves die asid wr ((s.leaves asid (len / 65536 + 2) va (va + len)).map (·.1)) s).andThen fun _ t => touchRanges die asid l t

/-- The lowest gang number that no live gang holds (R337). -/
def freeGid (s : State) : Nat :=
  let used := tkeys s.gangs ++ s.saved.map (·.gid)
  ((List.range (used.length + 1)).find? fun n => !(used.contains n)).getD 0

/-- One member in launch state: its registers, extents and hoist marks, and its code frames, not yet loaded (R26, R191, R193,
R337). -/
def prepareMember (s : State) (c : Cand) (pl : Plan) (gid ctxn : Nat) (bank : Nat) (x : Nat × Nat × Nat × Nat) : State :=
  let (tile, k, y, xx) := x
  let p := (k * c.rows + y) * c.cols + xx
  let m := 2 * tile + bank
  let entry := ((s.posEnts pl.img pl.ent).find? fun e => e.2 = posn k y xx).map (·.1)
  let fr : Frame := { owner := some m, valid := false }
  let t := { s with frames := (s.frameNos pl.img pl.ent p).foldl (fun l f => tset l (16 * tile + f) fr) s.frames }
  let regs : Regs := {
    g := (List.range 8).map fun i => (i + 1, Word.ofNat (c.f (0x80 + 8 * i) 8)),
    pc := BitVec.ofNat 16 (entry.getD 0),
    seedlo := Word.ofNat (c.f 0x70 8),
    seedhi := Word.ofNat (c.f 0x78 8) }
  t.setCtx m {
    run := .ready,
    regs := regs,
    gang := gid,
    pos := (k, y, xx),
    ctxid := BitVec.ofNat 17 (65536 * bank + ctxn),
    asid := BitVec.ofNat 16 pl.asid,
    part := BitVec.ofNat 32 (c.f 0x14 4),
    xgrant := BitVec.ofNat 32 (c.f 0x18 4),
    deadln := Word.ofNat c.deadline,
    hoists := s.hoistsOf pl.img pl.ent p,
    extents := pl.extents }

/-- The members' code pages, in the order of slots (R191). -/
def codeLoads (s : State) (pl : Plan) (ms : List Nat) : List Load :=
  ((List.range ms.length).zip ms).flatMap fun (p, m) => (List.range pl.ent.nfr).map fun i =>
    let (f, o) := s.frameEnt pl.img pl.ent p i
    ⟨pl.img + o, 4096, .frame m f⟩

/-- The data records, in their order; one for extent 0 whose POS names no position is written nowhere (R96, R190, log entry 72). -/
def recLoads (pl : Plan) (ms : List Nat) (recs : List DatRec) : List Load :=
  recs.flatMap fun r =>
    if r.eidx = 0 then
      ((List.range ms.length).zip ms).filterMap fun (p, m) =>
        if r.pos = p ∨ r.pos = 0xFFFF then some ⟨r.bytes, r.nb, .pool (tileOf m) r.off⟩ else none
    else match rangeOf pl.ranges r.eidx with
      | some d => [⟨r.bytes, r.nb, .range (d.va + r.off)⟩]
      | none => []

/-- All that is to be done for a slice before its B0 (R96, R190, R191, R199). -/
def feedOf (s : State) (c : Cand) (pl : Plan) (ms : List Nat) (recs : List DatRec) : Feed :=
  let part := c.f 0x14 4
  let loads := s.codeLoads pl ms ++ recLoads pl ms recs
  { touch := (pl.ranges.filter fun r => r.timetabled).map fun r => (r.va, r.len, r.wr),
    runs := loads.map fun x => (x.src, x.n),
    zero := ms.map fun m => (poolAt (tileOf m) (4096 * bits part 8 7), 4096 * bits part 15 7),
    loads := loads }

/-- Place a candidate at a position: pennants consumed, grants charged, members in launch state, its gang waiting for what is
to be loaded (R328, R337, R339). -/
def placeAt (s : State) (c : Cand) (pl : Plan) (chain : List Nat) (p : Position) (recs : List DatRec) : State :=
  let (n, t) := s.free
  let gid := t.freeGid
  let keys := c.pins.map (pennantKey pl.asid)
  let ctxn := s.ctxnOf chain
  let shape := (List.range c.ndies).flatMap fun k => (List.range c.rows).flatMap fun y => (List.range c.cols).map fun x => (k, y, x)
  let fl := s.flagsOf chain
  let ms := (tilesAt p).map fun q => 2 * q + p.bank
  let sl : Slice := {
    id := c.id, tag := c.tag, fd := s.fdomOf chain, queue := c.queue, order := c.order, succAt := c.f 0x60 8, chain := chain,
    asid := pl.asid, deadline := c.deadline, cbudget := c.f 0x28 8, prepared := s.beat + 1 + Config.delay n,
    feed := some (s.feedOf c pl ms recs), pairs := c.grants,
    apeak := pl.apeak, npin := c.f 0x35 1, pout := c.pouts, pred := c.pred, predAt := c.predAt, predFailed := c.predFailed,
    graph := c.graph, noprot := fl.testBit 0, majgo := fl.testBit 1 }
  let g : Gang := {
    members := ms, rows := c.rows, cols := c.cols, y0 := p.y, x0 := p.x, dies := p.dies,
    ring0 := (s.ringStart p.dies (c.f 0x34 1)).getD 0, ringN := if 1 < p.dies.length then c.f 0x34 1 else 0, slice := sl }
  let t := ((t.dropCand c.id).chargeChain c.queue chain 0 c.grants 0).setGang gid g
  let t := { t with pennants := t.pennants.filter fun k => !(keys.contains k) }
  ((tilesAt p).zip shape).foldl (fun t x => t.prepareMember c pl gid ctxn p.bank x) t

/-- The places of a slice's loads, once its timetabled ranges have been walked (R96, R199). -/
def feedPlaces (s : State) (die : Nat) (sl : Slice) (f : Feed) : Got (List (Load × List (Place × Nat))) :=
  (touchRanges die sl.asid f.touch s).andThen fun _ t => loadPlaces die sl.asid f.loads t

/-- A placed slice is prepared by the dispatch engine of its queue (R199, R337). -/
def asLoad (s : State) (gid : Nat) : State := { s with
  asker := .load gid,
  die := queueDie (s.gang gid).slice.queue }

/-- What a placed slice's preparation comes to: an absent page is asked for, a page that holds its accesses is waited at, and
then all of it is done at once, in an open interval (R96, R190, R191, R199, R200, R325, R368). -/
def feedNow (s : State) (gid : Nat) : State :=
  let sl := (s.gang gid).slice
  match sl.feed with
  | none => s
  | some f =>
    let die := queueDie sl.queue
    let u := s.asLoad gid
    match u.ctlGaps f.runs with
    | some v => u.askPage 0 v
    | none => match u.feedPlaces die sl f with
      | .fault _ va => u.askPage sl.asid va
      | .hold q => u.joinQueue q
      | .ok l t =>
        let t := t.ctlUse f.runs
        let t := f.zero.foldl (fun t (a, n) => t.wr a (List.replicate n 0) false) t
        (l.foldl loadOne t).modGang gid fun g => { g with slice := { g.slice with feed := none } }

/-- Whether a placed slice's preparation goes on now: its time has come, an open interval carries it, and it would not wait
for what it waits for already (R210, R325, R337). -/
def feedDue (s : State) (gid : Nat) : Bool :=
  let sl := (s.gang gid).slice
  match sl.feed with
  | none => false
  | some f =>
    let die := queueDie sl.queue
    let u := s.asLoad gid
    s.openNow && sl.prepared ≤ s.beat && !(u.ctlHeld f.runs) && match u.ctlGaps f.runs with
      | some v => !(s.pageReqs.contains (0, v))
      | none => match u.feedPlaces die sl f with
        | .fault _ va => !(s.pageReqs.contains (sl.asid, va))
        | .hold q => match q with
          | some (b, p) => !((s.moves.any fun m => m.oldBase = b && m.oldPlace = p && m.committing && m.queue.contains (.load gid)) ||
              s.forwards.any fun w => w.oldBase = b && w.oldPlace = p && !w.gone && w.queue.contains (.load gid))
          | none => false
        | .ok _ _ => true

/-! ### The decision (R335, R336) -/

/-- Records held for dispatched slices and graphs of a queue (R335). -/
def recordsHeld (s : State) (n : Nat) : Nat :=
  (s.allGangs.filter fun g => g.slice.queue = n && g.slice.graph.isNone).length +
  (s.graphs.filter fun g => g.queue = n && g.parent.isNone).length + (s.deferred.filter fun d => d.queue = n).length

/-- Room that dispatched slices hold in the pennant table (R339). -/
def pennantsHeld (s : State) : Nat := (s.allGangs.map fun g => g.slice.pout.length).sum

/-- Whether the pennant table has room for a candidate's NPOUT, once those it consumes, each once, are gone (R339). -/
def pennantRoom (s : State) (c : Cand) : Bool :=
  s.pennants.length + s.pennantsHeld + c.f 0x36 1 ≤ 8192 + c.pins.dedup.length

/-- Whether a candidate is ready, given its chain (R335, R339, R340, R422). -/
def ready (s : State) (c : Cand) (chain : List Nat) : Bool :=
  let asid := s.asidOf chain
  let freed := match c.pred with
    | some id => c.released || match s.gangOf id with
      | some gid => s.allTrig gid
      | none => false
    | none => true
  c.todo.isNone && freed && c.parked.isEmpty && (c.pins.all fun w => s.pennants.contains (pennantKey asid w)) && s.chainMeets chain c.grants &&
  (c.graph.isSome || (s.qField c.queue 0x24 4 + s.recordsHeld c.queue + 2 ^ 32 - s.qField c.queue 0x28 4) % 2 ^ 32 < 2 ^ s.qField c.queue 0x19 1) &&
  !(s.restarting (queueDie c.queue))

/-- Judge a candidate's readiness at this decision beat: one whose RCB is malformed is refused, one whose RCB's page is absent
parks. One whose descriptor has not been read is not ready. A die that restarts judges nothing, and its ready beats stay (R325,
R327, R335, R345). -/
def judgeReady (s : State) (c : Cand) : State :=
  let s := s.onDie (queueDie c.queue)
  if s.restarting (queueDie c.queue) || c.todo.isSome || s.ctlHeld (s.queueRuns c.queue) then s
  else match s.ctlGaps (s.queueRuns c.queue) with
  | some v => if c.parked.isEmpty then s.parkCand c 0 v else s
  | none => match s.chainOf (s.qField c.queue 0x10 8) with
    | none => s.refuse c (s.chainRefusal (s.qField c.queue 0x10 8)) 0
    | some l =>
      let b := if s.ready c l then some (c.ready.getD s.beat) else none
      s.modCand c.id fun k => { k with ready := b }

/-- The order in which ready slices are taken (R336). -/
def takenBefore (s : State) (a b : Cand) : Bool :=
  let prio (c : Cand) : Nat :=
    let t := s.onDie (queueDie c.queue)
    t.prioOf ((t.chainOf (t.qField c.queue 0x10 8)).getD [])
  if a.deadline ≠ b.deadline then a.deadline < b.deadline
  else if prio a ≠ prio b then prio b < prio a
  else if a.queue ≠ b.queue then a.queue < b.queue
  else if a.order ≠ b.order then a.order < b.order else a.id ≤ b.id

/-- A candidate that fits nowhere stays ready, and reserves when it has waited longer than SLACK (R336). -/
def waitOrReserve (s : State) (c : Cand) : State :=
  if c.resv.isSome || s.beat - c.ready.getD s.beat ≤ c.f 0x30 4 then s
  else
    let r := s.freeToReserve c
    s.modCand c.id fun k => { k with resv := r }

/-- Start a graph (R341). -/
def startGraph (s : State) (c : Cand) (chain : List Nat) : State :=
  let g : GraphRun := {
    id := c.id, queue := c.queue, order := c.order, tag := c.tag, deadline := c.deadline, base := c.f 0 8, parent := c.graph, chain := chain }
  let t := s.dropCand c.id
  { t with graphs := t.graphs ++ [g] }

/-- A pennant-only descriptor completes at its decision beat; its SUCC is ignored (R332, log entry 67). -/
def pennantOnly (s : State) (c : Cand) (chain : List Nat) : State :=
  let keys := c.pouts.map (pennantKey (s.asidOf chain))
  let dup := keys.any (fun k => s.pennants.contains k) || keys.dedup.length != keys.length
  let t := s.dropCand c.id
  let t := { t with pennants := keys.foldl (fun l k => if l.contains k then l else l ++ [k]) t.pennants }
  t.report c.graph ⟨c.queue, c.tag, s.beat, 0, (if c.deadline < s.beat then 1 else 0) + 4 * dup.toNat, 0, 0⟩

/-- Steps 8 and 9 of R334 at the position found, and placing: a candidate parks on an absent page of its code or of its
records' bytes, or on one that a record must write; nothing is loaded yet (R96, R325). -/
def tryAt (s : State) (c : Cand) (pl : Plan) (chain : List Nat) (p : Position) : State :=
  let recs := s.datRecs pl.img (s.ctlNat (pl.img + 8) 8) pl.ent.ndat pl.ent.dat
  if s.partClash c p then s.refuse c 2 0
  else if s.retiredAt c p then s.refuse c 8 0
  else if !(s.pennantRoom c) then s.waitOrReserve c
  else
    let ms := (tilesAt p).map fun q => 2 * q + p.bank
    let loads := s.codeLoads pl ms ++ recLoads pl ms recs
    match s.ctlGaps (loads.map fun x => (x.src, x.n)) with
    | some v => s.parkCand c 0 v
    | none => match loadPlaces (queueDie c.queue) pl.asid loads s with
      | .fault _ va => s.parkCand c pl.asid va
      | _ => s.placeAt c pl chain p recs

/-- What becomes of a candidate that is not to be placed now. -/
def turnAway {α : Type} (s : State) (c : Cand) : Judged α → State
  | .refuse st d => s.refuse c st d
  | .park a v => s.parkCand c a v
  | .hold => s.waitOrReserve c
  | .go _ => s

/-- What a decision has read is cached in the next open interval, where it is not yet (R199, R210). -/
def dueTouch (s : State) (l : List (Nat × Nat)) : State :=
  let l := (pagesOf l).filter fun v => (s.tlbFind s.die 0 v).isNone && (s.ctlPlace v).isSome
  if l.isEmpty then s else { s with dues := s.dues ++ [(s.die, .touch (l.map fun v => (v, 1)))] }

/-- Take one ready candidate; a slice waits while a thermal trip is in force (R334, R336, R401). -/
def tryPlace (s : State) (id : Nat) : State :=
  match s.cands.find? fun k => k.id = id with
  | none => s
  | some c =>
    let s := s.onDie (queueDie c.queue)
    match s.chainOf (s.qField c.queue 0x10 8) with
    | none => s.refuse c (s.chainRefusal (s.qField c.queue 0x10 8)) 0
    | some chain =>
      if !(s.ready c chain) then s.modCand id fun k => { k with ready := none }
      else if (c.f 0x1C 4).testBit 0 then s.startGraph c chain
      else if c.f 0 8 = 0 ∧ c.f 0x35 1 = 0 then (if s.pennantRoom c then s.pennantOnly c chain else s)
      else if s.trip then s.waitOrReserve c
      else
        let s := s.dueTouch (s.judgeRuns c)
        match s.judge1to2 c with
        | .go vs => match s.judge3to7 c (s.asidOf chain) vs with
          | .go pl => match s.findPosition c pl (s.cbankOf chain) with
            | some p => s.tryAt c pl chain p
            | none => s.waitOrReserve c
          | j => match s.roughPosition c (s.cbankOf chain) with
            | some p => if s.partClash c p then s.refuse c 2 0 else s.turnAway c j
            | none => s.turnAway c j
        | j => s.turnAway c j

/-- Whether a joint decision is due: at multiples of 64, dispatch running (R335, R426). -/
def decideDue (s : State) : Bool := s.beat % 64 = 0 && s.hstat.getLsbD 0 && s.decided ≤ s.beat

end State

/-- The state as a decision sees it: control structures as the last open interval left them (R325, log entry 55). -/
def State.decisionView (s : State) : State := { s with mem := if s.openNow then s.mem else s.seen }

/-- The joint decision: readiness is judged, then each ready slice in order is refused, parked, placed at the first position
that fits, or waits. It writes no memory (R335, R336). -/
def execDispatchDecision (s : State) : Res1 :=
  .next (if !s.decideDue then s
    else
      let t := s.cands.foldl State.judgeReady s.decisionView
      let l := (t.cands.filter fun c => c.ready.isSome && !(s.restarting (State.queueDie c.queue))).mergeSort t.takenBefore
      let t := l.foldl (fun t c => t.tryPlace c.id) t
      { t with
        mem := s.mem,
        decided := s.beat + 1 })

namespace State

/-- Whether a placed slice is dispatched at this beat: all is loaded, and no RCB of its chain is held for divergence (R206, R260,
R337, R345, R401, R422). -/
def dispatchDue (s : State) (gid : Nat) : Bool :=
  let g := s.gang gid
  !g.members.isEmpty && g.slice.b0.isNone && g.slice.feed.isNone && !s.trip && !(s.restarting (queueDie g.slice.queue)) &&
  (!(s.nextHbm gid) || s.beat % s.geom.frameF = 0) && !((s.decisionView.onDie (queueDie g.slice.queue)).chainHeld g.slice.chain)

end State

/-- Beat B0: every member of a placed slice issues its entry bundle at HCYC 0, and its successor joins the candidate set
(R26, R138, R260, R335, R337). Operand: the gang. -/
def execSliceDispatch (s : State) : Res1 :=
  let gid := s.arg 0
  .next (if !(s.dispatchDue gid) then s
    else
      let t := (s.modGang gid fun g => { g with slice := { g.slice with b0 := some s.beat } }).enterHoist gid
      let sl := (t.gang gid).slice
      if sl.succAt = 0 then t else t.enter sl.queue sl.order sl.succAt (some sl.id) none)

end Sys2Proof.Machine
end

