-- ==== Sys2Proof/Machine/Graph.lean ====
section
/-! DEFINITION. The nodes of dispatch-engine graphs (spec 15 R341-R343, 21 R427). -/

namespace Sys2Proof.Machine

namespace State

def graphById (s : State) (id : Nat) : Option GraphRun := s.graphs.find? fun g => g.id = id

/-- The dispatch engine of a graph's queue makes its accesses (R199, R341, R368). -/
def asGraph (s : State) (g : GraphRun) : State :=
  { s with
    asker := .graph g.id,
    die := queueDie g.queue }

/-- TYPE of a graph's node. -/
def nodeType (s : State) (g : GraphRun) : Nat := s.nodeField g 0 1

/-- Whether a graph's node is malformed (R341, R342, R427). -/
def nodeBad (s : State) (g : GraphRun) : Bool :=
  let ty := s.nodeType g
  let nfl := s.nodeField g 1 1
  65535 < g.node || ty = 0 || 5 < ty || s.nodeField g 2 2 != 0 || s.nodeField g 0x2E 18 != 0 ||
  (if ty = 5 then 3 < nfl || 2048 ≤ s.nodeField g 0x2C 2 else nfl != 0) || (ty != 1 && s.nodeField g 8 8 % 8 != 0)

/-- Go to a node by its index. -/
def gotoNode (s : State) (g : GraphRun) (n : Nat) : State :=
  let (k, t) := s.free
  let b := s.beat + 1 + Config.delay k
  t.setGraph { g with
    node := n,
    state := .node,
    steps := g.steps + 1,
    wake := b }

/-- Take NEXT; 0xFFFF_FFFF ends the graph with OK (R341, R342). -/
def gotoNext (s : State) (g : GraphRun) : State :=
  let n := s.nodeField g 4 4
  if n = 0xFFFFFFFF then s.endGraph g 0 0 else s.gotoNode g n

/-- Take ALT, an index like any other (R342). -/
def gotoAlt (s : State) (g : GraphRun) : State := s.gotoNode g (s.nodeField g 0x18 4)

/-- A graph's node, as a run of control addresses. -/
def nodeRun (g : GraphRun) : List (Nat × Nat) := [(g.base + 64 * g.node, 64)]

/-- Whether a graph may do something at its node now: its engine is up, HBM carries its accesses, and none to the node is held
(R210, R345, R368). -/
def nodeOpen (s : State) (g : GraphRun) : Bool :=
  g.wake ≤ s.beat && s.openNow && !(s.restarting (queueDie g.queue)) && !((s.asGraph g).ctlHeld (nodeRun g))

/-- Whether a graph's next node may run (R342). -/
def nodeReady (s : State) (g : GraphRun) : Bool := g.state = .node && s.nodeOpen g

/-- Whether the page of a graph's node is absent (R325). -/
def nodeGone (s : State) (g : GraphRun) : Bool := ((s.asGraph g).ctlGaps (nodeRun g)).isSome

/-- Whether a graph stands at a well-formed node of a type, to be run now. -/
def nodeDue (s : State) (id ty : Nat) : Bool :=
  match s.graphById id with
  | some g => s.nodeReady g && g.steps < 2 ^ 24 && !(s.nodeGone g) && !((s.asGraph g).nodeBad g) && (s.asGraph g).nodeType g = ty
  | none => false

/-- Try again later, with a page request for an absent page (R325). -/
def laterNode (s : State) (g : GraphRun) (va : Nat) : State :=
  (s.askPage 0 va).setGraph { g with wake := s.beat + 64 }

/-- Go on with what an access of a graph gave: an absent page is asked for, and at a committing page it waits its turn
(R325, R368). -/
def graphGot {α : Type} (s : State) (g : GraphRun) (x : Got α) (k : α → State → State) : State :=
  match x with
  | .ok v t => k v t
  | .fault _ va => s.laterNode g va
  | .hold q => (s.joinQueue q).setGraph { g with wake := s.beat + 1 }

/-- Read the 8-byte word a node names with an acquire, or try again later (R342). -/
def withWord (s : State) (g : GraphRun) (k : Nat → State → State) : State :=
  s.graphGot g (s.vread s.die 0 (s.nodeField g 8 8) 8) fun w u => k (leNat w.1) u

/-- Run `k` on the graph an event names when it stands at a node of a type, which it has read (R199). -/
def atNode (s : State) (ty : Nat) (k : GraphRun → State → State) : State :=
  if s.nodeDue (s.arg 0) ty then
    match s.graphById (s.arg 0) with
    | some g => k g ((s.asGraph g).ctlUse (nodeRun g))
    | none => s
  else s

/-- MASK AND the word. -/
def masked (s : State) (g : GraphRun) (w : Nat) : Nat := w &&& s.nodeField g 0x10 8

end State

namespace State

/-- Whether the work of a graph's KERNEL node has ended and the graph goes on now (R342). -/
def endedDue (s : State) (g : GraphRun) : Bool :=
  match g.state with
  | .ended _ _ _ => s.nodeOpen g
  | _ => false

/-- A graph goes on after the work of its KERNEL node: on OK to NEXT, once the node's page is present, else it ends with that
status and DETAIL (R325, R342). -/
def afterKernel (s : State) (g : GraphRun) (st cfl detail : Nat) : State :=
  let s := s.asGraph g
  let h := { g with cfl := g.cfl ||| cfl }
  if st ≠ 0 then s.endGraph h st detail
  else match s.ctlGaps (nodeRun g) with
    | some v => s.laterNode g v
    | none =>
      let t := s.ctlUse (nodeRun g)
      let next := t.nodeField g 4 4
      if next = 0xFFFFFFFF then t.endGraph h 0 detail
      else t.setGraph { h with
        node := next,
        state := .node,
        steps := 0 }

end State

/-- KERNEL: submit the node's descriptor and wait for its completion or refusal; then go on (R342). Operand: the graph. -/
def execGraphKernelNode (s : State) : Res1 :=
  .next (match s.graphById (s.arg 0) with
    | none => s
    | some g => match g.state with
      | .ended st cfl detail => if s.endedDue g then s.afterKernel g st cfl detail else s
      | _ => s.atNode 1 fun g t => (t.setGraph { g with state := .kernel }).enter g.queue g.order (t.nodeField g 8 8) none (some g.id))

/-- COND: to NEXT when the test holds, else to ALT (R342). Operand: the graph. -/
def execGraphCondNode (s : State) : Res1 :=
  .next (s.atNode 2 fun g s => s.withWord g fun w t =>
    if t.masked g w != 0 then t.gotoNext g else t.gotoAlt g)

namespace State

/-- Enter a LOOP's body with ITER advanced, or leave with ITER 0 (R342). -/
def loopNode (s : State) (g : GraphRun) (more : Bool) : State :=
  let n := if more then (tget 0 g.iters g.node + 1) % 2 ^ 32 else 0
  let t := s.ctlWrNat (g.base + 64 * g.node + 0x28) 4 n
  let h := { g with iters := tset g.iters g.node n }
  if more then t.gotoAlt h else t.gotoNext h

end State

/-- LOOP: an iteration while ITER is below COUNT and the test, where ADDR gives one, holds (R342). Operand: the graph. -/
def execGraphLoopNode (s : State) : Res1 :=
  .next (s.atNode 3 fun g s =>
    let below := tget 0 g.iters g.node < s.nodeField g 0x1C 4
    if s.nodeField g 8 8 = 0 then s.loopNode g below
    else s.withWord g fun w t => t.loopNode g (t.masked g w != 0 && (t.nodeField g 0x1C 4 = 0 || below)))

/-- WAIT: the first read, at t0 (R342). Operand: the graph. -/
def execGraphWaitNode (s : State) : Res1 :=
  .next (s.atNode 4 fun g s => s.withWord g fun w t =>
    if t.masked g w = t.nodeField g 0x20 8 then t.gotoNext g
    else t.setGraph { g with state := .poll s.beat 1 })

namespace State

/-- Whether a WAIT node reads again now. -/
def pollDue (s : State) (g : GraphRun) : Bool :=
  match g.state with
  | .poll t0 n => t0 + 1024 * n ≤ s.beat && s.nodeOpen g
  | _ => false

end State

namespace State

/-- The `n`-th read again of a WAIT node, once the node's page is present (R325, R342). -/
def pollNode (s : State) (g : GraphRun) (t0 n : Nat) : State :=
  let s := s.asGraph g
  match s.ctlGaps (nodeRun g) with
  | some v => s.laterNode g v
  | none => (s.ctlUse (nodeRun g)).withWord g fun w t =>
      if t.masked g w = t.nodeField g 0x20 8 then t.gotoNext g
      else if t.nodeField g 0x1C 4 != 0 && t.nodeField g 0x1C 4 ≤ n then t.endGraph g 0x0D g.node
      else t.setGraph { g with state := .poll t0 (n + 1) }

end State

/-- WAIT reads again, 1,024 beats after its last read; after COUNT + 1 failed reads the graph ends with WAIT_TIMEOUT
(R342). Operand: the graph. -/
def execGraphWaitPoll (s : State) : Res1 :=
  .next (match s.graphById (s.arg 0) with
    | none => s
    | some g =>
      if !(s.pollDue g) then s
      else match g.state with
        | .poll t0 n => s.pollNode g t0 n
        | _ => s)

/-- SIGNAL: write VALUE with a release, then the interrupt (R342, R427). Operand: the graph. -/
def execGraphSignalNode (s : State) : Res1 :=
  .next (s.atNode 5 fun g s =>
    s.graphGot g (s.vwrite s.die 0 (s.nodeField g 8 8) (State.clean (leBytes 8 (s.nodeField g 0x20 8)))) fun _ u =>
      (if (s.nodeField g 1 1).testBit 1 then u.interrupt (s.nodeField g 0x2C 2) else u).gotoNext g)

namespace State

/-- Whether a graph stands at a node that cannot run: malformed, on an absent page, past the last index, or past the step
limit (R325, R342). -/
def graphInvalid (s : State) (id : Nat) : Bool :=
  match s.graphById id with
  | some g => s.nodeReady g && (2 ^ 24 ≤ g.steps || s.nodeGone g || (s.asGraph g).nodeBad g)
  | none => false

end State

/-- 2^24 node steps without a KERNEL, or a malformed node or index, end the graph with GRAPH_INVALID and the node's index
(R342); a node on an absent page is awaited (R325). Operand: the graph. -/
def execGraphStepLimit (s : State) : Res1 :=
  .next (if s.graphInvalid (s.arg 0) then
      match s.graphById (s.arg 0) with
      | some g =>
        let s := s.asGraph g
        if 2 ^ 24 ≤ g.steps ∨ 65535 < g.node then s.endGraph g 0x0B (g.node % 2 ^ 32)
        else match s.ctlGap (g.base + 64 * g.node) 64 with
          | some v => s.laterNode g v
          | none => s.endGraph g 0x0B g.node
      | none => s
    else s)

end Sys2Proof.Machine
end

