-- ==== Sys2Proof/Machine/Host.lean ====
section
/-! DEFINITION. The host link: BAR4, AtomicOps and BAR0 registers (spec 11 R263-R265, 21 R425-R427, 24 R438). -/

namespace Sys2Proof.Machine

namespace State

/-- Answer a request of the outside. -/
def answer (s : State) (what : Instr) (bs : List Byte) : State := { s with answers := ⟨what, bs⟩ :: s.answers }

/-- An access of the host waits for its turn at a committing page (R368). -/
def hostWaits (s : State) (what : Instr) (q : Option (Nat × Nat)) : State := (s.again what).joinQueue q

/-- Control address of a BAR4 offset (R426). -/
def apertureAt (s : State) (o : Nat) : Nat := s.apbase + o % 2 ^ 36

end State

/-- A host read or write through BAR4 reaches the location that ASID 0 maps; an access to an absent page does nothing and
answers no bytes (R263, R427); die 0's walker serves it (log entry 77). Operands: write, offset, length, bytes. -/
def execHostBar4Access (s : State) : Res1 :=
  let va := s.apertureAt (s.arg 1)
  let s := { s with asker := .host }
  .next (if s.arg 0 = 1 then
      match s.vwrite 0 0 va (State.clean (((s.ev.drop 3).take (s.arg 2)).map (BitVec.ofNat 8))) with
      | .ok _ t => t
      | .fault _ _ => s
      | .hold q => s.hostWaits .hostBar4Access q
    else
      match s.vread 0 0 va (s.arg 2) with
      | .ok (bs, _) t => t.answer .hostBar4Access bs
      | .fault _ _ => s.answer .hostBar4Access []
      | .hold q => s.hostWaits .hostBar4Access q)

/-- A host FetchAdd (0), Swap (1) or CAS (2) through BAR4: at the word's near home on a SYSA page, else a completer abort,
answered by no bytes (R265, R427); die 0's walker serves it (log entry 77). Operands: operation, size, offset, operand, compare. -/
def execHostAtomicop (s : State) : Res1 :=
  let n := s.arg 1
  let va := s.apertureAt (s.arg 2)
  let op := match s.arg 0 with
    | 0 => 0
    | 1 => 2
    | _ => 1
  let s := { s with asker := .host }
  .next (if (n != 4 && n != 8) || 2 < s.arg 0 || va % n != 0 then s.answer .hostAtomicop []
    else match (s.xlate 0 0 va false).andThen fun _ u => if u.sysaOf 0 0 va then u.xlate 0 0 va true else .fault 0 va with
      | .hold q => s.hostWaits .hostAtomicop q
      | .fault _ _ => s.answer .hostAtomicop []
      | .ok q t =>
        if hostBase ≤ q.flat then s.answer .hostAtomicop []
        else
          let p := q.near
          let ((bs, pm), o, t) := t.homeTake p n
          if pm then t.answer .hostAtomicop bs
          else
            let v := leNat bs
            let u := match State.atomNew op (8 * n) v (s.arg 3 % 2 ^ (8 * n)) (s.arg 4 % 2 ^ (8 * n)) with
              | some w => (t.touchMoves p).homePut p o (leBytes n w)
              | none => t
            u.answer .hostAtomicop (leBytes n v))

namespace State

/-- Write half of an MSI-X entry: bits [32:0] of the upper half are its data and its mask, and an interrupt that was pending
behind the mask is sent when it goes (R425, R426, log entry 56). -/
def writeMsix (s : State) (o v : Nat) : State :=
  let e := (o - 0x100000) / 16
  let old := tget msixReset s.msix e
  let lo : BitVec 64 := if o % 16 = 0 then BitVec.ofNat 64 v else old.extractLsb' 0 64
  let hi : BitVec 64 := if o % 16 = 0 then old.extractLsb' 64 64 else BitVec.ofNat 64 (v % 2 ^ 33)
  let t := { s with msix := tset s.msix e (hi ++ lo) }
  if !(hi.getLsbD 32) && s.pendingIrqs.contains e then { t with
    pendingIrqs := t.pendingIrqs.erase e,
    irqs := e :: t.irqs }
  else t

/-- Read half of an MSI-X entry, or 64 bits of the pending-bit array (R426, log entry 56). -/
def readMsix (s : State) (o : Nat) : Nat :=
  if o < 0x110000 then ((tget msixReset s.msix ((o - 0x100000) / 16)).extractLsb' (64 * (o / 8 % 2)) 64).toNat
  else s.pendingIrqs.foldl (fun n v => if v / 64 = (o - 0x110000) / 8 then n ||| 2 ^ (v % 64) else n) 0

/-- Whether a BAR0 offset is in the MSI-X table or the pending-bit array (R425, R426). -/
def inMsix (o : Nat) : Bool := 0x100000 ≤ o && o < 0x100000 + 16 * 2048
def inPba (o : Nat) : Bool := 0x110000 ≤ o && o < 0x110000 + 2048 / 8

/-- Write HOSTWIN, APBASE or the MSI-X table; reserved bits are ignored, and so is a write to a read-only register (R8,
R426). -/
def writeReg (s : State) (o v : Nat) : State :=
  if inMsix o && o % 8 = 0 then s.writeMsix o v
  else if o = 0x010 then { s with hostwin := v % 2 ^ 64 / 65536 * 65536 }
  else if o = 0x018 then { s with apbase := v % 2 ^ 64 / 2 ^ 36 * 2 ^ 36 }
  else s

/-- PWRLIM: a limit outside 600-2,400 W leaves the field (R9, R438). -/
def writePwrlim (s : State) (v : Nat) : State :=
  if 600 ≤ v % 65536 ∧ v % 65536 ≤ 2400 then { s with pwrlim := BitVec.ofNat 32 (v % 65536) } else s

/-- WDOG: a period below 256 leaves the field (R9, R438). -/
def writeWdog (s : State) (v : Nat) : State :=
  if 256 ≤ v % 2 ^ 20 then { s with wdog := BitVec.ofNat 32 (v % 2 ^ 20) } else s

/-- CALPER: an interval below 60 s leaves the field (R9, R438). -/
def writeCalper (s : State) (v : Nat) : State :=
  if 60 ≤ v % 2 ^ 32 then { s with calper := BitVec.ofNat 32 v } else s

/-- THERM as it reads (R438). -/
def therm (s : State) : Nat :=
  s.trip.toNat + 2 * (s.pairs.any fun (_, p) => p.pstate = 2).toNat + 256 * s.tmax.toNat + 65536 * s.ttrip.toNat

/-- GEOCTL as it reads: DRAIN until the change is installed, then REGEN (R438). -/
def geoctl (s : State) : Nat :=
  s.geom.hgen.toNat + (match s.geo with
    | .idle => 0
    | .drain _ | .install _ => 2 ^ 16
    | .regen => 2 ^ 17)

/-- A BAR0 register as it reads (R426, R438). -/
def readReg (s : State) (o : Nat) : Nat :=
  match o with
  | 0x000 => 0x5358000800000001
  | 0x008 => s.fnum.toNat
  | 0x010 => s.hostwin
  | 0x018 => s.apbase
  | 0x020 => s.qtab
  | 0x028 => s.fdtab
  | 0x030 => s.grptab
  | 0x038 => s.hstat.toNat
  | 0x040 => s.pwrlim.toNat
  | 0x048 => s.wdog.toNat
  | 0x050 => s.therm
  | 0x058 => s.calper.toNat
  | 0x060 => s.geoctl
  | _ => if (inMsix o || inPba o) && o % 8 = 0 then s.readMsix o else 0

end State

/-- A host write to a BAR0 register with no behaviour of its own, or with a third operand of 1 a read of any (R426).
Operands: offset, value, read. -/
def execRegisterWrite (s : State) : Res1 :=
  .next (if s.arg 2 = 1 then s.answer .registerWrite (leBytes 8 (s.readReg (s.arg 0))) else s.writeReg (s.arg 0) (s.arg 1))

def execPwrlimWrite (s : State) : Res1 := .next (s.writePwrlim (s.arg 0))

/-- The period applies to pre-emption requests made from now on (R438). -/
def execWdogWrite (s : State) : Res1 := .next (s.writeWdog (s.arg 0))

def execCalperWrite (s : State) : Res1 := .next (s.writeCalper (s.arg 0))

end Sys2Proof.Machine
end

