-- ==== Sys2Proof/Machine/Calib.lean ====
section
/-! DEFINITION. The calibration slices that firmware submits to each die: program, image, descriptor, RCB and queue (spec 04
R92-R96, 13 R293, 15 R326-R332, 24 R441). The spec says what they run; their shapes and layout are the model's (log entry 6). -/

namespace Sys2Proof.Machine

/-! ### The program -/

/-- The bytes of a bundle of one instruction (R71, R72). -/
def bundleOf (i : Instr) : List Byte :=
  match encode i with
  | none => []
  | some (c, w, x) =>
    let slot := slotFor c (w.extractLsb' 25 7).toNat
    BitVec.ofNat 8 (2 ^ slot + 64 * x.isSome.toNat) :: leBytes 4 w.toNat ++ match x with
      | some v => leBytes 4 v.toNat
      | none => []

/-- Bundles one after another, none across a fetch line (R73, R75). -/
def layBundles (l : List (List Byte)) : List Byte :=
  l.foldl (fun code b => code ++ (if 64 < code.length % 64 + b.length then List.replicate (64 - code.length % 64) 0 else []) ++ b) []

/-- `xsym` and `xcal` of one pair, by the command block at g1; when both are done its records are read, and g1 goes to the next
block. Operands: how many pairs come before it, and its number. -/
def calPair (n p : Nat) : List Instr :=
  [.xsym 0 0 1 1 0, .xcal 0 1 1 1 0, .waitk 0 0 (BitVec.ofNat 9 (2 * n + 2))] ++
  (List.range 6).map (fun sel => .xstat 0 (BitVec.ofNat 6 (2 + sel)) (BitVec.ofNat 1 (p / 8)) (BitVec.ofNat 3 sel) (BitVec.ofNat 3 p)) ++
  [.addi 0 1 1 (.short 64)]

/-- The program of a calibration slice for a list of pairs: one after another on each tile (R441). -/
def calProgram (ps : List Nat) : List Byte :=
  layBundles ((((List.range ps.length).zip ps).flatMap (fun (n, p) => calPair n p) ++ [Instr.rdvfin 0]).map bundleOf)

/-! ### The image -/

/-- The 64-byte command blocks, which name the pairs (R316). -/
def calBlocks (ps : List Nat) : List Byte := ps.flatMap fun p => leBytes 8 p ++ List.replicate 56 0

/-- A calibration slice: a rectangle of tiles of one die that have the same live pairs, and those pairs. -/
structure CalSlice where
  y : Nat
  x : Nat
  rows : Nat
  cols : Nat
  pairs : List Nat
  deriving DecidableEq, Repr

/-- GANG of its rows and columns, on one die (R332). -/
def CalSlice.gang (k : CalSlice) : Nat := k.rows - 1 + 16 * (k.cols - 1)

/-- Its POSNs, in position order (R94). -/
def CalSlice.posns (k : CalSlice) : List Nat := (List.range k.rows).flatMap fun y => (List.range k.cols).map fun x => x + 16 * y

/-- The image: header, variant table of one `any` variant, frame list, position table, one data record where there are pairs, one
frame of code (R92-R96). -/
def calImage (k : CalSlice) : List Byte :=
  let code := calProgram k.pairs
  let data := calBlocks k.pairs
  let n := k.rows * k.cols
  let frt := 144
  let pst := frt + 16 * n
  let dat := pst + 8 * n
  let body := dat + 16 + data.length
  leBytes 4 0x31494251 ++ leBytes 2 1 ++ leBytes 2 0 ++ leBytes 8 (body + 4096) ++ leBytes 4 k.gang ++ leBytes 4 0 ++ leBytes 8 64 ++
    List.replicate 32 0 ++
  leBytes 4 0x54564251 ++ leBytes 2 1 ++ List.replicate 10 0 ++
  leBytes 8 0 ++ [1, 1, 0, 0] ++ leBytes 2 n ++ leBytes 2 0 ++ leBytes 4 (min 1 k.pairs.length) ++ leBytes 4 0 ++
    leBytes 8 frt ++ leBytes 8 0 ++ leBytes 8 pst ++ leBytes 8 0 ++ leBytes 8 dat ++
  (List.range n).flatMap (fun _ => leBytes 8 0 ++ leBytes 8 body) ++
  k.posns.flatMap (fun p => leBytes 2 0 ++ leBytes 2 p ++ leBytes 4 0) ++
  [0, 0] ++ leBytes 2 0xFFFF ++ leBytes 4 data.length ++ leBytes 8 0x8000 ++ data ++
  code ++ List.replicate (4096 - code.length) 0

/-! ### Its place in control space -/

/-- A table address the firmware chooses: 256-aligned, never 0 (R426, log entry 6). -/
def State.tableAt (n : Nat) : Nat := 256 * (Config.table n % 2 ^ 40 + 1)

/-- The firmware's own queue of a die (R329, R441). -/
def calQueueOf (d : Nat) : Nat := 1024 * d + Config.calQueue d % 1024

/-- Where its ring of 256 entries, its completion ring of 256 records, its RCB and the images of its slices lie. -/
def calRing (d : Nat) : Nat := State.tableAt 5 + 2 ^ 23 * d
def calCring (d : Nat) : Nat := calRing d + 0x10000
def calRcb (d : Nat) : Nat := calRing d + 0x12000
def calImageAt (d n : Nat) : Nat := calRing d + 0x20000 + 16384 * n

/-- The queue's descriptor, resident and empty (R329). -/
def calQueueBytes (d : Nat) : List Byte :=
  leBytes 8 (calRing d) ++ leBytes 8 (calCring d) ++ leBytes 8 (calRcb d) ++ [8, 8, 1, 0] ++ List.replicate 36 0

/-- Its RCB: a root that overrides every field (R326). -/
def calRcbBytes : List Byte :=
  leBytes 8 0 ++ leBytes 4 255 ++ [0, 0, 2, 1] ++ leBytes 2 0xFFFF ++ leBytes 2 0xFFFF ++ leBytes 2 16384 ++ leBytes 2 0 ++
  leBytes 8 (2 ^ 64 - 1) ++ List.replicate 32 0

/-- XGRANT of a list of pairs, with updates (R272). -/
def grantOf (ps : List Nat) : Nat := ps.foldl (fun w p => w ||| 3 * 2 ^ (2 * p)) 0

/-- The descriptor of the `n`-th slice of a die: g1 is the address of the first command block (R332). -/
def calDesc (d n : Nat) (k : CalSlice) : List Byte :=
  leBytes 8 (calImageAt d n) ++ leBytes 8 0 ++ leBytes 4 k.gang ++ leBytes 4 0x8800 ++ leBytes 4 (grantOf k.pairs) ++ leBytes 4 0 ++
  leBytes 8 (2 ^ 64 - 1) ++ leBytes 8 0 ++ List.replicate 80 0 ++ leBytes 8 0x8000 ++ List.replicate 120 0

namespace State

/-- Whether dispatch may place a slice on a tile at all (R213, R336). -/
def calTile (s : State) (t : Nat) : Bool := s.geom.tiles.getLsbD t && !(s.tilesOut.contains t)

/-- The pairs of a tile that a slice can be granted (R281, R292). -/
def calPairs (s : State) (t : Nat) : List Nat :=
  (List.range 16).filter fun p => s.geom.pairs.getLsbD (16 * t + p) && !(s.suspects.contains (16 * t + p))

/-- How many of some tiles, from the first on, can be calibrated together: live, with the same pairs. -/
def calRun (s : State) (ps : List Nat) (ts : List Nat) : Nat := (ts.takeWhile fun t => s.calTile t && s.calPairs t = ps).length

/-- The slices that measure every live pair of a die's tiles from number `n` on: rows of tiles with the same live pairs, whole rows
together, in the order in which R336 finds positions for them on an idle die. -/
def calFrom (s : State) (d : Nat) : Nat → Nat → List CalSlice
  | 0, _ => []
  | f + 1, n =>
    if 256 ≤ n then []
    else if !(s.calTile (256 * d + n)) then s.calFrom d f (n + 1)
    else
      let ps := s.calPairs (256 * d + n)
      let m := s.calRun ps ((List.range (256 - n)).map fun i => 256 * d + n + i)
      if n % 16 = 0 ∧ 16 ≤ m then ⟨n / 16, 0, m / 16, 16, ps⟩ :: s.calFrom d f (n + m / 16 * 16)
      else
        let w := min m (16 - n % 16)
        ⟨n / 16, n % 16, 1, w, ps⟩ :: s.calFrom d f (n + w)

/-- The calibration slices of a die (R292, R441). -/
def calSlices (s : State) (d : Nat) : List CalSlice := s.calFrom d 256 0

/-- What submitting a die's calibration slices reads and writes. -/
def calRuns (s : State) (d : Nat) : List (Nat × Nat) :=
  [(s.queueAt (calQueueOf d), 64), (calRing d, 0x12040), (calImageAt d 0, 16384 * (s.calSlices d).length)]

/-- Firmware sets up its queue of a die where it has not yet, and consumes the queue's completion records (R329, R441). -/
def calQueueReady (s : State) (d : Nat) : State :=
  let n := calQueueOf d
  let t := if s.qField n 0x10 8 = calRcb d then s else (s.ctlWr (s.queueAt n) (calQueueBytes d)).ctlWr (calRcb d) calRcbBytes
  t.setQ n 0x28 4 (t.qField n 0x24 4)

/-- Write the image and the descriptor of the `n`-th slice of a die, into the ring entry of a count. -/
def calWrite (d tail : Nat) (s : State) (x : Nat × CalSlice) : State :=
  (s.ctlWr (calImageAt d x.1) (calImage x.2)).ctlWr (calRing d + 256 * ((tail + x.1) % 256)) (calDesc d x.1 x.2)

/-- Firmware writes the images and the descriptors of a die's calibration slices and rings the doorbell of its own queue, once
those it submitted before have all completed (R330, R343, R441). -/
def submitOn (s : State) (d : Nat) : State :=
  let n := calQueueOf d
  let l := s.calSlices d
  let t := (s.ctlUse (s.calRuns d)).calQueueReady d
  let tail := t.qField n 0x1C 4
  if t.qField n 0x24 4 != tail then t
  else (((List.range l.length).zip l).foldl (calWrite d tail) t).doorbell n ((tail + l.length) % 2 ^ 32)

end State

end Sys2Proof.Machine
end

