-- ==== Sys2Proof/Machine/Mgmt.lean ====
section
/-! DEFINITION. Platform and management: thermal trips and holds, retirement, HBM changes, calibration, boot, attestation,
the side-band port (spec 09 R212-R213, 13 R289-R300, 19 R401, 24 R436-R443). -/

namespace Sys2Proof.Machine

/-! ### Heat (R300, R401, R438) -/

namespace State

/-- Calibration slices are to be submitted to each die (R441). -/
def submitCalibration (s : State) : State := { s with dues := s.dues ++ (List.range 4).map fun d => (d, .calibrate d) }

/-- A thermal trip asks every dispatched gang to freeze at its next safe point (R401). -/
def tripGangs (s : State) : State :=
  (s.gangs.filter fun (_, g) => g.slice.b0.isSome && g.fz.isNone).foldl (fun t (i, _) =>
    t.modGang i fun g => { g with hot := some (s.beat + g.gather) }) s

/-- When a trip clears, gangs it froze restart under R391, and so do those that it kept from restarting (R401, R438). -/
def untripGangs (s : State) : State :=
  s.gangs.foldl (fun t (i, g) =>
    let t := t.modGang i fun g => { g with hot := none }
    match g.fz with
    | some f => if f.why = .thermal ∨ f.restart.isSome then t.setRestart i else t
    | none => t) s

/-- TMAX takes a value: at TTRIP TRIP is set and every gang is to freeze; 10 degrees below it TRIP clears, and a calibration
slice is submitted to each die (R401, R438, R441). -/
def heat (s : State) (v : Nat) : State :=
  let t := { s with tmax := BitVec.ofNat 8 v }
  if !s.trip && s.ttrip.toNat ≤ v % 256 then { t with trip := true }.tripGangs
  else if s.trip && v % 256 + 10 ≤ s.ttrip.toNat then { t with trip := false }.untripGangs.submitCalibration
  else t

end State

/-- The hottest die sensor is read, at a temperature that may trip the module (R401, R438). Operand: the temperature. -/
def execThermalTrip (s : State) : Res1 := .next (s.heat (s.arg 0))

/-- The hottest die sensor is read, at a temperature that may clear the trip (R401, R438, R441). Operand: the temperature. -/
def execThermalTripClear (s : State) : Res1 := .next (s.heat (s.arg 0))

namespace State

/-- Whether a gang is frozen, and was at a safe point when it froze (R297, R300). -/
def frozenSafe (s : State) (gid : Nat) : Bool :=
  match (s.gang gid).fz with
  | some f => f.beat ≤ s.beat && (s.gang gid).members.all fun c =>
      (s.ctx c).run != .rewinding && !((s.ctx c).ops.any fun (_, o) => o.begun && f.beat ≤ o.last)
  | none => false

/-- Whether a slice that grants a pair could run: dispatched, and its gang not frozen at a safe point (R300). -/
def grantRuns (s : State) (pid : Nat) : Bool :=
  s.ctxs.any fun (c, x) => x.run != .empty && tileOf c = pid / 16 && x.xgrant.getLsbD (2 * (pid % 16)) && !(s.frozenSafe x.gang)

/-- Whether a dispatched or saved slice grants a pair. -/
def granted? (s : State) (pid : Nat) : Bool :=
  (s.ctxs.any fun (c, x) => x.run != .empty && tileOf c = pid / 16 && x.xgrant.getLsbD (2 * (pid % 16))) ||
  s.saved.any fun v => v.frames.any fun f => tileOf f.cid = pid / 16 && f.ctx.xgrant.getLsbD (2 * (pid % 16))

end State

/-- Firmware puts an enabled pair in thermal hold, or with a second operand of 0 takes it out, while no slice that grants
it can run (R281, R300). Operands: pair, hold. -/
def execPairThermalHold (s : State) : Res1 :=
  let pid := s.arg 0
  let p := s.pair pid
  .next (if s.arg 1 = 0 then (if p.pstate = 2 then s.setPair pid { p with pstate := 0 } else s)
    else if p.pstate = 0 ∧ !(s.grantRuns pid) then s.setPair pid { p with pstate := 2 } else s)

/-! ### Retirement (R289, R292) -/

namespace State

/-- Whether the copy in force is slot A: the valid one of higher GENR, A where they are equal (R439). -/
def slotAInForce (s : State) : Bool := s.slotA.valid && (!s.slotB.valid || s.slotB.geom.genr.toNat ≤ s.slotA.geom.genr.toNat)

/-- `n` bytes whose content the spec does not give: free values (log entry 30). -/
def freeBytes (s : State) (n : Nat) : List Byte × State :=
  ((List.range n).map fun i => BitVec.ofNat 8 (Config.answer (s.fresh + i)), { s with fresh := s.fresh + n })

/-- The slot in force. -/
def slot (s : State) : Slot := if s.slotAInForce then s.slotA else s.slotB

/-- The record in force as flash holds it: body and signature (R439). -/
def flashRecord (s : State) : List Byte := s.geom.body ++ s.slot.sig

/-- Firmware keeps a copy of the record in force in control space, where BAR4 reaches it; it is to be written there (R441, log
entry 6). -/
def publish (s : State) : State := if s.dues.contains (0, .publish) then s else { s with dues := s.dues ++ [(0, .publish)] }

/-- What that writes. -/
def publishRuns (s : State) : List (Nat × Nat) := [(tableAt 4, s.flashRecord.length)]

def publishNow (s : State) : State := (s.ctlUse s.publishRuns).ctlWr (tableAt 4) s.flashRecord

/-- Write a changed record, signed, into the other slot; then it is in force (R439). -/
def installGeom (s : State) (g : Geom) : State :=
  let (sig, t) := s.freeBytes 3309
  let sl : Slot := ⟨g, sig, true⟩
  (if s.slotAInForce then { t with geom := g, slotB := sl } else { t with geom := g, slotA := sl }).publish

/-- The three steps of R292. -/
def retirePair (s : State) (pid : Nat) : State :=
  (s.installGeom { s.geom with
    pairs := s.geom.pairs &&& ~~~(1#16384 <<< pid),
    genr := s.geom.genr + 1 }).modPair pid fun p => { p with pstate := 3 }

end State

/-- Whether firmware retires a pair now: it is live, its measurement has left R289, no slice grants it and no command holds
it (R281, R289, R292). -/
def State.retireDue (s : State) (pid : Nat) : Bool :=
  s.geom.pairs.getLsbD pid && !((s.pair pid).ok) && !(s.granted? pid) && (s.pair pid).pstate != 1

/-- Firmware retires a live pair whose measurement has left R289, once no slice grants it (R281, R289, R292). Operand: the
pair. -/
def execPairRetire (s : State) : Res1 :=
  let pid := s.arg 0
  let t := { s with suspects := s.suspects.filter fun x => x != pid }
  .next (if s.retireDue pid then t.retirePair pid else if s.geom.pairs.getLsbD pid && !((s.pair pid).ok) then s else t)

/-! ### HBM changes (R213, R438) -/

namespace State

/-- A record without one unit: kind 0 a stack, 1 a channel, 2 a bank group, each by its bit number (R212). -/
def clearUnit (g : Geom) (kind n : Nat) : Geom :=
  match kind with
  | 0 => { g with live := g.live &&& ~~~(1#12 <<< n) }
  | 1 => { g with chans := g.chans &&& ~~~(1#384 <<< n) }
  | _ => { g with bgrps := g.bgrps &&& ~~~(1#1536 <<< n) }

/-- A record without a list of units, given as kinds and numbers in turn. -/
def clearUnits (g : Geom) : List Nat → Geom
  | kind :: n :: r => clearUnits (clearUnit g kind n) r
  | _ => g

/-- Whether some dispatched slice's timetabled extent selects a draining unit; a saved slice holds its extents (R213,
R396). -/
def drainHeld (s : State) (g : Geom) : Bool :=
  let hit (x : Ctx) : Bool := x.extents.any fun (_, e) => e.valid && e.kind = 1 && selectsLost s.geom g e.place.toNat
  (s.ctxs.any fun (_, x) => x.run != .empty && hit x) || s.saved.any fun v => v.frames.any fun f => hit f.ctx

/-- Install a drained change once no slice holds its units (R213, phase 2). -/
def installDue (s : State) : Bool :=
  match s.geo with
  | .install g => !(s.drainHeld g)
  | _ => false

/-- The record of a drained change: the units cleared, GENR and HGEN incremented. -/
def installHbm (s : State) : State :=
  match s.geo with
  | .install g =>
    let n : Geom := { s.geom with
      live := g.live,
      chans := g.chans,
      bgrps := g.bgrps,
      genr := s.geom.genr + 1,
      hgen := s.geom.hgen + 1 }
    { s.installGeom n with
      prior := s.geom,
      geo := .regen }
  | _ => s

/-- Whether no context is resident on a tile, and none is saved that runs there (R213, R397). -/
def tileFree (s : State) (n : Nat) : Bool :=
  [2 * n, 2 * n + 1].all (fun c => (s.ctx c).run = .empty) && !(s.saved.any fun v => v.frames.any fun f => tileOf f.cid = n)

/-- Tiles that firmware can retire now (R213). -/
def tilesDue (s : State) : List Nat := s.tilesOut.filter s.tileFree

/-- A change that retires tiles alone leaves HGEN (R213). -/
def retireTiles (s : State) : State :=
  if s.tilesDue.isEmpty then s
  else { s with tilesOut := s.tilesOut.filter fun n => !(s.tileFree n) }.installGeom { s.geom with
    tiles := s.tilesDue.foldl (fun b n => b &&& ~~~(1#1024 <<< n)) s.geom.tiles,
    genr := s.geom.genr + 1 }

end State

/-- Firmware begins an HBM change: units drain, and no other change is outstanding (R213, phase 1). Operands: kinds and
numbers of units in turn. -/
def execGeometryDrainBegin (s : State) : Res1 :=
  .next (if s.geo = .idle then { s with geo := .drain (State.clearUnits s.geom s.ev) } else s)

/-- A write of 1 to ACK ends the drain, after which the change is installed as soon as no slice holds its units, or ends the
regeneration; without an outstanding phase it is ignored (R213, R438). Changes that wait for slices to leave are made.
Operand: the value written. -/
def execGeoctlAck (s : State) : Res1 :=
  let t := if (s.arg 0).testBit 18 then match s.geo with
      | .drain g => { s with geo := .install g }
      | .regen => { s with geo := .idle }
      | _ => s
    else s
  .next (if t.installDue then t.installHbm else t).retireTiles

/-! ### Calibration (R441) -/

/-- SECS seconds in beats of the 1.6 GHz clock (R5, R438). -/
def State.calPeriod (s : State) : Nat := s.calper.toNat * 1600000000

/-- Every SECS seconds a calibration slice is submitted to each die (R441). -/
def execCalibrationTimer (s : State) : Res1 :=
  .next (if s.hstat.getLsbD 0 && s.calAt ≤ s.beat then { s with calAt := s.beat + s.calPeriod }.submitCalibration else s)

/-! ### Reset, boot and power (R25, R439, R440, R443) -/

namespace State

/-- The module's state without what a reset keeps: host memory and HBM, array cells, flash, what was sent, and what is still
to come from outside, in beats of the halyard that starts again at 0 (R14). -/
def cleared (s : State) : State := { State.reset with
  fresh := s.fresh,
  mem := s.mem,
  marks := s.marks,
  pairs := (s.pairs.map fun (i, (p : Pair)) =>
    let q : Pair := { gF := p.gF, gS := p.gS }
    (i, q)),
  geom := s.geom,
  prior := s.prior,
  irqs := s.irqs,
  sent := s.sent,
  slotA := s.slotA,
  slotB := s.slotB,
  image := s.image,
  staged := s.staged,
  answers := s.answers,
  inputs := (s.inputs.map fun (x : Input) => { x with beat := x.beat - s.beat }),
  strays := (s.strays.map fun (x : Nat × Stray) => (x.1 - s.beat, x.2)),
  ev := s.ev,
  boot := .over }

/-- Boot step 4: every live pair is measured, and enabled or retired (R271, R289, R440). -/
def calibrateAll (s : State) : State :=
  ((List.range 16384).filter fun n => s.geom.pairs.getLsbD n).foldl (fun t pid =>
    let n := t.fresh
    let p := ((t.pair pid).calibrated n).symmetric 0 (n + 2050)
    let t := { t with fresh := n + 2062 }.setPair pid p
    if p.ok then t else t.retirePair pid) s

/-- Boot stops at a step and reports it through the side-band port: the step's number, 2 for NO_GEOMETRY (R439, R440, log
entry 20). -/
def bootFails (s : State) (n : Nat) : State := { s with stopped := some n }.answer .moduleReset [BitVec.ofNat 8 n]

/-- Resident queues, parked while the module starts up (R331). -/
def residentQs (s : State) : List Nat := if s.qtab = 0 then [] else (List.range 4096).filter fun q => s.qField q 0x1A 1 = 1

/-- Set STATE of a list of queues. -/
def setStates (s : State) (v : Nat) (qs : List Nat) : State := qs.foldl (fun t q => t.setQ q 0x1A 1 v) s

/-- The tables of boot step 5, the resident queues parked (R331, R426, R440). -/
def bootTables (s : State) : State :=
  let t : State := { s with
    qtab := tableAt 0,
    fdtab := tableAt 1,
    grptab := tableAt 2,
    asidDir := tableAt 3 }
  let qs := t.residentQs
  { t.setStates 2 qs with resumeQs := qs }.publish

/-- Boot goes on with a step, after a time the spec does not bound (R440, log entry 10). -/
def bootNext (s : State) (n f : Nat) : State :=
  let (k, t) := s.free
  { t with boot := .step n (s.beat + 1 + Config.delay k) f }

/-- Boot step `n`; the hardware fails at step `f`, at none where that is no step from 3 to 5. A failing step ends boot (R440). -/
def bootStep (s : State) (n f : Nat) : State :=
  let s := { s with boot := .over }
  match n with
  | 1 => if s.image.valid then s.bootNext 2 f else s.bootFails 1
  | 2 => if s.slotA.valid || s.slotB.valid then { s with geom := s.slot.geom, prior := s.slot.geom }.bootNext 3 f else s.bootFails 2
  | 3 => if f = 3 then s.bootFails 3 else s.bootNext 4 f
  | 4 => if f = 4 then s.bootFails 4 else s.calibrateAll.bootNext 5 f
  | _ =>
    let t := s.bootTables
    if f = 5 then t.bootFails 5
    else { t with
      calAt := t.beat + t.calPeriod,
      linkUp := true,
      hstat := t.hstat ||| 1 }

/-- Module reset: the firmware image that was staged is activated if it verifies, and boot begins (R25, R440, R443). -/
def resetModule (s : State) (f : Nat) : State :=
  let t := { s.cleared with power := true }
  let t := match t.staged with
    | some i => if i.valid then { t with image := i, staged := none } else t
    | none => t
  t.bootNext 1 f

/-- Whether boot does a step now; the one that writes the tables waits for an open interval (R210, R440). -/
def bootDue (s : State) : Bool :=
  match s.boot with
  | .step n wake _ => wake ≤ s.beat && (n < 5 || s.openNow)
  | _ => false

/-- It does. -/
def bootGo (s : State) : State :=
  match s.boot with
  | .step n _ f => s.bootStep n f
  | _ => s

end State

/-- Module reset: the link goes down, and boot begins (R25, R440). Operand: the boot step at which the hardware will fail, 0
for none. -/
def execModuleReset (s : State) : Res1 := .next (s.resetModule (s.arg 0))

/-- Module reset over the side-band port: running slices are lost without a record, and the link goes down (R443). Operand: the
boot step at which the hardware will fail, 0 for none. -/
def execResetModule (s : State) : Res1 := .next (s.resetModule (s.arg 0))

/-- The 48 V supply is lost: everything but flash, array cells and the host's memory is gone; a record being written to the
other slot is invalid. Operand: 1 during such a write (R439). -/
def execPowerLoss (s : State) : Res1 :=
  let t := { s.cleared with
    mem := (s.mem.filter fun c => hostBase ≤ c.1),
    marks := (s.marks.filter fun (a, _) => hostBase ≤ a),
    power := false }
  .next (if s.arg 0 = 1 then
      (if s.slotAInForce then { t with slotB := { t.slotB with valid := false } } else { t with slotA := { t.slotA with valid := false } })
    else t)

/-! ### Attestation and side-band management (R442, R443) -/

namespace State

/-- Answer with bytes followed by an ML-DSA-65 signature that covers them and the nonce: its bytes are free (R442). -/
def answerSigned (s : State) (what : Instr) (bs : List Byte) : State :=
  let (sig, t) := s.freeBytes 3309
  t.answer what (bs ++ sig)

/-- The requester's 32-byte nonce. -/
def nonce (s : State) : List Byte := (List.range 32).map fun i => BitVec.ofNat 8 (s.arg i)

/-- A request whose answer is free bytes of a length over the nonce, signed. -/
def answerFree (s : State) (what : Instr) (n : Nat) : State :=
  let (bs, t) := s.freeBytes n
  t.answerSigned what (s.nonce ++ bs)

/-- Measurement blocks 1 to 5 (R442). -/
def measurements (s : State) : List Byte :=
  shake256 (Config.romCode ++ Config.keyDigest) 32 ++ shake256 s.image.bytes 32 ++ shake256 s.flashRecord 32 ++
  leBytes 8 s.geom.signature ++ leBytes 4 s.pwrlim.toNat ++ leBytes 4 s.wdog.toNat ++ leBytes 4 s.calper.toNat

end State

/-- Operand of each SPDM request: the requester's nonce (R442, log entry 30). -/
def execGetVersion (s : State) : Res1 := .next (s.answerFree .getVersion 2)
def execGetCapabilities (s : State) : Res1 := .next (s.answerFree .getCapabilities 4)

/-- The algorithms offered: ML-DSA-65 and SHAKE256 alone, coded 1 and 1; no key exchange and no session (R442). -/
def execNegotiateAlgorithms (s : State) : Res1 := .next (s.answerSigned .negotiateAlgorithms (s.nonce ++ [1, 1, 0, 0]))
def execGetDigests (s : State) : Res1 := .next (s.answerSigned .getDigests (s.nonce ++ shake256 Config.certificate 32))
def execGetCertificate (s : State) : Res1 := .next (s.answerSigned .getCertificate (s.nonce ++ Config.certificate))
def execChallenge (s : State) : Res1 := .next (s.answerFree .challenge 32)
def execGetMeasurements (s : State) : Res1 := .next (s.answerSigned .getMeasurements (s.nonce ++ s.measurements))

/-- PLDM types 0, 2 and 5 (R443). -/
def execPldmBaseDiscovery (s : State) : Res1 := .next (s.answer .pldmBaseDiscovery [0, 2, 5])

/-- Sensor readings: four die temperatures, input voltage and current, twelve HBM temperatures, two free bytes each
(R443). -/
def execPldmPlatformMonitoring (s : State) : Res1 :=
  let (bs, t) := s.freeBytes 36
  .next (t.answer .pldmPlatformMonitoring bs)

/-- A firmware image is staged (R440, R443). Operands: whether its signature verifies, then its bytes. -/
def execPldmFirmwareUpdate (s : State) : Res1 :=
  let i : Image := ⟨(s.ev.drop 1).map (BitVec.ofNat 8), s.arg 0 = 1⟩
  .next ({ s with staged := some i }.answer .pldmFirmwareUpdate [BitVec.ofNat 8 (s.arg 0 % 2)])

/-- Fault records of one domain by sequence, from the firmware's log; HEAD is not changed (R384, R443). Operands: domain,
first sequence number, count. -/
def execReadFaults (s : State) : Res1 :=
  let rs := s.log.reverse.filter fun r => r.fd = s.arg 0 && (r.seq.toNat + 2 ^ 32 - s.arg 1) % 2 ^ 32 < s.arg 2
  .next (s.answer .readFaults (rs.flatMap Record.bytes))

/-- The record in force with its signature, and the units being drained as a record without them; NO_GEOMETRY where no copy
is valid (R213, R439, R443). -/
def execReadGeometry (s : State) : Res1 :=
  let d := match s.geo with
    | .drain g | .install g => g.body
    | _ => []
  .next (s.answer .readGeometry (if s.stopped = some 2 then [2] else s.flashRecord ++ d))

/-- The registers of R438 over the side-band port (R443). Operands: write, offset, value. -/
def execRegAccess (s : State) : Res1 :=
  let o := s.arg 1
  if s.arg 0 = 0 then
    .next (if 0x040 ≤ o then s.answer .regAccess (leBytes 8 (s.readReg o)) else s)
  else if o = 0x060 then execGeoctlAck { s with ev := [s.arg 2] }
  else .next (
    if o = 0x040 then s.writePwrlim (s.arg 2)
    else if o = 0x048 then s.writeWdog (s.arg 2)
    else if o = 0x058 then s.writeCalper (s.arg 2) else s)

end Sys2Proof.Machine
end

