-- ==== Sys2Proof/Machine/Beat.lean ====
section
/-! DEFINITION. The end of a beat: records of the traps of the beat, then the halyard advances (spec 02 R5, R11, 05 R123). -/

namespace Sys2Proof.Machine

namespace State

/-- The members of a gang that issued a `trap` at this beat. -/
def trappers (s : State) (g : Gang) : List Nat :=
  g.members.filter fun c => (tfind s.undo c).isSome && (s.ctx c).regs.tbeat = Word.ofNat s.beat

/-- The command processor's record of a trap: the bundle's address, its code in DETAIL (R123, R385). -/
def trapRecord (s : State) (fd c : Nat) : State :=
  let pc := s.seqAddr (tileOf c) (s.before c).regs.pc.toNat
  s.postRecord fd { s.ctxRecord c 0x20 2 ((s.ctx c).regs.tcode.toNat % 256) 0 with pc := BitVec.ofNat 16 pc }

/-- A trap of this beat freezes its gang from the next beat on; one whose bundle was undone does not (R12, R123). -/
def endTraps (s : State) (gid : Nat) : State :=
  let g := s.gang gid
  match g.fz with
  | some f =>
    if f.why = .trap ∧ f.beat = s.beat + 1 then
      match s.trappers g with
      | [] => s.modGang gid fun g => { g with fz := none }
      | l => l.foldl (fun t c => t.trapRecord g.slice.fd c) s
    else s
  | none => s

end State

/-- The halyard advances by one: what happened at the beat is over (R5, R11). An open interval leaves memory as decisions see it
until the next (R325, log entry 55). -/
def execHalyardBeat (s : State) : Res1 :=
  let t := (tkeys s.gangs).foldl State.endTraps s.fileFaults
  .next { t with
    beat := s.beat + 1,
    seen := if s.openNow then s.mem else s.seen,
    undo := [] }

end Sys2Proof.Machine
end

