-- ==== Sys2Proof/Machine/Dispatch.lean ====
section
/-! DEFINITION. The dispatch: one arm per constructor of the instruction set, each a direct call of its meaning. -/

namespace Sys2Proof.Machine

/-- The meaning of one instruction or event. -/
def exec (i : Instr) (s : State) : Host.Outcome State Fault Refusal :=
  match i with
  | .add g d a b m => Sys2Proof.Machine.execAdd g d a b m s
  | .sub g d a b m => Sys2Proof.Machine.execSub g d a b m s
  | .and g d a b => Sys2Proof.Machine.execAnd g d a b s
  | .or g d a b => Sys2Proof.Machine.execOr g d a b s
  | .xor g d a b => Sys2Proof.Machine.execXor g d a b s
  | .andn g d a b => Sys2Proof.Machine.execAndn g d a b s
  | .shl g d a b => Sys2Proof.Machine.execShl g d a b s
  | .shr g d a b => Sys2Proof.Machine.execShr g d a b s
  | .sar g d a b => Sys2Proof.Machine.execSar g d a b s
  | .rotl g d a b => Sys2Proof.Machine.execRotl g d a b s
  | .min g d a b => Sys2Proof.Machine.execMin g d a b s
  | .max g d a b => Sys2Proof.Machine.execMax g d a b s
  | .minn g d a b => Sys2Proof.Machine.execMinn g d a b s
  | .maxn g d a b => Sys2Proof.Machine.execMaxn g d a b s
  | .sel g d a b p => Sys2Proof.Machine.execSel g d a b p s
  | .popc g d a => Sys2Proof.Machine.execPopc g d a s
  | .addi g d a im => Sys2Proof.Machine.execAddi g d a im s
  | .andi g d a im => Sys2Proof.Machine.execAndi g d a im s
  | .ori g d a im => Sys2Proof.Machine.execOri g d a im s
  | .xori g d a im => Sys2Proof.Machine.execXori g d a im s
  | .shli g d a im => Sys2Proof.Machine.execShli g d a im s
  | .shri g d a im => Sys2Proof.Machine.execShri g d a im s
  | .sari g d a im => Sys2Proof.Machine.execSari g d a im s
  | .rotli g d a im => Sys2Proof.Machine.execRotli g d a im s
  | .movi g d im => Sys2Proof.Machine.execMovi g d im s
  | .movhi g d a x => Sys2Proof.Machine.execMovhi g d a x s
  | .clz g d a => Sys2Proof.Machine.execClz g d a s
  | .ctz g d a => Sys2Proof.Machine.execCtz g d a s
  | .bext g d a b u => Sys2Proof.Machine.execBext g d a b u s
  | .bins g d a b => Sys2Proof.Machine.execBins g d a b s
  | .sxt g d a w => Sys2Proof.Machine.execSxt g d a w s
  | .zxt g d a w => Sys2Proof.Machine.execZxt g d a w s
  | .mul g d a b m => Sys2Proof.Machine.execMul g d a b m s
  | .mulh g d a b => Sys2Proof.Machine.execMulh g d a b s
  | .mulhn g d a b => Sys2Proof.Machine.execMulhn g d a b s
  | .muli g d a im => Sys2Proof.Machine.execMuli g d a im s
  | .div g d a b => Sys2Proof.Machine.execDiv g d a b s
  | .divn g d a b => Sys2Proof.Machine.execDivn g d a b s
  | .rem g d a b => Sys2Proof.Machine.execRem g d a b s
  | .remn g d a b => Sys2Proof.Machine.execRemn g d a b s
  | .cmp g d a b c => Sys2Proof.Machine.execCmp g d a b c s
  | .cmpi g c p a im => Sys2Proof.Machine.execCmpi g c p a im s
  | .pand g d a b => Sys2Proof.Machine.execPand g d a b s
  | .por g d a b => Sys2Proof.Machine.execPor g d a b s
  | .pxor g d a b => Sys2Proof.Machine.execPxor g d a b s
  | .pandn g d a b => Sys2Proof.Machine.execPandn g d a b s
  | .pset g d a => Sys2Proof.Machine.execPset g d a s
  | .psetAll g a => Sys2Proof.Machine.execPsetAll g a s
  | .pget g d a => Sys2Proof.Machine.execPget g d a s
  | .pgetAll g d => Sys2Proof.Machine.execPgetAll g d s
  | .fadd g d a b r => Sys2Proof.Machine.execFadd g d a b r s
  | .fsub g d a b r => Sys2Proof.Machine.execFsub g d a b r s
  | .fmul g d a b r => Sys2Proof.Machine.execFmul g d a b r s
  | .fdiv g d a b r => Sys2Proof.Machine.execFdiv g d a b r s
  | .fsqrt g d a r => Sys2Proof.Machine.execFsqrt g d a r s
  | .fma g d a b r => Sys2Proof.Machine.execFma g d a b r s
  | .fmin g d a b => Sys2Proof.Machine.execFmin g d a b s
  | .fmax g d a b => Sys2Proof.Machine.execFmax g d a b s
  | .fcmp g d a b c => Sys2Proof.Machine.execFcmp g d a b c s
  | .fcvtBf16Fp32 g d a r => Sys2Proof.Machine.execFcvtBf16Fp32 g d a r s
  | .fcvtFp32Bf16 g d a => Sys2Proof.Machine.execFcvtFp32Bf16 g d a s
  | .faddBf16 g d a b r => Sys2Proof.Machine.execFaddBf16 g d a b r s
  | .fsubBf16 g d a b r => Sys2Proof.Machine.execFsubBf16 g d a b r s
  | .fmulBf16 g d a b r => Sys2Proof.Machine.execFmulBf16 g d a b r s
  | .fdivBf16 g d a b r => Sys2Proof.Machine.execFdivBf16 g d a b r s
  | .fsqrtBf16 g d a r => Sys2Proof.Machine.execFsqrtBf16 g d a r s
  | .fmaBf16 g d a b r => Sys2Proof.Machine.execFmaBf16 g d a b r s
  | .fminBf16 g d a b => Sys2Proof.Machine.execFminBf16 g d a b s
  | .fmaxBf16 g d a b => Sys2Proof.Machine.execFmaxBf16 g d a b s
  | .fcmpBf16 g d a b c => Sys2Proof.Machine.execFcmpBf16 g d a b c s
  | .br g im => Sys2Proof.Machine.execBr g im s
  | .brl g d im => Sys2Proof.Machine.execBrl g d im s
  | .brx g a => Sys2Proof.Machine.execBrx g a s
  | .brlx g d a => Sys2Proof.Machine.execBrlx g d a s
  | .loop g r x => Sys2Proof.Machine.execLoop g r x s
  | .loopg g r a im => Sys2Proof.Machine.execLoopg g r a im s
  | .pin g im => Sys2Proof.Machine.execPin g im s
  | .rdv g => Sys2Proof.Machine.execRdv g s
  | .rdvfin g => Sys2Proof.Machine.execRdvfin g s
  | .predwait g => Sys2Proof.Machine.execPredwait g s
  | .swapctx g => Sys2Proof.Machine.execSwapctx g s
  | .mfs g d u => Sys2Proof.Machine.execMfs g d u s
  | .mts g u a => Sys2Proof.Machine.execMts g u a s
  | .mtsi g u im => Sys2Proof.Machine.execMtsi g u im s
  | .ficvt g d a f im r => Sys2Proof.Machine.execFicvt g d a f im r s
  | .ifcvt g d a f im r => Sys2Proof.Machine.execIfcvt g d a f im r s
  | .trig g => Sys2Proof.Machine.execTrig g s
  | .trap g im => Sys2Proof.Machine.execTrap g im s
  | .sburg g a => Sys2Proof.Machine.execSburg g a s
  | .waitk g k im => Sys2Proof.Machine.execWaitk g k im s
  | .waitkReg g k a => Sys2Proof.Machine.execWaitkReg g k a s
  | .draw g d => Sys2Proof.Machine.execDraw g d s
  | .vadd g d a b m => Sys2Proof.Machine.execVadd g d a b m s
  | .vsub g d a b m => Sys2Proof.Machine.execVsub g d a b m s
  | .vmul g d a b m => Sys2Proof.Machine.execVmul g d a b m s
  | .vmulh g d a b m => Sys2Proof.Machine.execVmulh g d a b m s
  | .vmulhn g d a b m => Sys2Proof.Machine.execVmulhn g d a b m s
  | .vmin g d a b m => Sys2Proof.Machine.execVmin g d a b m s
  | .vmax g d a b m => Sys2Proof.Machine.execVmax g d a b m s
  | .vminn g d a b m => Sys2Proof.Machine.execVminn g d a b m s
  | .vmaxn g d a b m => Sys2Proof.Machine.execVmaxn g d a b m s
  | .vand g d a b m => Sys2Proof.Machine.execVand g d a b m s
  | .vor g d a b m => Sys2Proof.Machine.execVor g d a b m s
  | .vxor g d a b m => Sys2Proof.Machine.execVxor g d a b m s
  | .vandn g d a b m => Sys2Proof.Machine.execVandn g d a b m s
  | .vshl g d a b m => Sys2Proof.Machine.execVshl g d a b m s
  | .vshr g d a b m => Sys2Proof.Machine.execVshr g d a b m s
  | .vsar g d a b m => Sys2Proof.Machine.execVsar g d a b m s
  | .vadds g d a b m => Sys2Proof.Machine.execVadds g d a b m s
  | .vaddsn g d a b m => Sys2Proof.Machine.execVaddsn g d a b m s
  | .vsubs g d a b m => Sys2Proof.Machine.execVsubs g d a b m s
  | .vsubsn g d a b m => Sys2Proof.Machine.execVsubsn g d a b m s
  | .vadd16 g d a b m => Sys2Proof.Machine.execVadd16 g d a b m s
  | .vsub16 g d a b m => Sys2Proof.Machine.execVsub16 g d a b m s
  | .vadds16 g d a b m => Sys2Proof.Machine.execVadds16 g d a b m s
  | .vsubs16 g d a b m => Sys2Proof.Machine.execVsubs16 g d a b m s
  | .vmul16 g d a b m => Sys2Proof.Machine.execVmul16 g d a b m s
  | .vabs g d a k m => Sys2Proof.Machine.execVabs g d a k m s
  | .vneg g d a k m => Sys2Proof.Machine.execVneg g d a k m s
  | .vsel g d a b m => Sys2Proof.Machine.execVsel g d a b m s
  | .vmov g d a m => Sys2Proof.Machine.execVmov g d a m s
  | .vmovScalar g d a m => Sys2Proof.Machine.execVmovScalar g d a m s
  | .vmovi g d im m => Sys2Proof.Machine.execVmovi g d im m s
  | .vshli g d a n m => Sys2Proof.Machine.execVshli g d a n m s
  | .vsari g d a n m => Sys2Proof.Machine.execVsari g d a n m s
  | .vcmpeq g d a b m => Sys2Proof.Machine.execVcmpeq g d a b m s
  | .vcmpne g d a b m => Sys2Proof.Machine.execVcmpne g d a b m s
  | .vcmplt g d a b m => Sys2Proof.Machine.execVcmplt g d a b m s
  | .vcmple g d a b m => Sys2Proof.Machine.execVcmple g d a b m s
  | .vcmpltn g d a b m => Sys2Proof.Machine.execVcmpltn g d a b m s
  | .vcmplen g d a b m => Sys2Proof.Machine.execVcmplen g d a b m s
  | .vfcmpeq g f d a b m => Sys2Proof.Machine.execVfcmpeq g f d a b m s
  | .vfcmplt g f d a b m => Sys2Proof.Machine.execVfcmplt g f d a b m s
  | .vfcmple g f d a b m => Sys2Proof.Machine.execVfcmple g f d a b m s
  | .mand g d a b => Sys2Proof.Machine.execMand g d a b s
  | .mor g d a b => Sys2Proof.Machine.execMor g d a b s
  | .mxor g d a b => Sys2Proof.Machine.execMxor g d a b s
  | .mandn g d a b => Sys2Proof.Machine.execMandn g d a b s
  | .mpop g d a m => Sys2Proof.Machine.execMpop g d a m s
  | .mset g d a b => Sys2Proof.Machine.execMset g d a b s
  | .msetRange g d a b => Sys2Proof.Machine.execMsetRange g d a b s
  | .msetPat g d x => Sys2Proof.Machine.execMsetPat g d x s
  | .vburg g a m => Sys2Proof.Machine.execVburg g a m s
  | .vfadd g d a b m => Sys2Proof.Machine.execVfadd g d a b m s
  | .vfsub g d a b m => Sys2Proof.Machine.execVfsub g d a b m s
  | .vfmul g d a b m => Sys2Proof.Machine.execVfmul g d a b m s
  | .vfma g d a b m => Sys2Proof.Machine.execVfma g d a b m s
  | .vfmin g d a b m => Sys2Proof.Machine.execVfmin g d a b m s
  | .vfmax g d a b m => Sys2Proof.Machine.execVfmax g d a b m s
  | .vbadd g d a b m => Sys2Proof.Machine.execVbadd g d a b m s
  | .vbsub g d a b m => Sys2Proof.Machine.execVbsub g d a b m s
  | .vbmul g d a b m => Sys2Proof.Machine.execVbmul g d a b m s
  | .vbfma g d a b m => Sys2Proof.Machine.execVbfma g d a b m s
  | .vbfmaRs g d a b m => Sys2Proof.Machine.execVbfmaRs g d a b m s
  | .vcvt g d a k r m => Sys2Proof.Machine.execVcvt g d a k r m s
  | .vqdxb g d a f z m => Sys2Proof.Machine.execVqdxb g d a f z m s
  | .vdqdxb g d a f h m => Sys2Proof.Machine.execVdqdxb g d a f h m s
  | .vqmx g d a f t m => Sys2Proof.Machine.execVqmx g d a f t m s
  | .vdqmx g d a t f h m => Sys2Proof.Machine.execVdqmx g d a t f h m s
  | .vexp g d a f m => Sys2Proof.Machine.execVexp g d a f m s
  | .vlog g d a f m => Sys2Proof.Machine.execVlog g d a f m s
  | .vrcp g d a f m => Sys2Proof.Machine.execVrcp g d a f m s
  | .vrsqrt g d a f m => Sys2Proof.Machine.execVrsqrt g d a f m s
  | .vsqrt g d a f m => Sys2Proof.Machine.execVsqrt g d a f m s
  | .vtanh g d a f m => Sys2Proof.Machine.execVtanh g d a f m s
  | .vsigm g d a f m => Sys2Proof.Machine.execVsigm g d a f m s
  | .vsin g d a f m => Sys2Proof.Machine.execVsin g d a f m s
  | .vcos g d a f m => Sys2Proof.Machine.execVcos g d a f m s
  | .vfdiv g d a b m => Sys2Proof.Machine.execVfdiv g d a b m s
  | .xpprob g d a b m => Sys2Proof.Machine.execXpprob g d a b m s
  | .vxshl g d a k m => Sys2Proof.Machine.execVxshl g d a k m s
  | .vxshr g d a k m => Sys2Proof.Machine.execVxshr g d a k m s
  | .vxrotl g d a k m => Sys2Proof.Machine.execVxrotl g d a k m s
  | .vxrotr g d a k m => Sys2Proof.Machine.execVxrotr g d a k m s
  | .vxbcast g d a c m => Sys2Proof.Machine.execVxbcast g d a c m s
  | .vredsum g d a f m => Sys2Proof.Machine.execVredsum g d a f m s
  | .vredmin g d a t m => Sys2Proof.Machine.execVredmin g d a t m s
  | .vredmax g d a t m => Sys2Proof.Machine.execVredmax g d a t m s
  | .vredsumi g d a t m => Sys2Proof.Machine.execVredsumi g d a t m s
  | .vscan g d a n u e m => Sys2Proof.Machine.execVscan g d a n u e m s
  | .vperm g d a b m => Sys2Proof.Machine.execVperm g d a b m s
  | .vslideup g d a k m => Sys2Proof.Machine.execVslideup g d a k m s
  | .vslidedn g d a k m => Sys2Proof.Machine.execVslidedn g d a k m s
  | .vcompress g d a m => Sys2Proof.Machine.execVcompress g d a m s
  | .vexpand g d a m => Sys2Proof.Machine.execVexpand g d a m s
  | .visect g d a b m => Sys2Proof.Machine.execVisect g d a b m s
  | .mma g z => Sys2Proof.Machine.execMma g z s
  | .mmaZs g z => Sys2Proof.Machine.execMmaZs g z s
  | .mmad g z => Sys2Proof.Machine.execMmad g z s
  | .mmadZs g z => Sys2Proof.Machine.execMmadZs g z s
  | .mmx g b a z => Sys2Proof.Machine.execMmx g b a z s
  | .mmxZs g b a z => Sys2Proof.Machine.execMmxZs g b a z s
  | .zclr g z => Sys2Proof.Machine.execZclr g z s
  | .zld g a f z => Sys2Proof.Machine.execZld g a f z s
  | .zst g a z => Sys2Proof.Machine.execZst g a z s
  | .zstb g a r z => Sys2Proof.Machine.execZstb g a r z s
  | .qdrop g a im => Sys2Proof.Machine.execQdrop g a im s
  | .xfwd g d a k f p => Sys2Proof.Machine.execXfwd g d a k f p s
  | .xbwd g d a k f p => Sys2Proof.Machine.execXbwd g d a k f p s
  | .xupd g l a k p => Sys2Proof.Machine.execXupd g l a k p s
  | .xxfer g l a k u w p => Sys2Proof.Machine.execXxfer g l a k u w p s
  | .xwin g a k p => Sys2Proof.Machine.execXwin g a k p s
  | .xwinX g w k p x => Sys2Proof.Machine.execXwinX g w k p x s
  | .xgain g a k p => Sys2Proof.Machine.execXgain g a k p s
  | .xseed g a k p => Sys2Proof.Machine.execXseed g a k p s
  | .xrst g l k p => Sys2Proof.Machine.execXrst g l k p s
  | .xstat g d k u p => Sys2Proof.Machine.execXstat g d k u p s
  | .ld g d a b u x => Sys2Proof.Machine.execLd g d a b u x s
  | .st g d a b u x => Sys2Proof.Machine.execSt g d a b u x s
  | .vld g d a b x => Sys2Proof.Machine.execVld g d a b x s
  | .vldBc g d a b x => Sys2Proof.Machine.execVldBc g d a b x s
  | .vst g d a b x => Sys2Proof.Machine.execVst g d a b x s
  | .vldb g d a b t x => Sys2Proof.Machine.execVldb g d a b t x s
  | .vstb g d a b t x => Sys2Proof.Machine.execVstb g d a b t x s
  | .gath g d a b c => Sys2Proof.Machine.execGath g d a b c s
  | .scat g d a b c => Sys2Proof.Machine.execScat g d a b c s
  | .drain g => Sys2Proof.Machine.execDrain g s
  | .msend g d a b => Sys2Proof.Machine.execMsend g d a b s
  | .mcast g d a b => Sys2Proof.Machine.execMcast g d a b s
  | .dsend g d a b => Sys2Proof.Machine.execDsend g d a b s
  | .qld g n q a x => Sys2Proof.Machine.execQld g n q a x s
  | .qldDxb8 g n q a b x => Sys2Proof.Machine.execQldDxb8 g n q a b x s
  | .qldMx8 g n q a b x => Sys2Proof.Machine.execQldMx8 g n q a b x s
  | .hrd g d a b x => Sys2Proof.Machine.execHrd g d a b x s
  | .hrdQ g q a b x => Sys2Proof.Machine.execHrdQ g q a b x s
  | .hrdg g d a b => Sys2Proof.Machine.execHrdg g d a b s
  | .hrdgQ g q a b => Sys2Proof.Machine.execHrdgQ g q a b s
  | .hrdt g q a b => Sys2Proof.Machine.execHrdt g q a b s
  | .hwr g d a b x => Sys2Proof.Machine.execHwr g d a b x s
  | .cfill g f a b => Sys2Proof.Machine.execCfill g f a b s
  | .acpy g t a e k => Sys2Proof.Machine.execAcpy g t a e k s
  | .aatom g t a e k => Sys2Proof.Machine.execAatom g t a e k s
  | .ared g t a e k => Sys2Proof.Machine.execAred g t a e k s
  | .arestripe g t a e k => Sys2Proof.Machine.execArestripe g t a e k s
  | .acoll g t a e k => Sys2Proof.Machine.execAcoll g t a e k s
  | .amcast g t a e k => Sys2Proof.Machine.execAmcast g t a e k s
  | .xckpt g t a e k => Sys2Proof.Machine.execXckpt g t a e k s
  | .xprog g t a e k => Sys2Proof.Machine.execXprog g t a e k s
  | .xcal g t a e k => Sys2Proof.Machine.execXcal g t a e k s
  | .xsym g t a e k => Sys2Proof.Machine.execXsym g t a e k s
  | .barinit g t a e k => Sys2Proof.Machine.execBarinit g t a e k s
  | .bararv g t a e k => Sys2Proof.Machine.execBararv g t a e k s
  | .barwait g t a e k => Sys2Proof.Machine.execBarwait g t a e k s
  | .fence g t u e k => Sys2Proof.Machine.execFence g t u e k s
  | .bundleFetch => Sys2Proof.Machine.execBundleFetch s
  | .emptyBundle => Sys2Proof.Machine.execEmptyBundle s
  | .halyardBeat => Sys2Proof.Machine.execHalyardBeat s
  | .resultLand => Sys2Proof.Machine.execResultLand s
  | .drawCounterAdvance => Sys2Proof.Machine.execDrawCounterAdvance s
  | .storePerform => Sys2Proof.Machine.execStorePerform s
  | .branchTakenRedirect => Sys2Proof.Machine.execBranchTakenRedirect s
  | .loopIterationStep => Sys2Proof.Machine.execLoopIterationStep s
  | .hoistEntry => Sys2Proof.Machine.execHoistEntry s
  | .contextSwitchStart => Sys2Proof.Machine.execContextSwitchStart s
  | .meshFlitDelivery => Sys2Proof.Machine.execMeshFlitDelivery s
  | .crossDieDelivery => Sys2Proof.Machine.execCrossDieDelivery s
  | .ucieFlitRetry => Sys2Proof.Machine.execUcieFlitRetry s
  | .hbmLineCommand => Sys2Proof.Machine.execHbmLineCommand s
  | .hbmLineLand => Sys2Proof.Machine.execHbmLineLand s
  | .hbmLinePerform => Sys2Proof.Machine.execHbmLinePerform s
  | .fifoPositionLand => Sys2Proof.Machine.execFifoPositionLand s
  | .codeFrameFillComplete => Sys2Proof.Machine.execCodeFrameFillComplete s
  | .mmaAccumulatorLand => Sys2Proof.Machine.execMmaAccumulatorLand s
  | .arrayReadResult => Sys2Proof.Machine.execArrayReadResult s
  | .arrayPulseSlot => Sys2Proof.Machine.execArrayPulseSlot s
  | .transferDigitalPhase => Sys2Proof.Machine.execTransferDigitalPhase s
  | .trainComplete => Sys2Proof.Machine.execTrainComplete s
  | .engineCommandStart => Sys2Proof.Machine.execEngineCommandStart s
  | .arrayEngineStart => Sys2Proof.Machine.execArrayEngineStart s
  | .engineCommandCompletion => Sys2Proof.Machine.execEngineCommandCompletion s
  | .reductionEpochClose => Sys2Proof.Machine.execReductionEpochClose s
  | .burgeeVerdict => Sys2Proof.Machine.execBurgeeVerdict s
  | .peerTimeout => Sys2Proof.Machine.execPeerTimeout s
  | .staleForwardingExpiry => Sys2Proof.Machine.execStaleForwardingExpiry s
  | .fabricFlitReceive => Sys2Proof.Machine.execFabricFlitReceive s
  | .hostBar4Access => Sys2Proof.Machine.execHostBar4Access s
  | .hostAtomicop => Sys2Proof.Machine.execHostAtomicop s
  | .doorbellWrite => Sys2Proof.Machine.execDoorbellWrite s
  | .candidateAdmission => Sys2Proof.Machine.execCandidateAdmission s
  | .dispatchDecision => Sys2Proof.Machine.execDispatchDecision s
  | .pagesResolved => Sys2Proof.Machine.execPagesResolved s
  | .sliceDispatch => Sys2Proof.Machine.execSliceDispatch s
  | .sliceCompletion => Sys2Proof.Machine.execSliceCompletion s
  | .graphKernelNode => Sys2Proof.Machine.execGraphKernelNode s
  | .graphCondNode => Sys2Proof.Machine.execGraphCondNode s
  | .graphLoopNode => Sys2Proof.Machine.execGraphLoopNode s
  | .graphWaitNode => Sys2Proof.Machine.execGraphWaitNode s
  | .graphWaitPoll => Sys2Proof.Machine.execGraphWaitPoll s
  | .graphSignalNode => Sys2Proof.Machine.execGraphSignalNode s
  | .graphStepLimit => Sys2Proof.Machine.execGraphStepLimit s
  | .cpLockstepMismatch => Sys2Proof.Machine.execCpLockstepMismatch s
  | .cpRestartComplete => Sys2Proof.Machine.execCpRestartComplete s
  | .queueUnpark => Sys2Proof.Machine.execQueueUnpark s
  | .translationInvalidate => Sys2Proof.Machine.execTranslationInvalidate s
  | .seqLockstepMismatch => Sys2Proof.Machine.execSeqLockstepMismatch s
  | .rewind => Sys2Proof.Machine.execRewind s
  | .sliceFailureCompletion => Sys2Proof.Machine.execSliceFailureCompletion s
  | .preemptRequest => Sys2Proof.Machine.execPreemptRequest s
  | .preemptFreeze => Sys2Proof.Machine.execPreemptFreeze s
  | .safePointWatchdogExpiry => Sys2Proof.Machine.execSafePointWatchdogExpiry s
  | .contextSaveComplete => Sys2Proof.Machine.execContextSaveComplete s
  | .contextRestore => Sys2Proof.Machine.execContextRestore s
  | .gangRestart => Sys2Proof.Machine.execGangRestart s
  | .thermalTrip => Sys2Proof.Machine.execThermalTrip s
  | .thermalTripClear => Sys2Proof.Machine.execThermalTripClear s
  | .pairThermalHold => Sys2Proof.Machine.execPairThermalHold s
  | .pairRetire => Sys2Proof.Machine.execPairRetire s
  | .geometryDrainBegin => Sys2Proof.Machine.execGeometryDrainBegin s
  | .geoctlAck => Sys2Proof.Machine.execGeoctlAck s
  | .pwrlimWrite => Sys2Proof.Machine.execPwrlimWrite s
  | .wdogWrite => Sys2Proof.Machine.execWdogWrite s
  | .calperWrite => Sys2Proof.Machine.execCalperWrite s
  | .registerWrite => Sys2Proof.Machine.execRegisterWrite s
  | .calibrationTimer => Sys2Proof.Machine.execCalibrationTimer s
  | .moduleReset => Sys2Proof.Machine.execModuleReset s
  | .getVersion => Sys2Proof.Machine.execGetVersion s
  | .getCapabilities => Sys2Proof.Machine.execGetCapabilities s
  | .negotiateAlgorithms => Sys2Proof.Machine.execNegotiateAlgorithms s
  | .getDigests => Sys2Proof.Machine.execGetDigests s
  | .getCertificate => Sys2Proof.Machine.execGetCertificate s
  | .challenge => Sys2Proof.Machine.execChallenge s
  | .getMeasurements => Sys2Proof.Machine.execGetMeasurements s
  | .pldmBaseDiscovery => Sys2Proof.Machine.execPldmBaseDiscovery s
  | .pldmPlatformMonitoring => Sys2Proof.Machine.execPldmPlatformMonitoring s
  | .pldmFirmwareUpdate => Sys2Proof.Machine.execPldmFirmwareUpdate s
  | .readFaults => Sys2Proof.Machine.execReadFaults s
  | .readGeometry => Sys2Proof.Machine.execReadGeometry s
  | .regAccess => Sys2Proof.Machine.execRegAccess s
  | .resetDie => Sys2Proof.Machine.execResetDie s
  | .resetModule => Sys2Proof.Machine.execResetModule s
  | .targWrite => Sys2Proof.Machine.execTargWrite s
  | .powerLoss => Sys2Proof.Machine.execPowerLoss s
  | .fabricUp => Sys2Proof.Machine.execFabricUp s

end Sys2Proof.Machine
end

