-- ==== Sys2Proof/Machine/Duty.lean ====
section
/-! DEFINITION. What firmware and the dispatch engines do with control structures in open intervals: doorbells that waited,
records, charges, descriptors to read, loads before B0, queues that become resident (spec 09 R210, 15 R325-R345, 24 R441). -/

namespace Sys2Proof.Machine

/-- A piece of such work. -/
inductive Duty where
  /-- A doorbell write that has waited (R330). -/
  | bell (b : Nat × Nat)
  /-- A write that is due. -/
  | due (d : Nat × Due)
  /-- A queue becomes resident again (R331). -/
  | resume (n : Nat)
  /-- A candidate's descriptor is read (R325). -/
  | load (c : Cand)
  /-- A placed slice is prepared (R337). -/
  | feed (gid : Nat)
  /-- A completion record is written (R343). -/
  | record (c : Completion)
  /-- System software is asked for an absent page (R200). -/
  | ask (va : Nat)
  deriving DecidableEq, Repr

namespace State

/-- The die whose dispatch engine does it, and whose translation cache serves its accesses (R199, R329, log entry 77). -/
def dutyDie (s : State) : Duty → Nat
  | .bell b => queueDie b.1
  | .due x => x.1
  | .resume n => queueDie n
  | .load c => queueDie c.queue
  | .feed gid => queueDie (s.gang gid).slice.queue
  | .record c => queueDie c.queue
  | .ask _ => 0

/-- What a due write reads and writes, in the accesses of its die; parking goes queue by queue, in the runs of each. -/
def dueRuns (s : State) : Due → List (Nat × Nat)
  | .charge a _ _ _ => [(a, 64)]
  | .fault fd _ => s.faultRuns fd
  | .park _ qs => qs.map fun q => (s.queueAt q, 64)
  | .away _ qs => qs.flatMap s.awayRuns
  | .calibrate d => s.calRuns d
  | .publish => s.publishRuns
  | .touch runs => runs

/-- Whether a due write can be made now. A cached leaf is of no use to a page that has gone; parking is over where its reason is,
and goes on wherever one of its queues can be written (R325, R331, R345). -/
def dueReady (s : State) (x : Nat × Due) : Bool :=
  let t := s.onDie x.1
  match x.2 with
  | .park die qs => s.openNow && (!(s.restarting die) || s.qtab = 0 || qs.any fun q => t.ctlReady [(t.queueAt q, 64)])
  | .away ctxn qs => s.openNow && (!(s.isAway ctxn) || qs.any fun q => t.ctlReady (t.awayRuns q))
  | .touch runs => s.openNow && !(t.ctlHeld runs)
  | d => t.ctlReady (t.dueRuns d)

/-- Make it. -/
def dueNow (s : State) (x : Nat × Due) : State :=
  let s := { s with dues := s.dues.erase x }.onDie x.1
  match x.2 with
  | .charge a b p m => (s.ctlUse [(a, 64)]).chargeNow a b p m
  | .fault fd r => (s.ctlUse (s.faultRuns fd)).ringNow fd r
  | .park die qs => s.parkDie die qs
  | .away ctxn qs => s.parkAway ctxn qs
  | .calibrate d => s.submitOn d
  | .publish => s.publishNow
  | .touch runs => s.ctlUse runs

/-- Runs of control addresses that something waits for, with the die whose engine reads them; the group table's are those of
instances that may still time out (R418). -/
def wanted (s : State) : List (Nat × List (Nat × Nat)) :=
  s.bells.map (fun b => (queueDie b.1, (s.onDie (queueDie b.1)).bellRuns b.1 b.2)) ++ (s.dues.filter fun x => match x.2 with
    | .touch _ => false
    | _ => true).map (fun x => (x.1, (s.onDie x.1).dueRuns x.2)) ++
  s.deferred.map (fun c => (queueDie c.queue, (s.onDie (queueDie c.queue)).recordRuns c.queue)) ++ s.resumeQs.map (fun n => (queueDie n, [(s.queueAt n, 64)])) ++
  if s.grptab = 0 then [] else (s.insts.filter fun i => i.ends = 0 && !(Inst.full i)).map fun i => (0, s.groupRun i.gid)

/-- The first absent page that something waits for and nobody has been asked for (R200, R325). -/
def gapDue (s : State) : Option Nat :=
  (s.wanted.findSome? fun x => let t := s.onDie x.1; if t.asks x.2 then t.ctlGaps x.2 else none).or s.tableGap

/-- The next piece of work, in an open interval (R210, R325). -/
def pickDuty (s : State) : Option Duty :=
  if !s.openNow then none
  else
    (s.bellDue.map Duty.bell).or <| ((s.dues.find? s.dueReady).map Duty.due).or <| (s.resumeDue.map Duty.resume).or <|
    (s.loadDue.map Duty.load).or <| (((tkeys s.gangs).find? s.feedDue).map Duty.feed).or <| (s.recordDue.map Duty.record).or <|
    s.gapDue.map Duty.ask

/-- Do it. -/
def discharge (s : State) (d : Duty) : State :=
  let s := s.onDie (s.dutyDie d)
  match d with
  | .bell b => s.ringAgain b
  | .due d => s.dueNow d
  | .resume n => s.resumeNow n
  | .load c => s.load c
  | .feed gid => s.feedNow gid
  | .record c => s.recordAgain c
  | .ask va => s.askPage 0 va

end State

end Sys2Proof.Machine
end

