-- ==== Sys2Proof/Machine/Run.lean ====
section
/-! DEFINITION. What a step does next: the order of events within a beat, and the issue of a bundle (spec 02 R5, R11, R12,
R27-R32, 04 R83, 19 R378-R391; log entries 9, 10, 15). -/

namespace Sys2Proof.Machine

/-- What a step does. -/
inductive Pick where
  /-- An event of the machine, with its operands. -/
  | event (i : Instr) (args : List Nat)
  /-- An external input, which leaves the list of those to come. -/
  | input (x : Input)
  /-- An input that reaches no unit. -/
  | drop (x : Input)
  /-- A context issues its next bundle. -/
  | issue (c : Nat)
  /-- The bundle of a context whose tile or gang has stopped at this beat: only its own fault counts (R380). -/
  | probe (c : Nat)
  /-- Something else that happens to the module, at its beat. -/
  | stray (x : Nat × Stray)
  /-- A message that has been received and waited is tried again (R412). -/
  | received
  /-- Firmware's own re-stripe makes a step (R367). -/
  | move (m : Move)
  /-- Firmware or a dispatch engine does a piece of its work in an open interval (R210, R325). -/
  | duty (d : Duty)
  /-- Boot does a step (R440). -/
  | boot
  /-- A home outside the module writes through (R255, R413). -/
  | through (t : Through)
  /-- No unit has a supply and nothing is to come. -/
  | dark
  deriving DecidableEq, Repr

/-- Inputs from outside the module: host, fabric, firmware, system software, sensors, the side-band port, and errors. -/
def Instr.outside : Instr → Bool
  | .ucieFlitRetry | .fabricFlitReceive | .hostBar4Access | .hostAtomicop | .doorbellWrite | .pagesResolved
  | .cpLockstepMismatch | .queueUnpark | .translationInvalidate | .seqLockstepMismatch | .preemptRequest | .contextRestore
  | .gangRestart | .thermalTrip | .thermalTripClear | .pairThermalHold | .pairRetire | .geometryDrainBegin | .geoctlAck
  | .pwrlimWrite | .wdogWrite | .calperWrite | .registerWrite | .moduleReset | .getVersion | .getCapabilities
  | .negotiateAlgorithms | .getDigests | .getCertificate | .challenge | .getMeasurements | .pldmBaseDiscovery
  | .pldmPlatformMonitoring | .pldmFirmwareUpdate | .readFaults | .readGeometry | .regAccess | .resetDie | .resetModule
  | .targWrite | .powerLoss | .fabricUp => true
  | _ => false

/-- The host's accesses, which the root complex delivers in order (R330), and what its system software reports (R200). -/
def Instr.fromHost : Instr → Bool
  | .hostBar4Access | .hostAtomicop | .pagesResolved | .doorbellWrite | .registerWrite | .pwrlimWrite | .wdogWrite | .calperWrite => true
  | _ => false

/-- Requests that the side-band port answers on standby power alone (R443). -/
def Instr.portQuery : Instr → Bool
  | .getVersion | .getCapabilities | .negotiateAlgorithms | .getDigests | .getCertificate | .challenge | .getMeasurements
  | .pldmBaseDiscovery | .pldmPlatformMonitoring | .pldmFirmwareUpdate | .readFaults | .readGeometry | .regAccess => true
  | _ => false

/-- What the side-band port and the supply do, whatever the module does (R439, R443). -/
def Instr.port (i : Instr) : Bool :=
  Instr.portQuery i || match i with
    | .resetDie | .resetModule | .moduleReset | .powerLoss => true
    | _ => false

/-- Whether an input reaches HBM, which takes an open interval: accesses of the host and reports of pages it has written there,
doorbells read, queues made resident, frames restored (R200, R210). -/
def Input.opens (x : Input) : Bool :=
  match x.what with
  | .hostBar4Access | .hostAtomicop | .pagesResolved | .queueUnpark | .contextRestore => true
  | .doorbellWrite => x.args.getD 3 0 = 1
  | _ => false

/-- The event that brings about an item in flight. -/
def Act.event : Act → Instr
  | .g _ _ _ | .p _ _ _ | .preds _ | .lanes _ _ | .m _ _ _ | .sreg _ _ | .flags _ | .fold _
  | .awin _ _ | .again _ _ | .xseed _ _ => .resultLand
  | .draws _ => .drawCounterAdvance
  | .pool _ _ => .storePerform
  | .vldHalf _ _ | .vldbScale _ _ _ | .qldGroup _ _ _ | .qldScale _ _ _ | .fifo _ _ | .hrdtLand _ _ _ => .fifoPositionLand
  | .flit dies _ _ _ _ | .arrive dies _ => if dies then .crossDieDelivery else .meshFlitDelivery
  | .hbmRead _ _ _ _ _ | .hbmWrite _ _ _ => .hbmLineCommand
  | .hbmLand _ _ _ _ _ _ => .hbmLineLand
  | .hbmPerform _ _ _ => .hbmLinePerform
  | .frame _ _ _ => .codeFrameFillComplete
  | .mmaRead _ _ _ _ _ _ _ _ _ _ | .mmaAcc _ _ _ _ _ _ _ | .zland _ _ _ | .zldRow _ _ _ _ _ _ _
  | .zstRead _ _ _ _ _ _ _ => .mmaAccumulatorLand
  | .ain _ _ | .aout _ _ => .arrayReadResult
  | .pulse _ _ => .arrayPulseSlot
  | .digital _ => .transferDigitalPhase
  | .train _ => .trainComplete
  | .lost _ _ => .ucieFlitRetry

/-- Operands of that event: the context and the item's place. -/
def Act.args (a : Act) (c k : Nat) : List Nat := if a.isLost then [c, 0, k] else [c, k]

namespace State

/-! ### Bundles -/

/-- Whether the rest of a bundle, or its collision check, takes a fault too (R380). -/
def moreFaults : List (Nat × Instr) → State → Bool
  | [], s => s.finishBundle.cur.faulted
  | (k, i) :: r, s =>
    match exec i (s.modCur fun u => { u with slot := k }) with
    | .next t => t.cur.faulted || moreFaults r t
    | _ => false

/-- The slots of a bundle in order, up to the first fault; further faults of the bundle set MORE (R11, R12, R28,
R380). -/
def runSlots : List (Nat × Instr) → State → Host.Outcome State Fault Refusal
  | [], s => .next s.finishBundle
  | (k, i) :: r, s =>
    match exec i (s.modCur fun u => { u with slot := k }) with
    | .next t => if t.cur.faulted then .next (if moreFaults r s then t.setMore s.cur.ctx else t) else runSlots r t
    | o => o

/-- The first slot that consumes a poisoned operand, with the state that has taken POISON (R380). -/
def poisonSlot (s : State) (l : List (Nat × Instr)) : Option (Nat × State) :=
  l.findSome? fun (k, i) => match exec i (s.modCur fun u => { u with slot := k }) with
    | .next t => if t.cur.poisoned then some (k, t) else none
    | _ => none

/-- What the C slots of a bundle that also has an M slot reserve in the FIFOs, for the M slot's check: tried on a copy in
which every slot is free (R177, R178; log entry 52). -/
def lookAhead (s : State) (l : List (Nat × Instr)) : State :=
  if l.any (fun x => x.1 = 3) && l.any (fun x => 4 ≤ x.1) then
    let roomy (f : Fifo) : Fifo := { f with cq := f.wq + 64, free := [] }
    let t0 := s.modMe fun x => { x with regs := { x.regs with q0 := roomy x.regs.q0, q1 := roomy x.regs.q1 } }
    let t := (l.filter fun x => 4 ≤ x.1).foldl (fun t x => match exec x.2 (t.modCur fun u => { u with slot := x.1 }) with
      | .next u => if u.cur.faulted then t else u
      | _ => t) t0
    s.modCur fun u => { u with ahead := [(0, t.regs.q0.wq, t.regs.q0.land), (1, t.regs.q1.wq, t.regs.q1.land)] }
  else s

/-- Run the slots of a bundle: POISON of any slot comes before every other fault of the bundle (R380, R403). -/
def runBundle (s : State) (l : List (Nat × Instr)) : Host.Outcome State Fault Refusal :=
  match s.poisonSlot l with
  | some (k, t) => .next (if moreFaults (l.filter fun x => x.1 ≠ k) s then t.setMore s.cur.ctx else t)
  | none => runSlots l (s.lookAhead l)

/-- The cursor at a context, which is to issue at this beat. -/
def aim (s : State) (c : Nat) : State :=
  let k : Cursor := { ctx := c }
  ({ s.keepUndo c with cur := k }).modCtx c fun x => { x with tried := s.beat + 1 }

/-- Run a bundle that has been fetched: its slots, or an empty bundle's idle cycles (R73, R83). -/
def runStaged (s : State) : Host.Outcome State Fault Refusal :=
  if s.cur.faulted then .next s
  else if s.cur.slots.isEmpty then exec .emptyBundle s
  else s.runBundle s.cur.slots

/-- Fetch, and once more where padding moved to the next line, then run (R73, R74, R83). -/
def issue (s : State) (c : Nat) : Host.Outcome State Fault Refusal :=
  match exec .bundleFetch (s.aim c) with
  | .next t =>
    if t.cur.moved && t.cur.slots.isEmpty && t.cur.idle.isNone && !t.cur.faulted then
      match exec .bundleFetch t with
      | .next u => u.runStaged
      | o => o
    else t.runStaged
  | o => o

/-- The first item of a context that is to happen now and satisfies a test, with its place. -/
def dueItem (s : State) (c : Nat) (p : Nat → Item → Bool) : Option (Nat × Item) :=
  let items := (s.ctx c).items
  ((List.range items.length).zip items).find? fun x => s.itemDue c x.2 && p x.1 x.2

/-- Try the bundle that a context does not issue at this beat: a fault of its own is taken, or marked MORE on its tile's
record; without one nothing happens (R380, log entry 62). -/
def tryBundle (s : State) (c : Nat) : State :=
  let s := s.modCtx c fun x => { x with tried := s.beat + 1 }
  match ((s.keepUndo c).setCtx c (s.before c).settled).issue c with
  | .next t => if t.cur.faulted then (if (s.faultNow (tileOf c)).isSome then s.setMore c else t) else s
  | _ => s

/-! ### What comes next -/

/-- The first context that satisfies a test. -/
def ctxWhere (s : State) (p : Nat → Bool) : Option Nat := (tkeys s.ctxs).find? p

/-- The first gang that satisfies a test. -/
def gangWhere (s : State) (p : Nat → Bool) : Option Nat := (tkeys s.gangs).find? p

/-- The event of the first context that satisfies a test. -/
def ctxEvent (s : State) (i : Instr) (p : Nat → Bool) : Option Pick := (s.ctxWhere p).map fun c => .event i [c]
def gangEvent (s : State) (i : Instr) (p : Nat → Bool) : Option Pick := (s.gangWhere p).map fun g => .event i [g]

/-- The first item over all contexts that is to happen now and satisfies a test, as its event. -/
def itemEvent (s : State) (p : Nat → Nat → Item → Bool) : Option Pick :=
  (tkeys s.ctxs).findSome? fun c => (s.dueItem c (p c)).map fun x => .event x.2.act.event (x.2.act.args c x.1)

/-- Whether an item takes a fault when it happens (tried on a copy). -/
def itemFails (s : State) (c k : Nat) (it : Item) : Bool :=
  match exec it.act.event { s with
    ev := it.act.args c k,
    cur := {} } with
  | .next t => t.cur.faulted
  | _ => false

/-- Whether an input has its turn: a lockstep mismatch is found after the lands of its beat; an access of the host comes after
those it sent before, and what reaches HBM waits for an open interval (R210, R260, R330, R402). -/
def inputDue (s : State) (late : Bool) (x : Input) : Bool :=
  x.beat ≤ s.beat && (late || x.what != .seqLockstepMismatch) && (s.openNow || !x.opens) &&
    (!(Instr.fromHost x.what) || (s.inputs.find? fun y => Instr.fromHost y.what) = some x)

/-- The first input that has its turn; what the host sends over a link that is down is lost (R440). -/
def pickInput (s : State) (late : Bool) : Option Pick :=
  (s.inputs.find? (s.inputDue late)).map fun x =>
    if Instr.outside x.what && (s.linkUp || !(Instr.fromHost x.what)) then .input x else .drop x

/-- Whether something of another kind happens now: firmware's re-stripe reads and writes tables in HBM, in an open interval
(R210, R367). -/
def strayDue (s : State) (x : Nat × Stray) : Bool :=
  x.1 ≤ s.beat && match x.2 with
    | .restripe _ _ _ _ _ => s.openNow
    | _ => true

/-- The next thing of another kind that happens to the module (log entry 17). -/
def pickStray (s : State) : Option Pick := (s.strays.find? s.strayDue).map Pick.stray

/-- Without the supply only a reset, when it comes back, has an effect; the side-band port goes on answering (R439, R443). -/
def pickDark (s : State) : Pick :=
  match s.strays with
  | x :: _ => .stray x
  | [] => match s.inputs with
    | [] => .dark
    | x :: _ => if x.what = .moduleReset || Instr.portQuery x.what then .input x else .drop x

/-- While the module boots the side-band port answers, and other inputs reach nothing; the halyard advances between boot's steps
(R440, R443). -/
def pickBoot (s : State) : Pick :=
  ((s.pickStray.or <| (s.inputs.find? fun x => x.beat ≤ s.beat).map fun x => if Instr.port x.what then .input x else .drop x).or <|
    if s.bootDue then some .boot else none).getD (.event .halyardBeat [])

/-- What starts again at this beat: frozen gangs, replays, switched banks (R118, R388, R391, R395). -/
def pickStart (s : State) : Option Pick :=
  (s.gangEvent .gangRestart s.restartDue).or <| (s.ctxEvent .rewind s.rewindDue).or <|
    s.gangEvent .contextSwitchStart s.switchDue

/-- What freezes at this beat on request (R394, R401). -/
def pickFreeze (s : State) : Option Pick :=
  (s.gangEvent .safePointWatchdogExpiry s.watchDue).or (s.gangEvent .preemptFreeze s.freezeDue)

/-- Whether a context's next bundle is for this beat and has been neither issued nor tried. -/
def bundleDue (s : State) (x : Ctx) : Bool := x.run = .running && x.nextAt ≤ s.beat && x.tried != s.beat + 1

/-- Whether the sequencer of a context comes to its next bundle's cycle now. -/
def seqDue (s : State) (c : Nat) : Bool :=
  let x := s.ctx c
  x.run = .running && x.nextAt ≤ s.beat && !(s.gangFrozen x.gang)

/-- The sequencers' own steps at the cycle of the next bundle (R35, R39, R40). -/
def pickSeq (s : State) : Option Pick :=
  (s.ctxEvent .branchTakenRedirect fun c => (s.ctx c).redirect.isSome && s.seqDue c).or
    (s.ctxEvent .loopIterationStep fun c => (s.ctx c).loopStep && s.seqDue c)

/-- Whether the bundle that a context issues now consumes poison (tried on a copy). -/
def bundlePoisoned (s : State) (c : Nat) : Bool :=
  s.bundleDue (s.ctx c) && !(s.gangFrozen (s.ctx c).gang) && match s.issue c with
    | .next t => t.cur.poisoned
    | _ => false

/-- Whether a flit or line that has been abandoned raises LINK_REPLAY on a context now (R380, R409). -/
def lostOn (s : State) (m : Nat) : Bool := (tkeys s.ctxs).any fun c => (s.dueItem c fun _ it => it.act.lostAt = some m).isSome

/-- Lands of the beat, lockstep mismatches, the sequencers' steps, then reads; of the reads those that fail come first, and
an abandoned transfer after a bundle of its destination that consumes poison (R11, R379, R380, R402, R409). -/
def pickItems (s : State) : Option Pick :=
  (s.itemEvent fun _ _ it => it.act.rank < 10).or <|
  (s.pickInput true).or <| s.pickSeq.or <|
    (s.itemEvent fun c k it => it.act.rank < 11 && s.itemFails c k it).or <|
    ((s.ctxWhere fun c => s.lostOn c && s.bundlePoisoned c).map Pick.issue).or <|
    (s.itemEvent fun c k it => it.act.rank < 20 && s.itemFails c k it).or <|
      s.itemEvent fun c _ it => it.act.rank < 20 && !(s.gangFrozen (s.ctx c).gang)

/-- Hoists that begin at this beat (R117, R139, R337). -/
def pickHoist (s : State) : Option Pick :=
  (s.gangEvent .sliceDispatch s.dispatchDue).or (s.gangEvent .hoistEntry s.entryDue)

/-- Slices that complete at this beat, after its writes (R261, R405). -/
def pickDone (s : State) : Option Pick := s.gangEvent .sliceCompletion s.sliceDone

/-- Whether a context issues now. -/
def issueDue (s : State) (c : Nat) : Bool := s.bundleDue (s.ctx c) && !(s.gangFrozen (s.ctx c).gang)

/-- Whether a context would have issued now, but for a fault of this beat. -/
def probeDue (s : State) (c : Nat) : Bool :=
  let x := s.ctx c
  s.bundleDue { s.before c with tried := x.tried } &&
    ((x.run = .rewinding && x.rew = some s.beat) || match (s.gang x.gang).fz with
      | some f => f.beat = s.beat && f.why = .fail
      | none => false)

/-- The next bundle, in the order of contexts. -/
def pickIssue (s : State) : Option Pick :=
  ((s.ctxWhere s.issueDue).map fun c => Pick.issue c).or ((s.ctxWhere s.probeDue).map fun c => Pick.probe c)

/-- The first command of a context that satisfies a test, as an event. -/
def cmdEvent (s : State) (i : Instr) (p : Nat → Nat → Bool) : Option Pick :=
  (tkeys s.ctxs).findSome? fun c => ((tkeys (s.ctx c).cmds).find? (p c)).map fun n => .event i [c, n]

/-- The engines' next step (R247, R293, R318, R352). -/
def pickEngine (s : State) : Option Pick :=
  (s.cmdEvent .engineCommandStart s.cmdReady).or <| (s.cmdEvent .arrayEngineStart s.arrReady).or <|
    s.cmdEvent .engineCommandCompletion s.cmdDue

/-- Whether a line's open epoch has every rank (R416). -/
def epochFull (s : State) (m : Merge) : Bool :=
  match s.winOf m.asid (64 * m.line) 64 with
  | some _ => m.count != 0 && (m.epoch m.count).length = m.count
  | none => false

/-- What a page's own re-stripe, a home outside the module or a link has to do (R210, R367, R412, R413). -/
def pickWaiting (s : State) : Option Pick :=
  if !s.openNow then (if s.rxReady then some .received else none)
  else (s.fwMove.map Pick.move).or <| (s.throughDue.map Pick.through).or (if s.rxReady then some .received else none)

/-- A line with a held write to try in an open interval, or an epoch to close (R210, R416). -/
def pickLine (s : State) : Option Pick :=
  let first (h : HeldWrite) : Bool := (s.heldWrites.find? fun k => HeldWrite.onLine k h.asid (h.va / 64)) = some h
  ((s.heldWrites.find? fun h => s.openNow && h.tryAt ≤ s.beat && first h).map fun h =>
    .event .reductionEpochClose [h.asid, h.va / 64]).or
  ((s.merges.find? fun m => !(s.lineHeld m.asid m.line) && s.epochFull m).map fun m =>
    .event .reductionEpochClose [m.asid, m.line])

/-- An instance to judge or to time out (R418, R421). -/
def pickInst (s : State) : Option Pick :=
  ((s.insts.find? fun i => i.cmd.isSome && i.verdict = 0 && i.ends = 0 && Inst.full i).map fun i =>
    .event .burgeeVerdict [i.gid, i.k]).or
  ((s.insts.find? fun i => i.ends = 0 && !(Inst.full i) && s.groupReady i.gid && s.groupTmo i.gid != 0 && i.first + s.groupTmo i.gid ≤ s.beat).map
    fun i => .event .peerTimeout [i.gid, i.k])

/-- An event without operands, where its condition holds. -/
def when (b : Bool) (i : Instr) (args : List Nat := []) : Option Pick := if b then some (.event i args) else none

/-- Firmware's and the dispatch engines' own work (R213, R335, R345, R369, R441). -/
def pickModule (s : State) : Option Pick :=
  (when (s.forwards.any fun f => !f.gone && f.last ≤ s.beat && f.own.isNone) .staleForwardingExpiry).or <|
  (when (s.installDue || !s.tilesDue.isEmpty) .geoctlAck [0]).or <|
  ((s.suspects.find? s.retireDue).map fun n => .event .pairRetire [n]).or <|
  (when (s.hstat.getLsbD 0 && s.calAt ≤ s.beat) .calibrationTimer).or <|
  (((tkeys s.restarts).find? s.restartOver).map fun d => .event .cpRestartComplete [d]).or <|
  (if s.scanNow then ((List.range 4096).find? fun n => (s.onDie (queueDie n)).admits n).map fun n => .event .candidateAdmission [n] else none).or <|
  (s.pickDuty.map Pick.duty).or <| when s.decideDue .dispatchDecision

/-- The first graph that satisfies a test. -/
def graphEvent (s : State) (i : Instr) (p : GraphRun → Bool) : Option Pick :=
  (s.graphs.find? p).map fun g => .event i [g.id]

/-- A graph's next node (R342). -/
def pickGraph (s : State) : Option Pick :=
  (s.graphEvent .graphStepLimit fun g => s.graphInvalid g.id).or <|
  (s.graphEvent .graphKernelNode fun g => s.nodeDue g.id 1 || s.endedDue g).or <|
  (s.graphEvent .graphCondNode fun g => s.nodeDue g.id 2).or <|
  (s.graphEvent .graphLoopNode fun g => s.nodeDue g.id 3).or <|
  (s.graphEvent .graphWaitNode fun g => s.nodeDue g.id 4).or <|
  (s.graphEvent .graphSignalNode fun g => s.nodeDue g.id 5).or <|
  s.graphEvent .graphWaitPoll s.pollDue

/-- Failed slices that have come to rest, and frames that have been written (R392, R395). -/
def pickEnd (s : State) : Option Pick :=
  (s.gangEvent .sliceFailureCompletion s.failDue).or (s.gangEvent .contextSaveComplete s.saveDue)

/-- What happens at a beat up to the issue of its bundles, in this order. -/
def pickTimed (s : State) : Option Pick :=
  s.pickStray.or <| (s.pickInput false).or <| s.pickStart.or <| s.pickFreeze.or <| s.pickItems.or <| s.pickHoist.or s.pickIssue

/-- What follows the issue of a beat's bundles: writes, completions, and the asynchronous domain. -/
def pickAfter (s : State) : Option Pick :=
  (s.itemEvent fun _ _ it => 20 ≤ it.act.rank).or <| s.pickDone.or <| s.pickEngine.or <| s.pickWaiting.or s.pickLine

/-- What firmware and the dispatch engines do then. -/
def pickFirmware (s : State) : Option Pick := s.pickInst.or <| s.pickModule.or <| s.pickGraph.or s.pickEnd

/-- What the step of a module with supply, past reset, does: everything of this beat in its order, then the next beat. -/
def pickLive (s : State) : Pick := (s.pickTimed.or <| s.pickAfter.or s.pickFirmware).getD (.event .halyardBeat [])

/-- What a step does next (log entry 15). -/
def pick (s : State) : Pick :=
  if !s.power then s.pickDark
  else match s.boot with
    | .due => .event .moduleReset [Config.bootFailure s.fresh % 6]
    | .step _ _ _ => s.pickBoot
    | .over => s.pickLive

/-- Whether an item lands in registers that a datapath computes. -/
def landsResult : Act → Bool
  | .g _ _ _ | .p _ _ _ | .preds _ | .lanes _ _ | .m _ _ _ | .zland _ _ _ => true
  | _ => false

/-- Change the act of one item of a context into another of its kind: a register land that is not what it should be. -/
def mislead (n : Nat) (a : Act) (x : Ctx) : Ctx := { x with
  items := ((List.range x.items.length).zip x.items).map fun (k, it) =>
    if k = n && landsResult it.act && landsResult a then { it with act := a } else it }

/-- What happens to the module other than by an instruction or an event (log entry 17). Without the supply there is only the
host's own memory. -/
def befall (s : State) (x : Stray) : State :=
  match x with
  | .host a bs => s.wr (hostAt a) bs false
  | .memory a => if s.power then { s with marks := tset s.marks (markKey a) true } else s
  | .register c u => if (s.ctx c).run = .empty then s else s.modRegs c fun r => { r with marks := tset r.marks u true }
  | .land c n a => if (s.ctx c).run = .empty then s else s.modCtx c (mislead n a)
  | .buffer c i b m => if (tfind (s.ctx c).cmds i).isSome then s.modCmd c i fun k => { k with flips := (b, m) :: k.flips } else s
  | .restripe regen asid va nbase nplace =>
    if !s.power then s
    else match s.walk asid va with
      | .held => { s with strays := (s.beat + 1, x) :: s.strays }
      | _ => s.moveBegin none ⟨regen, va, nbase, nplace, asid⟩
  | .tile n => if s.power && s.geom.tiles.getLsbD n then { s with tilesOut := n :: s.tilesOut } else s

/-- The die whose dispatch engine serves an event's control accesses: that of its queue, its slice's queue or its restart, else
die 0's for firmware, fabric and host (R199, R325, R329, log entry 77). -/
def eventDie (s : State) (i : Instr) (args : List Nat) : Nat :=
  match i with
  | .candidateAdmission | .queueUnpark => queueDie (args.getD 0 0)
  | .doorbellWrite => queueDie (args.getD 0 0 / 4)
  | .sliceDispatch | .sliceCompletion | .sliceFailureCompletion | .contextSaveComplete =>
    queueDie (s.gang (args.getD 0 0)).slice.queue
  | .cpRestartComplete => args.getD 0 0 % 4
  | _ => 0

/-- Do it. -/
def perform (s : State) : Pick → Host.Outcome State Fault Refusal
  | .event i args => exec i { s.onDie (s.eventDie i args) with ev := args }
  | .input x => exec x.what { s.onDie (s.eventDie x.what x.args) with
      ev := x.args,
      inputs := s.inputs.erase x }
  | .drop x => .next { s with inputs := s.inputs.erase x }
  | .issue c => s.issue c
  | .probe c => .next (s.tryBundle c)
  | .stray x => .next ({ s.onDie 0 with strays := s.strays.erase x }.befall x.2)
  | .received => exec .fabricFlitReceive { s.onDie 0 with ev := [] }
  | .move m => .next ((s.onDie 0).moveStep m)
  | .duty d => .next (s.discharge d)
  | .boot => .next (s.onDie 0).bootGo
  | .through t => .next (s.writeThrough t)
  | .dark => .fault .noPower

/-! ### A word placed to be fetched -/

/-- The bytes of a bundle of one slot: template, slot word, X word where the form requires one (R71-R73). -/
def loneBundle (nbits w : Nat) : List Byte :=
  let v : Half := BitVec.ofNat 32 (w % 2 ^ nbits)
  match decodeTable v with
  | some (slot, some x, _) => BitVec.ofNat 8 (2 ^ slot + 64) :: leBytes 4 v.toNat ++ leBytes 4 x.toNat
  | some (slot, none, _) => BitVec.ofNat 8 (2 ^ slot) :: leBytes 4 v.toNat
  | none => BitVec.ofNat 8 1 :: leBytes 4 v.toNat

/-- PART of the context that fetches a placed word: 64 vector registers, W 32, 8 accumulators, register area at 0, its
scratchpad of 96 blocks from 64 KiB on (R186, R187). -/
def lonePart : BitVec 32 := BitVec.ofNat 32 (8 * 2 ^ 3 + 16 * 2 ^ 8 + 96 * 2 ^ 15)

/-- A gang of one context, placed and past its hoist entry. -/
def loneGang (c : Nat) : Gang :=
  let sl : Slice := { b0 := some 0 }
  { members := [c], dies := [0], slice := sl }

/-- Tile 0 issues a placed word as its next bundle (log entry 9). -/
def place1 (s : State) (nbits w : Nat) : State :=
  let x : Ctx := {
    run := .running,
    gang := 0,
    part := lonePart,
    nextAt := s.beat,
    hbase := s.beat,
    rs := true,
    sc := true }
  let fr : Frame := { owner := some 0, valid := true }
  let t := { s with
    boot := .over,
    power := true,
    inputs := [],
    strays := [],
    ctxs := [(0, x)],
    gangs := [(0, loneGang 0)],
    frames := tset s.frames 0 fr,
    marks := [] }
  t.wr (storeAt 0 0) (loneBundle nbits w) false

end State

end Sys2Proof.Machine
end

