-- ==== Sys2Proof/Safety.lean ====
section
/-! DEFINITION. What a safe run is, in the terms claims use: the step goes on, and memory keeps its canonical form; and the
conditions under which an instruction reads its operands and takes its resources. -/

namespace Sys2Proof.Machine

/-- A step that goes on. -/
def State.goesOn (s : State) : Prop := ∃ t, step s = .next t

/-- The next state of an outcome, if it has one. -/
def nextOf (o : Host.Outcome State Fault Refusal) : Option State :=
  match o with
  | .next t => some t
  | _ => none

/-! ### Rounding: what the rules say of a result, for a real value given by its sign and its positive magnitude -/

/-- ±m × 2^e, the value an exact finite number stands for. -/
def ratVal (n : Bool) (m : Nat) (e : Int) : ℚ := (if n then -1 else 1) * m * 2 ^ e

/-- a < b, both of them numbers or infinities (R58). -/
def exLess : Ex → Ex → Prop
  | .inf a, .inf b => a = true ∧ b = false
  | .inf a, .fin _ _ _ => a = true
  | .fin _ _ _, .inf b => b = false
  | .fin a m e, .fin b n f => ratVal a m e < ratVal b n f
  | _, _ => False

/-- A rounded magnitude `v` of a magnitude `x` is delivered: encoded in F, with NX where it differs and UF where `x` is tiny besides;
past the largest finite value with OF and NX, as infinity where `big` says so, else as the largest finite value (R50, R52, R53). -/
def delivers (F : Fmt) (neg big : Bool) (x v : ℝ) (r : Nat × Flags) : Prop :=
  let top : ℝ := (2 ^ F.p - 1) * 2 ^ (128 - F.p : ℤ)
  r.1 < 2 ^ (F.p + 8) ∧
  (v ≤ top → (∃ m e, Ex.ofBits F r.1 = .fin neg m e ∧ (m : ℝ) * 2 ^ e = v) ∧ (v = x → r.2 = 0) ∧
    (v ≠ x → (2 ^ (-126 : ℤ) ≤ x → r.2 = fNX) ∧ (x < 2 ^ (-126 : ℤ) → r.2 = fNX ||| fUF))) ∧
  (top < v → r = (if big then infBits F neg else maxBits F neg, fOF ||| fNX))

/-- The spacing q of F near a magnitude (R52). -/
def isSpacing (F : Fmt) (x q : ℝ) : Prop := ∃ e : ℤ, (2 : ℝ) ^ e ≤ x ∧ x < 2 ^ (e + 1) ∧ q = 2 ^ (max e (-126) - F.p + 1)

/-- round(x, F, mode) of R52 on ±x with x > 0 delivers r: x lies at or above lo × q and below (lo + 1) × q, and the mode takes one. -/
def roundsTo (F : Fmt) (mode : Rnd) (neg : Bool) (x : ℝ) (r : Nat × Flags) : Prop :=
  ∃ (q : ℝ) (lo y : ℕ), isSpacing F x q ∧ lo * q ≤ x ∧ x < (lo + 1) * q ∧
    (match mode with
      | .rne => (x - lo * q < q / 2 → y = lo) ∧ (q / 2 < x - lo * q → y = lo + 1) ∧
          (x - lo * q = q / 2 → y % 2 = 0 ∧ (y = lo ∨ y = lo + 1))
      | .ru => (x = lo * q ∨ neg = true → y = lo) ∧ (x ≠ lo * q → neg = false → y = lo + 1)
      | .rd => (x = lo * q ∨ neg = false → y = lo) ∧ (x ≠ lo * q → neg = true → y = lo + 1)
      | _ => y = lo) ∧
    delivers F neg (mode = .rne || (mode = .ru && !neg) || (mode = .rd && neg)) x (y * q) r

/-- round_rs of R53 on ±x with x > 0 and sixteen bits drawn delivers r: one up where they are below k, the fraction of the spacing in
parts of 65,536; from 2^128 on always infinity. -/
def roundsRs (neg : Bool) (x : ℝ) (rbits : Nat) (r : Nat × Flags) : Prop :=
  (2 ^ (128 : ℤ) ≤ x → r = (infBits .bf16 neg, fOF ||| fNX)) ∧
  (x < 2 ^ (128 : ℤ) → ∃ (q : ℝ) (lo k : ℕ), isSpacing .bf16 x q ∧ lo * q ≤ x ∧ x < (lo + 1) * q ∧
    k * q ≤ (x - lo * q) * 65536 ∧ (x - lo * q) * 65536 < (k + 1) * q ∧
    delivers .bf16 neg true x (if rbits < k then (lo + 1) * q else lo * q) r)

/-- Either, by the mode: the stochastic one is BF16's alone (R51, R55). -/
def rounds (F : Fmt) (mode : Rnd) (rbits : Nat) (neg : Bool) (x : ℝ) (r : Nat × Flags) : Prop :=
  if mode = .rs then F = .bf16 → roundsRs neg x rbits r else roundsTo F mode neg x r

/-- An operation's result for a value that a real number, zero apart, is: rounded once; an exact zero has the sign given. -/
def roundsReal (F : Fmt) (mode : Rnd) (rbits : Nat) (zero : Bool) (v : ℝ) (r : Nat × Flags) : Prop :=
  (v ≠ 0 → ∃ neg, (neg = true ↔ v < 0) ∧ rounds F mode rbits neg |v| r) ∧ (v = 0 → r = (signBits F zero, 0))

/-- ri of a rational in a deterministic mode: the integer R56 rounds to. -/
def intOf (mode : Rnd) (v : ℚ) (y : ℤ) : Prop :=
  match mode with
  | .rz => y = if v < 0 then ⌈v⌉ else ⌊v⌋
  | .rd => y = ⌊v⌋
  | .ru => y = ⌈v⌉
  | _ => |v - y| < 1 / 2 ∨ (|v - y| = 1 / 2 ∧ y % 2 = 0)

namespace State

/-- An address lies in the entry of a table that a step may have written AC or DY into: that of a leaf the state after it has cached
(R199). -/
def entryByte (s t : State) (a : Nat) : Prop :=
  ∃ x ∈ t.tlb, ∃ q : Place, s.entryPlace x.entryAt = some q ∧ q.flat ≤ a ∧ a < q.flat + 8

/-- An address lies in what a home outside the module has still to write through (R255, R413). -/
def heldByte (s : State) (a : Nat) : Prop := ∃ x ∈ s.through, x.dst ≤ a ∧ a < x.dst + x.data.length

/-- A byte that is in no such entry and in no such write reads after a step as before. -/
def keeps (s t : State) (a : Nat) : Prop := ¬s.entryByte t a → ¬s.heldByte a → mget t.mem a = mget s.mem a

/-- An address outside a run of bytes. -/
def apart (a base n : Nat) : Prop := a < base ∨ base + n ≤ a

/-- Where the `n` bytes of a copy's unit at `st` are written: by the extent that DST names, or by the virtual address (R359, R360). -/
def copySpots (s : State) (c : Nat) (k : Cmd) (st n : Nat) : Got (List (Place × Nat)) :=
  if k.f 0x1C 2 = 0xFFFF then writePlaces c k.issued (k.w 0x10) (s.lineBase c (k.w 0x10) st) st (pieces (s.lineBase c (k.w 0x10) st) n) s
  else vplaces (dieOf (tileOf c)) (s.ctx c).asid.toNat true (pieces (k.f 0x10 8 + st) n) s

/-- The state after an atomic's write where nothing waits to be written through: in memory at once where the word's home is its
memory controller, else held by its home, which writes it through later (R255, R413). -/
def putAt (s : State) (p : Place) (bs : List Byte) (t : State) : Prop :=
  (p.home = 0 → t = s.wr p.flat bs false) ∧
  (p.home ≠ 0 → ∃ x : Through, t = { s with fresh := s.fresh + 1, through := [x] } ∧ x.home = p.home ∧ x.dst = p.flat ∧ x.data = bs ∧
    x.pois = false ∧ x.src = [s.asker] ∧ s.beat < x.due)

/-- Memory is in its canonical form. -/
def Sound (s : State) : Prop := Memory.wf s.mem = true

/-! ### Operands of the issuing context: values, and freedom from poison (R20, R127, R133, R382) -/

def valG (s : State) (n : BitVec 6) : Word := s.regs.gr (greg s.regs.rotpos n.toNat)
def valP (s : State) (n : Nat) : Bool := s.regs.pr (preg s.regs.rotpos n)
def valM (s : State) (n : Nat) : BitVec 128 := s.regs.mr n
def valV (s : State) (n : BitVec 6) : List Half := s.regs.vec (s.vphys n)

def clearG (s : State) (n : BitVec 6) : Prop := s.regs.isMarked (keyG (greg s.regs.rotpos n.toNat)) = false
def clearP (s : State) (n : Nat) : Prop := s.regs.isMarked (keyP (preg s.regs.rotpos n)) = false
def clearM (s : State) (n : Nat) : Prop := s.regs.isMarked (keyM n) = false
def clearV (s : State) (n : BitVec 6) (lanes : BitVec 128) : Prop := s.markedLane (s.vphys n) lanes = none

/-- The guard reads true, and the instruction takes place; or reads false, and it has no effect (R28). -/
def runs (s : State) (g : BitVec 4) : Prop := s.clearP g.toNat ∧ s.valP g.toNat = true
def skips (s : State) (g : BitVec 4) : Prop := s.clearP g.toNat ∧ s.valP g.toNat = false

/-- The guard is true and the source registers can be read. -/
def reads1 (s : State) (g : BitVec 4) (a : BitVec 6) : Prop := s.runs g ∧ s.clearG a
def reads2 (s : State) (g : BitVec 4) (a b : BitVec 6) : Prop := s.reads1 g a ∧ s.clearG b
def reads3 (s : State) (g : BitVec 4) (a b c : BitVec 6) : Prop := s.reads2 g a b ∧ s.clearG c

/-- The guard is true, and the mask and the active lanes of the source vectors can be read (R128). -/
def vreads0 (s : State) (g : BitVec 4) (m : BitVec 3) : Prop := s.runs g ∧ s.clearM m.toNat
def vreads1 (s : State) (g : BitVec 4) (m : BitVec 3) (a : BitVec 6) : Prop := s.vreads0 g m ∧ s.clearV a (s.valM m.toNat)
def vreads2 (s : State) (g : BitVec 4) (m : BitVec 3) (a b : BitVec 6) : Prop :=
  s.vreads1 g m a ∧ s.clearV b (s.valM m.toNat)
def vreads3 (s : State) (g : BitVec 4) (m : BitVec 3) (a b c : BitVec 6) : Prop :=
  s.vreads2 g m a b ∧ s.clearV c (s.valM m.toNat)

/-- Registers an instruction copies or lands into, and an address that is a legal, aligned pool access (R195, R218). -/
def poolOk (s : State) (addr : Word) (n align off : Nat) : Prop := s.poolAddr addr n = .ok off ∧ off % align = 0

/-- Pool spans that are legal and aligned (R195, R302). -/
def spansOk (s : State) (l : List (Word × Nat × Nat × Nat)) : Prop :=
  ∀ x ∈ l, (s.poolAddr x.1 x.2.1).toOption.isSome = true ∧ x.1.toNat % x.2.2.1 = 0

/-- A pair granted to the issuing context (R272). -/
def grantedPair (s : State) (pn : Nat) (upd : Bool) : Prop :=
  s.me.xgrant.getLsbD (2 * pn) = true ∧ (upd = true → s.me.xgrant.getLsbD (2 * pn + 1) = true)

/-- A pair granted to the issuing context, enabled, not occupied, within the limit of R303 (R272, R279, R281). -/
def pairFree (s : State) (pn : Nat) (upd : Bool) : Prop :=
  s.grantedPair pn upd ∧ s.occupied (s.pidOf pn) = false ∧ s.pairPeak (s.pidOf pn) ≤ 4 ∧
    (s.pair (s.pidOf pn)).pstate ≠ 1 ∧ (s.pair (s.pidOf pn)).pstate ≠ 2

/-- A permute of slot `s.cur.slot` has landed: lane `l` of vd takes `val l` where there is one, and bit `l` of the validity mask,
m6 from slot V0 and m7 from slot V1, is `ok l`; both `n` beats from now (R131, R153). -/
def permuted (s t : State) (d : BitVec 6) (n : Nat) (val : Nat → Option Half) (ok : Nat → Bool) : Prop :=
  ∃ (vals : List (Nat × Half)) (v : BitVec 128), t = (s.landV d vals n).landM (if s.cur.slot = 1 then 6 else 7) v n ∧
    (vals.map (·.1)).Nodup ∧ (∀ l x, (l, x) ∈ vals ↔ l < 128 ∧ val l = some x) ∧ ∀ l, l < 128 → v.getLsbD l = ok l

/-! ### Items in flight -/

/-- Item `k` of context `c` is the one an event names, and it is to happen now. -/
def due (s : State) (c k : Nat) (it : Item) : Prop :=
  s.arg 0 = c ∧ s.arg 1 = k ∧ (s.ctx c).items[k]? = some it ∧ s.itemDue c it = true

/-- An act is in flight for the issuing context, `n` beats from now, put there by the issuing slot. -/
def flies (s t : State) (n : Nat) (a : Act) : Prop :=
  ∃ it ∈ t.me.items, it.due = s.beat + n ∧ it.act = a ∧ it.slot = s.cur.slot ∧ it.issued = s.beat

/-- One act has been put in flight, `n` beats from now, and nothing has landed. -/
def queues (s t : State) (n : Nat) (a : Act) : Prop :=
  t.regs = s.regs ∧ t.mem = s.mem ∧ t.beat = s.beat ∧ ∃ it : Item, it.due = s.beat + n ∧ it.act = a ∧ it.slot = s.cur.slot ∧
    it.issued = s.beat ∧ ∀ x, x ∈ t.me.items ↔ x = it ∨ x ∈ s.me.items

/-- The state that has taken an item out of those in flight; a read or later is kept for an undo (R12, log entry 8). -/
def without (s : State) (c : Nat) (it : Item) : State :=
  (if it.act.rank < 10 then s else s.keepUndo c).modCtx c fun x => { x with items := x.items.erase it }

/-! ### Resources: free for a list of reservations, and the state that has made them (R144, R148, R208) -/

def freeFor : List (Res × Nat × Word) → State → Prop
  | [], _ => True
  | (r, b, _) :: l, s => s.holder r b = none ∧ freeFor l (s.addClaim r b)

def reserved : List (Res × Nat × Word) → State → State
  | [], s => s
  | (r, b, _) :: l, s => reserved l (s.addClaim r b)

def linesFree : List Located → State → Prop
  | [], _ => True
  | (_, n, h, _) :: l, s =>
    lineBad s.geom s.myGang.lines h.unit h.bank (s.beat + n) = false ∧ linesFree l (s.addLine h (s.beat + n))

def linesTaken : List Located → State → State
  | [], s => s
  | (_, n, h, _) :: l, s => linesTaken l (s.addLine h (s.beat + n))

/-- The banks that accesses of the issuing tile use `n` beats from now. -/
def banks (s : State) (n : Nat) (accs : List (Nat × Nat)) : List (Res × Nat × Word) :=
  bankClaims (tileOf s.cur.ctx) (s.beat + n) accs

/-- The banks of `groups` row groups of 256 bytes, one a cycle from `first` beats on (R183). -/
def groupBanks (s : State) (first groups off : Nat) : List (Res × Nat × Word) :=
  (List.range groups).flatMap fun i => bankClaims (tileOf s.cur.ctx) (s.beat + first + i) [(off + 256 * i, 256)]

/-- A command whose block lies at a legal place and passes the checks of R348, in the order of that rule. -/
def commandOk (s : State) (op : Nat) (g : BitVec 4) (a : BitVec 6) (e : BitVec 1) (k : BitVec 4) (off : Nat)
    (bad : Cmd → Bool) (areas : Cmd → List Area) : Prop :=
  s.reads1 g a ∧ s.poolOk (s.valG a) 64 64 off ∧ s.poolMarked off 64 = false ∧
    ((s.readCmd op off e k).badCommon || bad (s.readCmd op off e k)) = false ∧ outstanding s.me < 64 ∧
    s.me.areaFault (areas (s.readCmd op off e k)) = none ∧ freeFor (s.banks 0 [(off, 64)]) s

/-- The issuing slot's command after its block has been read (R346, R351). -/
def issued (s : State) (op : Nat) (t : BitVec 6) (e : BitVec 1) (k : BitVec 4) (off : Nat) (clear : Bool) : State :=
  (reserved (s.banks 0 [(off, 64)]) s).bindCmd t.toNat clear (s.readCmd op off e k)

end State

end Sys2Proof.Machine
end

