-- ==== Sys2Proof/Certificates/Slice0/Obligations.lean ====
section
/-! DEFINITION. The statements for the provers: encodings, the step, results of every slot instruction, traps and returns,
frames, and the events of the machine. -/

open Sys2Proof Sys2Proof.Machine
open Sys2Proof.Machine.State (freeFor reserved linesFree linesTaken)

/-! ### Encodings (spec 04) -/

/-- Decoding the encoded words of a well-formed instruction, in any slot of its class that may hold its opcode, gives the
instruction back: no bit of an encoding is dropped (R77, R78, R80, R83). -/
def Obligations.EncodeThenDecode : Prop :=
  ∀ (acc slot : Nat) (i : Instr) (c : SlotClass) (w : Half) (x : Option Half),
    i.wellFormed acc = true → encode i = some (c, w, x) → slotClass slot = c → slot < 6 →
    slotForbidden slot (w.extractLsb' 25 7).toNat = false → decodeSlot acc slot w x = .ok i

/-- Every word that decodes is the encoding of what it decodes to, and that is well-formed: each word has one meaning, and no
reserved word is taken for another. An owned X word comes back too, save where `mset` and `mset.range` own one that they do not use
(R78, R79, R80, R83). -/
def Obligations.DecodeThenEncode : Prop :=
  ∀ (acc slot : Nat) (w : Half) (x : Option Half) (i : Instr),
    decodeSlot acc slot w x = .ok i → (x.isSome = true → xForm (slotClass slot) (w.extractLsb' 25 7).toNat = true) →
    i.wellFormed acc = true ∧ ∃ y, encode i = some (slotClass slot, w, y) ∧
      (y = x ∨ (y = none ∧ slotClass slot = .V ∧ (w.extractLsb' 25 7).toNat = 0x2E))

/-- Words written out from the spec's tables decode to the instructions they stand for, one of each class and more: the
worked example of spec 05 and fields laid out by R77 and R78. -/
def Obligations.DecodedWords : Prop :=
  decodeSlot 8 0 0x30010000 none = .ok (.movi 0 2 (.short 0)) ∧
  decodeSlot 8 0 0x8A000210 none = .ok (.loopg 0 0 1 (.short 0x10)) ∧
  decodeSlot 8 0 0x40020618 none = .ok (.mul 0 4 3 3 0) ∧
  decodeSlot 8 0 0x52108464 none = .ok (.cmpi 0 2 1 2 (.short 0x64)) ∧
  decodeSlot 8 0 0x06000000 none = .ok (.or 0 0 0 0) ∧
  decodeSlot 8 0 0x30010000 (some 0xFFFFFFFF) = .ok (.movi 0 2 (.ext 0xFFFFFFFF)) ∧
  decodeSlot 8 1 (0x30#7 ++ 1#4 ++ 2#6 ++ 3#6 ++ 4#6 ++ 5#3) none = .ok (.vfadd 1 2 3 4 5) ∧
  decodeSlot 8 3 (0x00#7 ++ 0#4 ++ 0#6 ++ 0#6 ++ 0#6 ++ 2#3) none = .ok (.mma 0 2) ∧
  decodeSlot 8 4 (0x00#7 ++ 0#4 ++ 7#6 ++ 8#6 ++ 9#6 ++ 3#3) none = .ok (.ld 0 7 8 9 3 none)

/-- R75: with `off` the template's offset within its line, the bundle raises a bundle-boundary fault (0x01) at its issue when
`off` plus its length exceeds 64, whatever follows the template: only the template byte decides, and the following line is not read.
R76: a padding template at offset 0 of a line raises an illegal-bundle fault (0x02), and at any other offset it is legal, also as a
branch's target, and the fetch moves on to the next line. -/
def Obligations.BundleBoundaries : Prop :=
  (∀ (acc off : Nat) (t : Byte) (rest : List Byte), t ≠ 0 → 64 < off + bundleLen t →
    fetchBundle acc off (t :: rest) = .bad ⟨0x01, 0x01, 0xFF⟩) ∧
  (∀ (acc : Nat) (rest : List Byte), fetchBundle acc 0 (0 :: rest) = .bad ⟨0x02, 0x02, 0xFF⟩) ∧
  (∀ (acc off : Nat) (rest : List Byte), off ≠ 0 → fetchBundle acc off (0 :: rest) = .padding) ∧
  (∀ s : State, let pc := s.regs.pc.toNat
    let t := s.code (tileOf s.cur.ctx) pc
    let bad (code : Nat) : State := (s.modCur fun c => { c with slot := 0xFF }).raise code code
    s.frameValid s.cur.ctx pc = true → s.marked (storeAt (tileOf s.cur.ctx) pc) 1 = false →
    (t ≠ 0 → 64 < pc % 64 + bundleLen t → exec .bundleFetch s = .next (bad 0x01)) ∧
    (t = 0 → pc % 64 = 0 → exec .bundleFetch s = .next (bad 0x02)) ∧
    (t = 0 → pc % 64 ≠ 0 → exec .bundleFetch s = .next ((s.modMe fun x => { x with
      regs := { x.regs with pc := BitVec.ofNat 16 (pc - pc % 64 + 64) } }).modCur fun c => { c with moved := true })))

/-- R87: `nop` is the slot word 0x0600_0000 of `or g0, g0, g0`; it lands nothing, and the bundle that holds it lasts one
cycle. -/
def Obligations.NopLandsNothing : Prop :=
  encode (.or 0 0 0 0) = some (.S, 0x06000000, none) ∧
  (∀ s : State, s.reads2 0 0 0 → exec (.or 0 0 0 0) s = .next s) ∧
  (∀ s : State, s.cur.idle = none → s.cur.pin = none → s.cur.drain = false → s.nextBeat = s.beat + 1)

/-! ### The step -/

/-- What the step does: an event of the machine is executed with its operands, and a context that issues runs the slots of the
bundle that its program counter's bytes decode to, in order, on the state that has staged it; a bundle that consumes a poisoned
operand takes that fault first, and an empty one idles. What the slots look at beforehand is the cursor's alone (R27, R30, R83,
R380). -/
def Obligations.StepRunsDecodedInstruction : Prop :=
  (∀ (s : State) (i : Instr) (args : List Nat), s.pick = .event i args → step s = exec i { s with ev := args }) ∧
  (∀ (s : State) (x : Input), s.pick = .input x →
    step s = exec x.what { s with ev := x.args, inputs := s.inputs.erase x }) ∧
  (∀ (s : State) (c : Nat) (b : Bundle), s.pick = .issue c → (s.aim c).frameValid c (s.aim c).regs.pc.toNat = true →
    (s.aim c).marked (storeAt (tileOf c) (s.aim c).regs.pc.toNat) 1 = false → (s.aim c).fetched = .bundle b →
    (s.aim c).pastLoop (s.aim c).regs.pc.toNat = false →
    let t := (s.aim c).stage b
    (b.slots = [] → step s = exec .emptyBundle t) ∧
    (b.slots ≠ [] → t.poisonSlot b.slots = none → step s = State.runSlots b.slots (t.lookAhead b.slots)) ∧
    (b.slots ≠ [] → ∀ k u, t.poisonSlot b.slots = some (k, u) → step s = .next u ∨ step s = .next (u.setMore t.cur.ctx))) ∧
  (∀ (s : State) (l : List (Nat × Instr)), ∃ a, s.lookAhead l = s.modCur fun u => { u with ahead := a }) ∧
  (∀ (s : State) (i : Instr) (k : Nat) (r : List (Nat × Instr)) (t : State),
    exec i (s.modCur fun u => { u with slot := k }) = .next t → t.cur.faulted = false →
    State.runSlots ((k, i) :: r) s = State.runSlots r t) ∧
  (∀ s : State, State.runSlots [] s = .next s.finishBundle)

/-- Every step of a module with its supply goes on; without it, only what comes from outside does, and with nothing to come
nothing runs, which is the model's reading (log entry 49) (R439, R443). -/
def Obligations.EveryStepGoesOn : Prop :=
  (∀ s : State, s.power = true → s.goesOn) ∧
  (∀ s : State, s.power = false → s.inputs = [] → s.strays = [] → step s = .fault .noPower) ∧
  (∀ s : State, s.power = false → s.inputs ≠ [] ∨ s.strays ≠ [] → s.goesOn)

/-- Memory keeps its canonical form under every step: addresses strictly rising, and no entry equal to what an unlisted address
reads as (log entry 1). -/
def Obligations.MemoryStaysCanonical : Prop :=
  ∀ s t : State, s.Sound → step s = .next t → t.Sound

/-- What reset leaves: the values R20, R21, R22 and R25 give a context of an empty bank and R438 the registers of BAR0, memory
in canonical form, and boot pending. THERM's TTRIP is the model's choice (log entry 7). -/
def Obligations.ResetValues : Prop :=
  State.reset.Sound ∧ State.reset.ctxs = [] ∧ State.reset.gangs = [] ∧ State.reset.boot = .due ∧
  (∀ c, (State.reset.ctx c).run = .empty) ∧
  (∀ c n, (State.reset.ctx c).regs.gr n = 0) ∧ (∀ c n, n ≠ 0 → (State.reset.ctx c).regs.pr n = false) ∧
  (∀ c, (State.reset.ctx c).regs.loops = [] ∧ (State.reset.ctx c).regs.fstat = 0) ∧
  State.reset.fnum = 0xFFFF ∧ State.reset.hstat = 0 ∧ State.reset.pwrlim = 0x960 ∧ State.reset.wdog = 0x1000 ∧
  State.reset.calper = 0xE10 ∧ State.reset.geo = .idle ∧ State.reset.ttrip = 0x69

/-- Nothing that is to happen at a beat is passed over: when the halyard is about to advance, every item whose turn has come
is a read of a frozen gang, which is held (R11, R30, R390). -/
def Obligations.NothingDueIsPassedOver : Prop :=
  ∀ (s : State) (c : Nat) (it : Item), s.power = true → s.boot = .over → s.pick = .event .halyardBeat [] →
    c ∈ tkeys s.ctxs → it ∈ (s.ctx c).items → s.itemDue c it = true →
    10 ≤ it.act.rank ∧ it.act.rank < 20 ∧ s.gangFrozen (s.ctx c).gang = true

/-! ### Scalar instructions (spec 05) -/

/-- Results of the integer register operations, landing one beat after issue, and of products, landing three after (R98, R100,
R104). -/
def Obligations.IntegerRegisterResults : Prop :=
  ∀ (s : State) (g : BitVec 4) (d a b : BitVec 6) (m p : BitVec 3), s.reads2 g a b →
    let x := s.valG a
    let y := s.valG b
    exec (.add g d a b m) s = .next (s.landG d (amOut m.toNat (amIn m.toNat x + amIn m.toNat y)) 1) ∧
    exec (.sub g d a b m) s = .next (s.landG d (amOut m.toNat (amIn m.toNat x - amIn m.toNat y)) 1) ∧
    exec (.and g d a b) s = .next (s.landG d (x &&& y) 1) ∧
    exec (.or g d a b) s = .next (s.landG d (x ||| y) 1) ∧
    exec (.xor g d a b) s = .next (s.landG d (x ^^^ y) 1) ∧
    exec (.andn g d a b) s = .next (s.landG d (x &&& ~~~y) 1) ∧
    exec (.shl g d a b) s = .next (s.landG d (x <<< (y.toNat % 64)) 1) ∧
    exec (.shr g d a b) s = .next (s.landG d (x >>> (y.toNat % 64)) 1) ∧
    exec (.sar g d a b) s = .next (s.landG d (x.sshiftRight (y.toNat % 64)) 1) ∧
    exec (.rotl g d a b) s = .next (s.landG d (x.rotateLeft (y.toNat % 64)) 1) ∧
    exec (.min g d a b) s = .next (s.landG d (if y.toInt < x.toInt then y else x) 1) ∧
    exec (.max g d a b) s = .next (s.landG d (if x.toInt < y.toInt then y else x) 1) ∧
    exec (.minn g d a b) s = .next (s.landG d (if y.toNat < x.toNat then y else x) 1) ∧
    exec (.maxn g d a b) s = .next (s.landG d (if x.toNat < y.toNat then y else x) 1) ∧
    (s.clearP p.toNat → exec (.sel g d a b p) s = .next (s.landG d (if s.valP p.toNat then x else y) 1)) ∧
    exec (.popc g d a) s = .next (s.landG d (BitVec.ofNat 64 (popcount x)) 1) ∧
    exec (.mul g d a b m) s = .next (s.landG d (amOut m.toNat (amIn m.toNat x * amIn m.toNat y)) 3) ∧
    exec (.mulh g d a b) s = .next (s.landG d (BitVec.ofInt 64 (x.toInt * y.toInt / 2 ^ 64)) 3) ∧
    exec (.mulhn g d a b) s = .next (s.landG d (BitVec.ofNat 64 (x.toNat * y.toNat / 2 ^ 64)) 3)

/-- R99: the arithmetic modifier in the mod field of `add`, `sub` and `mul`: width, signedness, wrapping or saturation of the exact
value; 7 is reserved, detail 0x0B. -/
def Obligations.ArithmeticModifier : Prop :=
  (∀ x : Word, amIn 0 x = x.toInt ∧ amIn 1 x = (x.setWidth 32).toInt ∧ amIn 2 x = ((x.setWidth 32).toNat : Int) ∧
    amIn 3 x = x.toInt ∧ amIn 4 x = (x.toNat : Int) ∧ amIn 5 x = (x.setWidth 32).toInt ∧
    amIn 6 x = ((x.setWidth 32).toNat : Int)) ∧
  (∀ v : Int, amOut 0 v = BitVec.ofInt 64 v ∧ amOut 1 v = (BitVec.ofInt 32 v).signExtend 64 ∧
    amOut 2 v = (BitVec.ofInt 32 v).setWidth 64 ∧
    (amOut 3 v).toInt = max (-2 ^ 63) (min (2 ^ 63 - 1) v) ∧ ((amOut 4 v).toNat : Int) = max 0 (min (2 ^ 64 - 1) v) ∧
    (amOut 5 v).toInt = max (-2 ^ 31) (min (2 ^ 31 - 1) v) ∧ ((amOut 6 v).toNat : Int) = max 0 (min (2 ^ 32 - 1) v)) ∧
  (∀ (s : State) (g : BitVec 4) (d a b : BitVec 6) (m : BitVec 3), s.reads2 g a b →
    let x := amIn m.toNat (s.valG a)
    let y := amIn m.toNat (s.valG b)
    exec (.add g d a b m) s = .next (s.landG d (amOut m.toNat (x + y)) 1) ∧
    exec (.sub g d a b m) s = .next (s.landG d (amOut m.toNat (x - y)) 1) ∧
    exec (.mul g d a b m) s = .next (s.landG d (amOut m.toNat (x * y)) 3)) ∧
  (∀ (acc : Nat) (w : Half), (w.extractLsb' 25 7).toNat ∈ [0x00, 0x01, 0x20] →
    (w.extractLsb' 0 3 = 7 → decodeSlot acc 0 w none = .error 0x0B) ∧
    (w.extractLsb' 0 3 ≠ 7 → (w.extractLsb' 15 6).toNat < 32 → (w.extractLsb' 9 6).toNat < 32 → (w.extractLsb' 3 6).toNat < 32 →
      ∃ g d a b m, m = w.extractLsb' 0 3 ∧ (decodeSlot acc 0 w none = .ok (.add g d a b m) ∨
        decodeSlot acc 0 w none = .ok (.sub g d a b m) ∨ decodeSlot acc 0 w none = .ok (.mul g d a b m))))

/-- Results of immediates, constants and bit fields, landing one beat after issue, `muli` three; what `clz` and `ctz` count, and each bit
of what `bext` takes and `bins` puts by the descriptor's position and length (R101, R102, R103, R104). -/
def Obligations.ImmediateAndFieldResults : Prop :=
  (∀ (s : State) (g : BitVec 4) (d a b : BitVec 6) (im : Imm 9) (n : BitVec 9) (w : BitVec 3) (sx : BitVec 1) (h : Half),
    s.reads1 g a →
    let x := s.valG a
    exec (.addi g d a im) s = .next (s.landG d (x + immS im) 1) ∧
    exec (.andi g d a im) s = .next (s.landG d (x &&& immS im) 1) ∧
    exec (.ori g d a im) s = .next (s.landG d (x ||| immS im) 1) ∧
    exec (.xori g d a im) s = .next (s.landG d (x ^^^ immS im) 1) ∧
    exec (.shli g d a n) s = .next (s.landG d (x <<< n.toNat) 1) ∧
    exec (.shri g d a n) s = .next (s.landG d (x >>> n.toNat) 1) ∧
    exec (.sari g d a n) s = .next (s.landG d (x.sshiftRight n.toNat) 1) ∧
    exec (.rotli g d a n) s = .next (s.landG d (x.rotateLeft n.toNat) 1) ∧
    exec (.movi g d im) s = .next (s.landG d (immS im) 1) ∧
    exec (.muli g d a im) s = .next (s.landG d (x * immS im) 3) ∧
    exec (.movhi g d a h) s = .next (s.landG d (h ++ x.setWidth 32) 1) ∧
    exec (.clz g d a) s = .next (s.landG d (BitVec.ofNat 64 (clz64 x)) 1) ∧
    exec (.ctz g d a) s = .next (s.landG d (BitVec.ofNat 64 (ctz64 x)) 1) ∧
    exec (.sxt g d a w) s = .next (s.landG d (Word.ofInt (sextN (8 * 2 ^ w.toNat) x.toNat)) 1) ∧
    exec (.zxt g d a w) s = .next (s.landG d (BitVec.ofNat 64 (x.toNat % 2 ^ (8 * 2 ^ w.toNat))) 1) ∧
    (s.clearG b → exec (.bext g d a b sx) s = .next (s.landG d (bextVal (sx = 1) x (s.valG b)) 1)) ∧
    (s.clearG b → s.clearG d → exec (.bins g d a b) s = .next (s.landG d (binsVal (s.valG d) x (s.valG b)) 1))) ∧
  (∀ x : Word, x ≠ 0 → clz64 x < 64 ∧ x.getLsbD (63 - clz64 x) = true ∧ (∀ i, 63 - clz64 x < i → x.getLsbD i = false) ∧
    ctz64 x < 64 ∧ x.getLsbD (ctz64 x) = true ∧ ∀ i, i < ctz64 x → x.getLsbD i = false) ∧
  clz64 0 = 64 ∧ ctz64 0 = 64 ∧
  (∀ x y old : Word, let pos := y.toNat % 64
    let len := min (y.toNat / 256 % 128) 64
    ∀ i, i < 64 → (bextVal false x y).getLsbD i = (decide (i < len) && x.getLsbD (pos + i)) ∧
      (bextVal true x y).getLsbD i = (decide (0 < len) && x.getLsbD (pos + min i (min len (64 - pos) - 1))) ∧
      (binsVal old x y).getLsbD i = (if pos ≤ i ∧ i < pos + len then x.getLsbD (i - pos) else old.getLsbD i))

/-- R105: division truncates toward zero and the remainder takes the dividend's sign, so that a = q × b + r; a zero divisor
gives a quotient of all ones and the dividend as remainder; −2^63 by −1 gives −2^63 and 0; neither faults or raises a flag. -/
def Obligations.DivisionRule : Prop :=
  (∀ x y : Word, y ≠ 0 → ¬ (x.toInt = -2 ^ 63 ∧ y.toInt = -1) →
    x.toInt = (divS x y).toInt * y.toInt + (remS x y).toInt ∧ (remS x y).toInt.natAbs < y.toInt.natAbs ∧
    (0 ≤ x.toInt → 0 ≤ (remS x y).toInt) ∧ (x.toInt ≤ 0 → (remS x y).toInt ≤ 0)) ∧
  (∀ x y : Word, y ≠ 0 → x.toNat = (divU x y).toNat * y.toNat + (remU x y).toNat ∧ (remU x y).toNat < y.toNat) ∧
  (∀ x : Word, divS x 0 = BitVec.allOnes 64 ∧ divU x 0 = BitVec.allOnes 64 ∧ remS x 0 = x ∧ remU x 0 = x) ∧
  (∀ x y : Word, x.toInt = -2 ^ 63 → y.toInt = -1 → (divS x y).toInt = -2 ^ 63 ∧ remS x y = 0) ∧
  (∀ (s : State) (g : BitVec 4) (d a b : BitVec 6), s.reads2 g a b →
    exec (.div g d a b) s = .next (s.landG d (divS (s.valG a) (s.valG b)) 16) ∧
    exec (.rem g d a b) s = .next (s.landG d (remS (s.valG a) (s.valG b)) 16) ∧
    exec (.divn g d a b) s = .next (s.landG d (divU (s.valG a) (s.valG b)) 16) ∧
    exec (.remn g d a b) s = .next (s.landG d (remU (s.valG a) (s.valG b)) 16))

/-- R106: `cmp` lands its predicate one beat after issue under the eight conditions of its table; a destination p0 discards
the result, and a d field of 16 to 63 raises detail 0x0B. -/
def Obligations.CompareRule : Prop :=
  (∀ (s : State) (g : BitVec 4) (d a b : BitVec 6), s.reads2 g a b →
    let x := s.valG a
    let y := s.valG b
    exec (.cmp g d a b 0) s = .next (s.landP d.toNat (x = y) 1) ∧
    exec (.cmp g d a b 1) s = .next (s.landP d.toNat (x ≠ y) 1) ∧
    exec (.cmp g d a b 2) s = .next (s.landP d.toNat (x.toInt < y.toInt) 1) ∧
    exec (.cmp g d a b 3) s = .next (s.landP d.toNat (x.toInt ≤ y.toInt) 1) ∧
    exec (.cmp g d a b 4) s = .next (s.landP d.toNat (x.toNat < y.toNat) 1) ∧
    exec (.cmp g d a b 5) s = .next (s.landP d.toNat (x.toNat ≤ y.toNat) 1) ∧
    exec (.cmp g d a b 6) s = .next (s.landP d.toNat (x &&& y ≠ 0) 1) ∧
    exec (.cmp g d a b 7) s = .next (s.landP d.toNat (x &&& y = 0) 1)) ∧
  (∀ (s : State) (v : Bool) (n : Nat), s.landP 0 v n = s) ∧
  (∀ (acc : Nat) (w : Half), w.extractLsb' 25 7 = 0x28 → 16 ≤ (w.extractLsb' 15 6).toNat → decodeSlot acc 0 w none = .error 0x0B)

/-- R107: `cmpi` compares with its immediate, sign-extended to 64 bits from imm9 or from the X word, under its four conditions,
with the predicate in d[3:0] and the condition in d[5:4]; the latency is one cycle. -/
def Obligations.CompareImmediateRule : Prop :=
  (∀ (s : State) (g p : BitVec 4) (a : BitVec 6) (im : Imm 9), s.reads1 g a →
    let x := s.valG a
    let i := immS im
    exec (.cmpi g 0 p a im) s = .next (s.landP p.toNat (x = i) 1) ∧
    exec (.cmpi g 1 p a im) s = .next (s.landP p.toNat (x ≠ i) 1) ∧
    exec (.cmpi g 2 p a im) s = .next (s.landP p.toNat (x.toInt < i.toInt) 1) ∧
    exec (.cmpi g 3 p a im) s = .next (s.landP p.toNat (x.toNat < i.toNat) 1)) ∧
  (∀ (v : BitVec 9) (x : Half), (immS (.short v)).toInt = v.toInt ∧ (immS (.ext x : Imm 9)).toInt = x.toInt) ∧
  (∀ (acc : Nat) (g p : BitVec 4) (c : BitVec 2) (a : BitVec 6) (v : BitVec 9) (x : Half), a.toNat < 32 →
    decodeSlot acc 0 (0x29#7 ++ g ++ (c ++ p) ++ a ++ v) none = .ok (.cmpi g c p a (.short v)) ∧
    decodeSlot acc 0 (0x29#7 ++ g ++ (c ++ p) ++ a ++ 0#9) (some x) = .ok (.cmpi g c p a (.ext x)))

/-- Predicate operations; `pset.all` lands p1 to p15 from bits 1 to 15, and `pget.all` gathers the sixteen predicates under
their rotated names, when each of them can be read (R108, R133). -/
def Obligations.PredicateResults : Prop :=
  (∀ (s : State) (g : BitVec 4) (d a b : BitVec 6), s.runs g → s.clearP a.toNat → s.clearP b.toNat →
    let x := s.valP a.toNat
    let y := s.valP b.toNat
    exec (.pand g d a b) s = .next (s.landP d.toNat (x && y) 1) ∧
    exec (.por g d a b) s = .next (s.landP d.toNat (x || y) 1) ∧
    exec (.pxor g d a b) s = .next (s.landP d.toNat (x != y) 1) ∧
    exec (.pandn g d a b) s = .next (s.landP d.toNat (x && !y) 1) ∧
    exec (.pget g d a) s = .next (s.landG d (if x then 1 else 0) 1)) ∧
  (∀ (s : State) (g : BitVec 4) (d a : BitVec 6), s.reads1 g a →
    let v := (List.range' 1 15).map fun n => (preg s.regs.rotpos n, (s.valG a).getLsbD n)
    exec (.pset g d a) s = .next (s.landP d.toNat (s.valG a ≠ 0) 1) ∧
    exec (.psetAll g a) s = .next ((claimPreds s (v.map (·.1))).push 1 (.preds v) 1)) ∧
  (∀ (s : State) (g : BitVec 4) (d : BitVec 6), s.runs g → (∀ n, n < 16 → s.clearP n) →
    ∃ v : Word, exec (.pgetAll g d) s = .next (s.landG d v 1) ∧ ∀ n, v.getLsbD n = (decide (n < 16) && s.valP n))

/-- Scalar floating point: one rounded result in the upper-zeroed register with its flags, four beats after issue, sixteen for a
quotient or a root, three for a conversion; a stochastic mode takes a draw. The operations are the exact real result of their operands
rounded once by R52, or by R53 on the bits drawn, with the zeros, infinities, NaNs and flags of R50 and R58; minima and maxima are the
least and greatest operand, compares the order of the values; conversions saturate with NV (R49 to R53, R55 to R58, R98, R109 to R111).
The sign of an exact zero under `.rs` is the model's choice (log entry 57). -/
def Obligations.ScalarFloatResults : Prop :=
  (∀ (s : State) (g : BitVec 4) (d a b : BitVec 6) (r : BitVec 3), s.reads2 g a b →
    let x := s.valG a
    let y := s.valG b
    let md := Rnd.ofCode r.toNat
    let q (F : Fmt) (op : Fmt → Rnd → Nat → Nat → Nat → Nat × Flags) (n : Nat) : State :=
      (s.landFp d (op F md (s.rbits 0) (fpArg F x) (fpArg F y)) n).drewIf md
    let u (F : Fmt) (z : Word) : State :=
      (s.landFp d (fpFma F md (s.rbits 0) (fpArg F x) (fpArg F y) (fpArg F z)) 4).drewIf md
    exec (.fadd g d a b r) s = .next (q .fp32 fpAdd 4) ∧
    exec (.fsub g d a b r) s = .next (q .fp32 fpSub 4) ∧
    exec (.fmul g d a b r) s = .next (q .fp32 fpMul 4) ∧
    exec (.fdiv g d a b r) s = .next (q .fp32 fpDiv 16) ∧
    exec (.faddBf16 g d a b r) s = .next (q .bf16 fpAdd 4) ∧
    exec (.fsubBf16 g d a b r) s = .next (q .bf16 fpSub 4) ∧
    exec (.fmulBf16 g d a b r) s = .next (q .bf16 fpMul 4) ∧
    exec (.fdivBf16 g d a b r) s = .next (q .bf16 fpDiv 16) ∧
    exec (.fsqrt g d a r) s = .next ((s.landFp d (fpSqrt .fp32 md (s.rbits 0) (fpArg .fp32 x)) 16).drewIf md) ∧
    exec (.fsqrtBf16 g d a r) s = .next ((s.landFp d (fpSqrt .bf16 md (s.rbits 0) (fpArg .bf16 x)) 16).drewIf md) ∧
    (s.clearG d → exec (.fma g d a b r) s = .next (u .fp32 (s.valG d))) ∧
    (s.clearG d → exec (.fmaBf16 g d a b r) s = .next (u .bf16 (s.valG d))) ∧
    exec (.fcvtBf16Fp32 g d a r) s = .next ((s.landFp d (bf16OfFp32 md (s.rbits 0) (fpArg .fp32 x)) 3).drewIf md) ∧
    exec (.fcvtFp32Bf16 g d a) s = .next (s.landFp d (fp32OfBf16 (fpArg .bf16 x)) 3)) ∧
  (∀ (s : State) (g : BitVec 4) (d a b : BitVec 6) (c r : BitVec 3) (f : BitVec 1) (im : BitVec 3), s.reads2 g a b →
    let x := s.valG a
    let y := s.valG b
    let cc (F : Fmt) : Bool × Flags := fpCmp c.toNat (Ex.ofBits F (fpArg F x)) (Ex.ofBits F (fpArg F y))
    let v := intOfEx im.toNat (Rnd.ofCode r.toNat) (Ex.ofBits (fmtBit f) (fpArg (fmtBit f) x))
    exec (.fmin g d a b) s = .next (s.landFp d (fpMinMax false .fp32 (fpArg .fp32 x) (fpArg .fp32 y)) 4) ∧
    exec (.fmax g d a b) s = .next (s.landFp d (fpMinMax true .fp32 (fpArg .fp32 x) (fpArg .fp32 y)) 4) ∧
    exec (.fminBf16 g d a b) s = .next (s.landFp d (fpMinMax false .bf16 (fpArg .bf16 x) (fpArg .bf16 y)) 4) ∧
    exec (.fmaxBf16 g d a b) s = .next (s.landFp d (fpMinMax true .bf16 (fpArg .bf16 x) (fpArg .bf16 y)) 4) ∧
    exec (.fcmp g d a b c) s = .next ((s.landP d.toNat (cc .fp32).1 4).landFlags (cc .fp32).2 4) ∧
    exec (.fcmpBf16 g d a b c) s = .next ((s.landP d.toNat (cc .bf16).1 4).landFlags (cc .bf16).2 4) ∧
    exec (.ficvt g d a f im r) s = .next ((s.landG d (Word.ofInt v.1) 3).landFlags v.2 3) ∧
    exec (.ifcvt g d a f im r) s = .next ((s.landFp d
      (floatOfInt (fmtBit f) (Rnd.ofCode r.toNat) (s.rbits 0) (intArg im.toNat x)) 3).drewIf (Rnd.ofCode r.toNat))) ∧
  (∀ (s : State) (n : Nat), s.rbits n < 65536) ∧
  (∀ (F : Fmt) (md : Rnd) (n : Bool) (m : Nat) (e : Int) (rb : Nat), 0 < m → rb < 65536 →
    (md ≠ .rs → roundsTo F md n (m * 2 ^ e) (roundEx F md (.fin n m e))) ∧
    roundsRs n (m * 2 ^ e) rb (roundRs rb (.fin n m e))) ∧
  (∀ (F : Fmt) (md : Rnd) (rb a b c : Nat) (na nb nc : Bool) (ma mb mc : Nat) (ea eb ec : Int), rb < 65536 → (md = .rs → F = .bf16) →
    Ex.ofBits F a = .fin na ma ea → Ex.ofBits F b = .fin nb mb eb → Ex.ofBits F c = .fin nc mc ec →
    let x := ratVal na ma ea
    let y := ratVal nb mb eb
    let zero (z n k : Bool) : Bool := if z ∧ n = k then n else md = .rd
    roundsReal F md rb (zero (ma = 0 ∧ mb = 0) na nb) ((x + y : ℚ) : ℝ) (fpAdd F md rb a b) ∧
    roundsReal F md rb (zero (ma = 0 ∧ mb = 0) na (!nb)) ((x - y : ℚ) : ℝ) (fpSub F md rb a b) ∧
    roundsReal F md rb (na != nb) ((x * y : ℚ) : ℝ) (fpMul F md rb a b) ∧
    roundsReal F md rb (zero (ma * mb = 0 ∧ mc = 0) (na != nb) nc) ((x * y + ratVal nc mc ec : ℚ) : ℝ) (fpFma F md rb a b c) ∧
    (mb ≠ 0 → roundsReal F md rb (na != nb) ((x / y : ℚ) : ℝ) (fpDiv F md rb a b)) ∧
    (mb = 0 → fpDiv F md rb a b = if ma = 0 then (nanBits F, fNV) else (infBits F (na != nb), fDZ)) ∧
    (ma = 0 ∨ na = false → roundsReal F md rb na (Real.sqrt (x : ℝ)) (fpSqrt F md rb a)) ∧
    (ma ≠ 0 → na = true → fpSqrt F md rb a = (nanBits F, fNV))) ∧
  (∀ (F : Fmt) (md : Rnd) (rb a b c : Nat), (md = .rs → F = .bf16) →
    let x := Ex.ofBits F a
    let y := Ex.ofBits F b
    let z := Ex.ofBits F c
    let bad := (x.isInf && y.isZero) || (x.isZero && y.isInf)
    (x.isNan = true ∨ y.isNan = true → fpAdd F md rb a b = (nanBits F, flagIf (x.isSig || y.isSig) fNV) ∧
      fpSub F md rb a b = (nanBits F, flagIf (x.isSig || y.isSig) fNV) ∧
      fpMul F md rb a b = (nanBits F, flagIf (x.isSig || y.isSig) fNV) ∧
      fpDiv F md rb a b = (nanBits F, flagIf (x.isSig || y.isSig) fNV)) ∧
    (x.isNan = true → fpSqrt F md rb a = (nanBits F, flagIf x.isSig fNV)) ∧
    (bad = true → fpMul F md rb a b = (nanBits F, fNV) ∧ fpFma F md rb a b c = (nanBits F, fNV)) ∧
    (bad = false → x.isNan = true ∨ y.isNan = true ∨ z.isNan = true →
      fpFma F md rb a b c = (nanBits F, flagIf (x.isSig || y.isSig || z.isSig) fNV)) ∧
    (∀ n, x = .inf n →
      fpSqrt F md rb a = (if n then (nanBits F, fNV) else (infBits F false, 0)) ∧
      (y.isNan = false → y.isZero = false → fpMul F md rb a b = (infBits F (n != y.sign), 0) ∧
        fpMul F md rb b a = (infBits F (n != y.sign), 0)) ∧
      (∀ k, y = .inf k → fpAdd F md rb a b = (if n = k then (infBits F n, 0) else (nanBits F, fNV)) ∧
        fpSub F md rb a b = (if n = k then (nanBits F, fNV) else (infBits F n, 0)) ∧ fpDiv F md rb a b = (nanBits F, fNV)) ∧
      (∀ k m e, y = .fin k m e → fpAdd F md rb a b = (infBits F n, 0) ∧ fpAdd F md rb b a = (infBits F n, 0) ∧
        fpSub F md rb a b = (infBits F n, 0) ∧ fpSub F md rb b a = (infBits F (!n), 0) ∧
        fpDiv F md rb a b = (infBits F (n != k), 0) ∧ fpDiv F md rb b a = (signBits F (n != k), 0)))) ∧
  (∀ (F : Fmt) (a b : Nat), a < 2 ^ (F.p + 8) → b < 2 ^ (F.p + 8) →
    let x := Ex.ofBits F a
    let y := Ex.ofBits F b
    let lo := fpMinMax false F a b
    let hi := fpMinMax true F a b
    (x.isNan = true ∨ y.isNan = true → lo = (nanBits F, flagIf (x.isSig || y.isSig) fNV) ∧ hi = lo) ∧
    (x.isNan = false → y.isNan = false → lo.2 = 0 ∧ hi.2 = 0 ∧ (lo.1 = a ∨ lo.1 = b) ∧ (hi.1 = a ∨ hi.1 = b) ∧
      ¬exLess x (Ex.ofBits F lo.1) ∧ ¬exLess y (Ex.ofBits F lo.1) ∧ ¬exLess (Ex.ofBits F hi.1) x ∧ ¬exLess (Ex.ofBits F hi.1) y) ∧
    (∀ n k e f, x = .fin n 0 e → y = .fin k 0 f → lo.1 = signBits F (n || k) ∧ hi.1 = signBits F (n && k))) ∧
  (∀ (cc : Nat) (x y : Ex),
    (x.isNan = true ∨ y.isNan = true →
      fpCmp cc x y = (cc = 1 || cc = 6, flagIf (x.isSig || y.isSig || decide (2 ≤ cc ∧ cc ≤ 5)) fNV)) ∧
    (x.isNan = false → y.isNan = false → (fpCmp cc x y).2 = 0 ∧ ((fpCmp cc x y).1 = true ↔ match cc with
      | 0 => ¬exLess x y ∧ ¬exLess y x
      | 1 => exLess x y ∨ exLess y x
      | 2 => exLess x y
      | 3 => ¬exLess y x
      | 4 => exLess y x
      | 5 => ¬exLess x y
      | 6 => False
      | _ => True))) ∧
  (∀ (md : Rnd) (rb a : Nat), rb < 65536 →
    ((Ex.ofBits .fp32 a).isNan = true → bf16OfFp32 md rb a = (0x7FC0, flagIf (Ex.ofBits .fp32 a).isSig fNV)) ∧
    (∀ n, Ex.ofBits .fp32 a = .inf n → bf16OfFp32 md rb a = (infBits .bf16 n, 0)) ∧
    (∀ n m e, Ex.ofBits .fp32 a = .fin n m e → roundsReal .bf16 md rb n ((ratVal n m e : ℚ) : ℝ) (bf16OfFp32 md rb a)) ∧
    (a < 65536 → fp32OfBf16 a = if (Ex.ofBits .bf16 a).isNan then (0x7FC00000, flagIf (Ex.ofBits .bf16 a).isSig fNV)
      else (65536 * a, 0))) ∧
  (∀ (code : Nat) (md : Rnd), code < 8 → md ≠ .rs →
    let w := 8 * 2 ^ (code % 4)
    let lo : Int := if code < 4 then -2 ^ (w - 1) else 0
    let hi : Int := if code < 4 then 2 ^ (w - 1) - 1 else 2 ^ w - 1
    (∀ b, intOfEx code md (.nan b) = (0, fNV)) ∧ (∀ n, intOfEx code md (.inf n) = (if n then lo else hi, fNV)) ∧
    (∀ n m e, ∃ y : Int, intOf md (ratVal n m e) y ∧ intOfEx code md (.fin n m e) = if y < lo then (lo, fNV)
      else if hi < y then (hi, fNV) else (y, flagIf (decide ((y : ℚ) ≠ ratVal n m e)) fNX))) ∧
  (∀ (F : Fmt) (md : Rnd) (rb : Nat) (i : Int), rb < 65536 → (md = .rs → F = .bf16) →
    roundsReal F md rb false (i : ℝ) (floatOfInt F md rb i))

/-- Branches outside the places R37 forbids: taken with a true guard, the target and link as R112 gives them; a false guard
takes none and lands no link; either way the two delay bundles follow (R35). -/
def Obligations.BranchResults : Prop :=
  (∀ (s : State) (g : BitVec 4) (d a : BitVec 6) (im : Imm 9), s.branchForbidden = false → s.runs g →
    let go (t : State) (n : Nat) : State := t.modMe fun x => { x with delay := some ⟨true, BitVec.ofNat 16 n, 3⟩ }
    let rel := (s.cur.pc.setWidth 64 + immS im).toNat % 65536
    let lk := s.landG d (Word.ofNat s.linkAddr) 1
    exec (.br g im) s = .next (go s rel) ∧ exec (.brl g d im) s = .next (go lk rel) ∧
    (s.clearG a → exec (.brx g a) s = .next (go s ((s.valG a).toNat % 65536)) ∧
      exec (.brlx g d a) s = .next (go lk ((s.valG a).toNat % 65536)))) ∧
  (∀ (s : State) (g : BitVec 4) (d a : BitVec 6) (im : Imm 9), s.branchForbidden = false → s.skips g →
    let no := s.modMe fun x => { x with delay := some ⟨false, 0, 3⟩ }
    exec (.br g im) s = .next no ∧ exec (.brl g d im) s = .next no ∧ exec (.brx g a) s = .next no ∧
    exec (.brlx g d a) s = .next no)

/-- Loops push an entry that starts after the loop's bundle, or skip the body at a count of 0; a fifth level and an end past the
store are illegal; `pin` holds the next bundle to its cycle, or slips when late: the next bundle issues at the latest of the end of the
bundle's own idle run, the pinned cycle, and for `drain` the completion cycle of the tile's own traffic (R27, R38, R40, R42, R114, R116,
R237). -/
def Obligations.LoopAndPinResults : Prop :=
  (∀ (s : State) (g : BitVec 4) (r : BitVec 1) (x : Half) (a : BitVec 6) (im : Imm 9), s.me.delay = none → s.runs g →
    let enter (count off : Nat) : State := s.modMe fun y => { y with regs := { y.regs with
      loops := ⟨BitVec.ofNat 16 (s.cur.pc.toNat + s.cur.len), BitVec.ofNat 16 (s.cur.pc.toNat + off), count, r = 1⟩ :: y.regs.loops } }
    let past (off : Nat) : State := s.modCur fun c => { c with
      jump := some (BitVec.ofNat 16 (s.seqNext (tileOf s.cur.ctx) (s.cur.pc.toNat + off))) }
    let result (count off : Nat) : State :=
      if 65536 ≤ s.cur.pc.toNat + off ∨ 4 ≤ s.regs.loops.length then s.raise 0x03 0x0F
      else if count = 0 then past off else enter count off
    exec (.loop g r x) s = .next (result (x.toNat % 65536) (x.toNat / 65536)) ∧
    (s.clearG a → exec (.loopg g r a im) s = .next (result ((s.valG a).toNat % 2 ^ 32) (immU im)))) ∧
  (∀ (s : State) (g : BitVec 4) (im : Imm 9), s.runs g →
    exec (.pin g im) s = .next (if immU im < s.hcyc s.cur.ctx then s.raise 0x09 0x01
      else s.modCur fun c => { c with pin := some (immU im) })) ∧
  (∀ s : State, let own := match s.cur.idle with
      | some n => s.beat + 2 + n.toNat
      | none => s.beat + 1
    let pinned := match s.cur.pin with
      | some n => s.me.hbase + n
      | none => 0
    s.nextBeat = max (max own pinned) (if s.cur.drain then max (State.lastDrain s.me) (s.beat + 1) else 0) ∧
    (State.collides s.beat s.me.lands = none → s.cur.wait = none → s.cur.trap = none → s.finishBundle.me.nextAt = s.nextBeat)) ∧
  (∀ x : Ctx, (∀ it ∈ x.items, it.dr ≤ State.lastDrain x) ∧ (State.lastDrain x = 0 ∨ ∃ it ∈ x.items, it.dr = State.lastDrain x)) ∧
  (∀ (s : State) (n fin dr : Nat) (a : Act), 0 < dr → ∃ it ∈ (s.push n a fin dr).me.items, it.act = a ∧ it.dr = s.beat + dr)

/-- The rendezvous forms outside delay bundles leave the bundle waiting with their form, and `waitk` with its counter and the
count it waits for; when the bundle is over its context waits, up to beat max(b + 1, L) where L is the latest beat at which something it
issued lands or performs, an array operation among it, and on for a counter not yet reached (R43, R117, R280, R356, R357). -/
def Obligations.RendezvousResults : Prop :=
  (∀ (s : State) (g k : BitVec 4) (n : BitVec 9) (a : BitVec 6), s.me.delay = none → s.runs g →
    let w (f : Rdv) (k : Nat) (n : BitVec 16) : State := s.modCur fun c => { c with wait := some ⟨f, 0, k, n, false, 0, 0⟩ }
    exec (.rdv g) s = .next (w .rdv 0 0) ∧ exec (.rdvfin g) s = .next (w .rdvfin 0 0) ∧
    exec (.predwait g) s = .next (w .predwait 0 0) ∧ exec (.swapctx g) s = .next (w .swapctx 0 0) ∧
    exec (.waitk g k n) s = .next (w .waitk k.toNat (n.setWidth 16)) ∧
    (s.clearG a → exec (.waitkReg g k a) s = .next (w .waitk k.toNat ((s.valG a).setWidth 16)))) ∧
  (∀ (s : State) (w : Wait), s.cur.wait = some w → State.collides s.beat s.me.lands = none → s.cur.trap = none →
    let t := s.finishBundle
    let e := max (s.beat + 1) (State.lastFin s.me)
    t.me.run = .waiting ∧ t.me.hz = s.hcyc s.cur.ctx + 1 ∧ t.me.items = s.me.items ∧ t.mem = s.mem ∧
    ∃ v, t.me.wait = some v ∧ v.form = w.form ∧ v.k = w.k ∧ v.n = w.n ∧ v.ends = e ∧ v.w = s.beat ∧ v.hc = e - s.me.hbase ∧
      (v.pend = true ↔ w.form = .waitk ∧ 32768 ≤ (tget 0 s.regs.k w.k - w.n).toNat)) ∧
  (∀ x : Ctx, (∀ it ∈ x.items, it.fin ≤ State.lastFin x) ∧ (∀ o ∈ x.ops, o.2.last + 1 ≤ State.lastFin x) ∧
    (State.lastFin x = 0 ∨ (∃ it ∈ x.items, it.fin = State.lastFin x) ∨ ∃ o ∈ x.ops, o.2.last + 1 = State.lastFin x))

/-- Special-register moves, and the system instructions: `mfs` returns each register of R21 and R121 at issue, zero-extended; `mts` and
`mtsi` land in FSTAT, BURG, SEEDLO, SEEDHI or TARG and are an illegal operation on the other registers, and an index that names none is
detail 0x0B at decode; `trig`, `trap`, whose gang is frozen from the next beat on, `sburg` and `draw`: the generator's words, and
consecutive counts for the draws of one bundle (R54, R120 to R125). -/
def Obligations.SystemResults : Prop :=
  (∀ (s : State) (g : BitVec 4) (d u a : BitVec 6) (im : Imm 9) (c : BitVec 9), s.reads1 g a →
    let put (v : Word) : State := if u ∈ [0x07#6, 0x08#6, 0x09#6, 0x0A#6, 0x11#6]
      then (s.claimLand (keyS u.toNat) 1).push 1 (.sreg u.toNat v) 1 else s.raise 0x03 0x0F
    exec (.mfs g d u) s = .next (s.landG d (s.sreg u.toNat) 1) ∧
    (sregAssigned u.toNat = true → exec (.mts g u a) s = .next (put (s.valG a)) ∧ exec (.mtsi g u im) s = .next (put (immS im))) ∧
    exec (.trig g) s = .next (s.modMe fun x => { x with trig := true }) ∧
    exec (.trap g c) s = .next ((s.modMe fun x => { x with regs := { x.regs with
      tcode := c.setWidth 16, tbeat := BitVec.ofNat 64 s.beat } }).modCur fun k => { k with trap := some c }) ∧
    exec (.sburg g a) s = .next ((s.claimLand (keyS 0x08) 1 (soft := true)).push 1 (.fold [s.valG a]) 1) ∧
    exec (.draw g d) s = .next (((s.landG d (s.drawWord 0) 1).push 1 (.draws 1)).modCur fun k => { k with draws := k.draws + 1 })) ∧
  (∀ (lo hi dcnt : Word) (n : Nat),
    let mix (x : Word) : Word := (x ^^^ (x >>> 31)) * 0xD2B74C198E63A0F5#64
    let x := mix (mix ((lo ^^^ hi.rotateLeft 23 ^^^ dcnt * 0xA5C396D14E2B7F03#64) + BitVec.ofNat 64 n * 0x6F1D8B27C4A93E55#64))
    genNext lo hi dcnt n = x ^^^ (x >>> 29)) ∧
  (∀ (s : State) (n : Nat) (r : Nat × Flags) (d : BitVec 6) (k : Nat),
    s.drawWord n = genNext s.regs.seedlo s.regs.seedhi (s.regs.dcnt + BitVec.ofNat 64 s.cur.draws) n ∧
    s.rbits n = (s.drawWord n).toNat % 65536 ∧
    ((s.landFp d r k).drewIf .rs).drawWord n =
      genNext s.regs.seedlo s.regs.seedhi (s.regs.dcnt + BitVec.ofNat 64 (s.cur.draws + 1)) n ∧
    (∀ md, md ≠ .rs → ((s.landFp d r k).drewIf md).drawWord n = s.drawWord n)) ∧
  (∀ (s : State) (g : BitVec 4) (d : BitVec 6) (n : Nat), s.runs g → ∃ t, exec (.draw g d) s = .next t ∧
    t.drawWord n = genNext s.regs.seedlo s.regs.seedhi (s.regs.dcnt + BitVec.ofNat 64 (s.cur.draws + 1)) n) ∧
  (∀ (s : State) (c : BitVec 9), s.cur.trap = some c → State.collides s.beat s.me.lands = none →
    (s.finishBundle.gang s.me.gang).fz = some ⟨s.beat + 1, .trap, none⟩ ∧ s.finishBundle.me.nextAt = s.nextBeat) ∧
  (∀ s : State, s.sreg 0x00 = BitVec.ofNat 64 (s.hcyc s.cur.ctx) ∧ s.sreg 0x01 = BitVec.ofNat 64 s.beat ∧
    s.sreg 0x02 = BitVec.ofNat 64 (tileOf s.cur.ctx) ∧ s.sreg 0x03 = BitVec.ofNat 64 (s.me.gang % 65536) ∧
    s.sreg 0x04 = s.me.ctxid.setWidth 64 ∧ s.sreg 0x05 = s.me.asid.setWidth 64 ∧ s.sreg 0x06 = s.me.part.setWidth 64 ∧
    s.sreg 0x07 = s.regs.fstat.setWidth 64 ∧ s.sreg 0x08 = s.regs.burg ∧ s.sreg 0x09 = s.regs.seedlo ∧
    s.sreg 0x0A = s.regs.seedhi ∧ s.sreg 0x0B = s.regs.dcnt ∧ s.sreg 0x0C = BitVec.ofNat 64 s.regs.rotpos ∧
    s.sreg 0x0D = s.me.budget ∧ s.sreg 0x0E = s.me.deadln ∧ s.sreg 0x10 = s.regs.tcode.setWidth 64 ∧ s.sreg 0x11 = s.regs.targ ∧
    s.sreg 0x12 = s.regs.tbeat ∧ s.sreg 0x13 = s.me.rply.setWidth 64) ∧
  (∀ n : Nat, n < 64 → (sregAssigned n = true ↔ n ≤ 0x0E ∨ (0x10 ≤ n ∧ n ≤ 0x13))) ∧
  (∀ (acc : Nat) (g : BitVec 4) (r u : BitVec 6) (v : BitVec 9) (x : Half), r.toNat < 32 → sregAssigned u.toNat = false →
    decodeSlot acc 0 (0x49#7 ++ g ++ r ++ u ++ 0#9) none = .error 0x0B ∧
    decodeSlot acc 0 (0x4A#7 ++ g ++ u ++ r ++ 0#9) none = .error 0x0B ∧
    decodeSlot acc 0 (0x4B#7 ++ g ++ u ++ 0#6 ++ v) none = .error 0x0B ∧
    decodeSlot acc 0 (0x4B#7 ++ g ++ u ++ 0#15) (some x) = .error 0x0B)

/-! ### Vector instructions (spec 07): `k` is the mask, `x` and `y` the lanes of the sources; only active lanes land (R128) -/

/-- Integer lane arithmetic, landing two beats after issue (R154, R155). -/
def Obligations.VectorIntegerResults : Prop :=
  ∀ (s : State) (g : BitVec 4) (d a b : BitVec 6) (m : BitVec 3), s.vreads2 g m a b →
    let v (f : Half → Half → Half) : Host.Outcome State Fault Refusal :=
      .next (s.landV d (lanes2 (s.valM m.toNat) f (s.valV a) (s.valV b)) 2)
    exec (.vadd g d a b m) s = v (· + ·) ∧ exec (.vsub g d a b m) s = v (· - ·) ∧ exec (.vmul g d a b m) s = v (· * ·) ∧
    exec (.vmulh g d a b m) s = v (fun x y => BitVec.ofInt 32 (x.toInt * y.toInt / 2 ^ 32)) ∧
    exec (.vmulhn g d a b m) s = v (fun x y => BitVec.ofNat 32 (x.toNat * y.toNat / 2 ^ 32)) ∧
    exec (.vmin g d a b m) s = v (fun x y => if y.toInt < x.toInt then y else x) ∧
    exec (.vmax g d a b m) s = v (fun x y => if x.toInt < y.toInt then y else x) ∧
    exec (.vminn g d a b m) s = v (fun x y => if y.toNat < x.toNat then y else x) ∧
    exec (.vmaxn g d a b m) s = v (fun x y => if x.toNat < y.toNat then y else x) ∧
    exec (.vand g d a b m) s = v (· &&& ·) ∧ exec (.vor g d a b m) s = v (· ||| ·) ∧ exec (.vxor g d a b m) s = v (· ^^^ ·) ∧
    exec (.vandn g d a b m) s = v (fun x y => x &&& ~~~y) ∧
    exec (.vshl g d a b m) s = v (fun x y => x <<< (y.toNat % 32)) ∧
    exec (.vshr g d a b m) s = v (fun x y => x >>> (y.toNat % 32)) ∧
    exec (.vsar g d a b m) s = v (fun x y => x.sshiftRight (y.toNat % 32)) ∧
    exec (.vadds g d a b m) s = v (fun x y => BitVec.ofInt 32 (max (-2 ^ 31) (min (x.toInt + y.toInt) (2 ^ 31 - 1)))) ∧
    exec (.vaddsn g d a b m) s = v (fun x y => BitVec.ofNat 32 (min (x.toNat + y.toNat) (2 ^ 32 - 1))) ∧
    exec (.vsubs g d a b m) s = v (fun x y => BitVec.ofInt 32 (max (-2 ^ 31) (min (x.toInt - y.toInt) (2 ^ 31 - 1)))) ∧
    exec (.vsubsn g d a b m) s = v (fun x y => BitVec.ofNat 32 (x.toNat - y.toNat)) ∧
    exec (.vadd16 g d a b m) s = v (halves (· + ·)) ∧ exec (.vsub16 g d a b m) s = v (halves (· - ·)) ∧
    exec (.vadds16 g d a b m) s = v (halves fun x y => max (-2 ^ 15) (min (x + y) (2 ^ 15 - 1))) ∧
    exec (.vsubs16 g d a b m) s = v (halves fun x y => max (-2 ^ 15) (min (x - y) (2 ^ 15 - 1))) ∧
    exec (.vmul16 g d a b m) s = v (fun x y => BitVec.ofInt 32
      ((x.extractLsb' 0 16).toInt * (y.extractLsb' 0 16).toInt + (x.extractLsb' 16 16).toInt * (y.extractLsb' 16 16).toInt))

/-- Absolute value, negation, moves, immediates and shifts by a constant; `vsel` lands every lane and reads each source only where
it selects it. The absolute value and the negation of an integer wrap or saturate; those of a floating-point value change its sign bit
alone, and a NaN gives the canonical one, with NV where it is signalling (R156). -/
def Obligations.VectorMoveResults : Prop :=
  (∀ (s : State) (g : BitVec 4) (d a k : BitVec 6) (m : BitVec 3) (n : BitVec 5), s.vreads1 g m a →
    let q := s.valM m.toNat
    let x := s.valV a
    let fl (neg : Bool) : State :=
      let r := lanesF q (fun _ z _ _ => absNeg neg k.toNat z) x x x
      (s.landV d r.1 (absLat k.toNat)).landFlags r.2 (absLat k.toNat)
    exec (.vabs g d a k m) s = .next (fl false) ∧ exec (.vneg g d a k m) s = .next (fl true) ∧
    exec (.vmov g d a m) s = .next (s.landV d (lanes1 q id x) 2) ∧
    exec (.vshli g d a n m) s = .next (s.landV d (lanes1 q (fun z => z <<< n.toNat) x) 2) ∧
    exec (.vsari g d a n m) s = .next (s.landV d (lanes1 q (fun z => z.sshiftRight n.toNat) x) 2)) ∧
  (∀ (s : State) (g : BitVec 4) (d a : BitVec 6) (m : BitVec 3) (im : Imm 12), s.vreads0 g m →
    let splat (v : Half) : State := s.landV d (lanes1 (s.valM m.toNat) (fun _ => v) (List.replicate 128 0)) 2
    exec (.vmovi g d im m) s = .next (splat ((immS im).setWidth 32)) ∧
    (s.clearG a → exec (.vmovScalar g d a m) s = .next (splat ((s.valG a).setWidth 32)))) ∧
  (∀ (s : State) (g : BitVec 4) (d a b : BitVec 6) (m : BitVec 3), s.vreads1 g m a → s.clearV b (~~~(s.valM m.toNat)) →
    exec (.vsel g d a b m) s = .next (s.landV d (((List.range 128).zip ((s.valV a).zip (s.valV b))).map
      fun (l, x, y) => (l, if (s.valM m.toNat).getLsbD l then x else y)) 2)) ∧
  (∀ (neg : Bool) (z : Half), let v : Int := if neg then -z.toInt else |z.toInt|
    absNeg neg 0 z = ((BitVec.ofInt 32 v).toNat, 0) ∧
    absNeg neg 1 z = ((BitVec.ofInt 32 (min v (2 ^ 31 - 1))).toNat, 0) ∧
    ∀ (kind : Nat) (F : Fmt), (kind, F) ∈ [(2, Fmt.fp32), (3, Fmt.bf16)] →
      let sign : Nat := if F = .fp32 then 2 ^ 31 else 2 ^ 15
      let b := z.toNat % (2 * sign)
      absLat kind = 4 ∧ absLat (kind - 2) = 2 ∧
      (∀ g, Ex.ofBits F b = .nan g → absNeg neg kind z = (nanBits F, flagIf g fNV)) ∧
      ((Ex.ofBits F b).isNan = false → absNeg neg kind z = (if neg then b ^^^ sign else b % sign, 0)))

/-- Compares of vectors land a whole mask register whose inactive bits are 0, floating-point ones raising NV by active lanes; mask
operations, population count, mask constants, and the digest of pairs of lanes of which one is active, an inactive one as zero; a write to m0
lands nothing (R127, R157, R158, R172). -/
def Obligations.VectorCompareAndMaskResults : Prop :=
  (∀ (s : State) (g : BitVec 4) (f : BitVec 1) (d m : BitVec 3) (a b : BitVec 6), s.vreads2 g m a b →
    let k := s.valM m.toNat
    let c (p : Half → Half → Bool) : Host.Outcome State Fault Refusal :=
      .next (s.landM d.toNat (maskOf k ((List.range 128).zip (List.zipWith p (s.valV a) (s.valV b)))) 2)
    let fc (cc : Nat) : Host.Outcome State Fault Refusal :=
      let r := (List.range 128).zip (List.zipWith (fun x y =>
        fpCmp cc (Ex.ofBits (fmtBit f) (fpLane (fmtBit f) x)) (Ex.ofBits (fmtBit f) (fpLane (fmtBit f) y))) (s.valV a) (s.valV b))
      .next ((s.landM d.toNat (maskOf k (r.map fun (l, v) => (l, v.1))) 4).landFlags
        (orFlags ((r.filter fun (l, _) => k.getLsbD l).map fun (_, v) => v.2)) 4)
    exec (.vcmpeq g d a b m) s = c (fun x y => x == y) ∧ exec (.vcmpne g d a b m) s = c (fun x y => x != y) ∧
    exec (.vcmplt g d a b m) s = c (fun x y => decide (x.toInt < y.toInt)) ∧
    exec (.vcmple g d a b m) s = c (fun x y => decide (x.toInt ≤ y.toInt)) ∧
    exec (.vcmpltn g d a b m) s = c (fun x y => decide (x.toNat < y.toNat)) ∧
    exec (.vcmplen g d a b m) s = c (fun x y => decide (x.toNat ≤ y.toNat)) ∧
    exec (.vfcmpeq g f d a b m) s = fc 0 ∧ exec (.vfcmplt g f d a b m) s = fc 2 ∧ exec (.vfcmple g f d a b m) s = fc 3) ∧
  (∀ (s : State) (g : BitVec 4) (d a b : BitVec 6) (m : BitVec 3), s.vreads0 g m → s.clearM a.toNat → s.clearM b.toNat →
    let x := s.valM a.toNat
    let y := s.valM b.toNat
    exec (.mand g d a b) s = .next (s.landM d.toNat (x &&& y) 2) ∧
    exec (.mor g d a b) s = .next (s.landM d.toNat (x ||| y) 2) ∧
    exec (.mxor g d a b) s = .next (s.landM d.toNat (x ^^^ y) 2) ∧
    exec (.mandn g d a b) s = .next (s.landM d.toNat (x &&& ~~~y) 2) ∧
    exec (.mpop g d a m) s = .next (s.landG d (Word.ofNat (maskPop (x &&& s.valM m.toNat))) 2)) ∧
  (∀ (s : State) (g : BitVec 4) (d a b : BitVec 6) (x : Half), s.reads2 g a b →
    exec (.mset g d a b) s = .next (s.landM d.toNat (s.valG b ++ s.valG a) 2) ∧
    exec (.msetPat g d x) s = .next (s.landM d.toNat (x ++ x ++ x ++ x) 2) ∧
    (∃ v : BitVec 128, exec (.msetRange g d a b) s = .next (s.landM d.toNat v 2) ∧
      ∀ l, v.getLsbD l = (decide (l < 128) && decide ((s.valG a).toNat ≤ l) && decide (l < (s.valG b).toNat)))) ∧
  (∀ (s : State) (g : BitVec 4) (a : BitVec 6) (m : BitVec 3), s.vreads1 g m a →
    let ws := burgWords (s.valM m.toNat) (s.valV a)
    exec (.vburg g a m) s = .next (if ws = [] then s else
      (s.claimLand (keyS 0x08) 6 (soft := true)).push 6 (.fold ws) 6)) ∧
  (∀ (k : BitVec 128) (xs : List Half), let lane (l : Nat) : Half := if k.getLsbD l then xs.getD l 0 else 0
    burgWords k xs = (List.range 64).filterMap fun j =>
      if k.getLsbD (2 * j) || k.getLsbD (2 * j + 1) then some (lane (2 * j + 1) ++ lane (2 * j)) else none) ∧
  (∀ (s : State) (v : BitVec 128) (n : Nat), s.landM 0 v n = s)

/-- Floating-point lanes: arithmetic to nearest even four beats after issue, `vbfma.rs` with a draw, division and special
functions eight, conversion three, each with the flags of its active lanes. What a lane of each is: the value converted or rounded
once, with saturation and NV; the reciprocal, the root and its reciprocal correctly rounded, and the other special functions at their
special operands; the probability of a pulse and its limits (R50, R53, R55 to R58, R159, R160, R164, R307). -/
def Obligations.VectorFloatResults : Prop :=
  (∀ (s : State) (g : BitVec 4) (d a b : BitVec 6) (m : BitVec 3), s.vreads2 g m a b →
    let v (n : Nat) (op : Half → Half → Nat × Flags) : Host.Outcome State Fault Refusal :=
      let r := lanesF (s.valM m.toNat) (fun _ x y _ => op x y) (s.valV a) (s.valV b) (s.valV b)
      .next ((s.landV d r.1 n).landFlags r.2 n)
    let r2 (F : Fmt) (op : Fmt → Rnd → Nat → Nat → Nat → Nat × Flags) (x y : Half) := op F .rne 0 (fpLane F x) (fpLane F y)
    exec (.vfadd g d a b m) s = v 4 (r2 .fp32 fpAdd) ∧ exec (.vfsub g d a b m) s = v 4 (r2 .fp32 fpSub) ∧
    exec (.vfmul g d a b m) s = v 4 (r2 .fp32 fpMul) ∧ exec (.vbadd g d a b m) s = v 4 (r2 .bf16 fpAdd) ∧
    exec (.vbsub g d a b m) s = v 4 (r2 .bf16 fpSub) ∧ exec (.vbmul g d a b m) s = v 4 (r2 .bf16 fpMul) ∧
    exec (.vfmin g d a b m) s = v 4 (fun x y => fpMinMax false .fp32 x.toNat y.toNat) ∧
    exec (.vfmax g d a b m) s = v 4 (fun x y => fpMinMax true .fp32 x.toNat y.toNat) ∧
    exec (.vfdiv g d a b m) s = v 8 (fun x y => fpDiv .fp32 .rne 0 x.toNat y.toNat)) ∧
  (∀ (s : State) (g : BitVec 4) (d a b : BitVec 6) (m : BitVec 3), s.vreads3 g m a b d →
    let v (F : Fmt) (md : Rnd) : Host.Outcome State Fault Refusal :=
      let r := lanesF (s.valM m.toNat) (fun l x y z => fpFma F md (s.rbits l) (fpLane F x) (fpLane F y) (fpLane F z))
        (s.valV a) (s.valV b) (s.valV d)
      .next (((s.landV d r.1 4).landFlags r.2 4).drewIf md)
    exec (.vfma g d a b m) s = v .fp32 .rne ∧ exec (.vbfma g d a b m) s = v .bf16 .rne ∧
    exec (.vbfmaRs g d a b m) s = v .bf16 .rs) ∧
  (∀ (s : State) (g : BitVec 4) (d a : BitVec 6) (k r m : BitVec 3) (f : BitVec 1), s.vreads1 g m a →
    let x := s.valV a
    let cv := lanesF (s.valM m.toNat) (fun l x _ _ => vcvtLane k.toNat (Rnd.ofCode r.toNat) (s.rbits l) x) x x x
    let u (h : Sfu) : Host.Outcome State Fault Refusal :=
      let r := lanesF (s.valM m.toNat) (fun _ x _ _ => sfuBits h (fmtBit f) (fpLane (fmtBit f) x)) x x x
      .next ((s.landV d r.1 8).landFlags r.2 8)
    exec (.vcvt g d a k r m) s = .next (((s.landV d cv.1 3).landFlags cv.2 3).drewIf (Rnd.ofCode r.toNat)) ∧
    exec (.vexp g d a f m) s = u .exp ∧ exec (.vlog g d a f m) s = u .log ∧ exec (.vrcp g d a f m) s = u .rcp ∧
    exec (.vrsqrt g d a f m) s = u .rsqrt ∧ exec (.vsqrt g d a f m) s = u .sqrt ∧ exec (.vtanh g d a f m) s = u .tanh ∧
    exec (.vsigm g d a f m) s = u .sigm ∧ exec (.vsin g d a f m) s = u .sin ∧ exec (.vcos g d a f m) s = u .cos) ∧
  (∀ (s : State) (g : BitVec 4) (d a b : BitVec 6) (m : BitVec 3), s.vreads1 g m a → s.clearG b →
    let F : Fmt := if (s.valG b).getLsbD 32 then .bf16 else .fp32
    let x := s.valV a
    let r := lanesF (s.valM m.toNat) (fun _ z _ _ =>
      xpprobLane F (Ex.ofBits .fp32 ((s.valG b).setWidth 32).toNat) (Ex.ofBits F (fpLane F z))) x x x
    exec (.xpprob g d a b m) s = .next ((s.landV d r.1 8).landFlags r.2 8)) ∧
  (∀ (md : Rnd) (rb : Nat) (x : Half), let lo := x.toNat % 65536
    let int (r : Int × Flags) : Nat × Flags := ((BitVec.ofInt 32 r.1).toNat, r.2)
    fpLane .fp32 x = x.toNat ∧ fpLane .bf16 x = lo ∧
    vcvtLane 0 md rb x = bf16OfFp32 md rb x.toNat ∧ vcvtLane 1 md rb x = fp32OfBf16 lo ∧
    vcvtLane 2 md rb x = int (intOfEx 2 md (Ex.ofBits .fp32 x.toNat)) ∧ vcvtLane 3 md rb x = int (intOfEx 6 md (Ex.ofBits .fp32 x.toNat)) ∧
    vcvtLane 4 md rb x = floatOfInt .fp32 md rb x.toInt ∧ vcvtLane 5 md rb x = floatOfInt .fp32 md rb x.toNat ∧
    vcvtLane 6 md rb x = floatOfInt .bf16 md rb x.toInt ∧ vcvtLane 7 md rb x = int (intOfEx 2 md (Ex.ofBits .bf16 lo))) ∧
  (∀ (F : Fmt) (sc v : Ex),
    let neg := v.sign != sc.sign
    let signed (n : Nat) : Nat := (if neg then 0x8000 else 0) + n
    (v.isNan = true ∨ sc.isNan = true → xpprobLane F sc v = (0, fNV)) ∧
    (v.isNan = false → sc.isNan = false →
      (v.isZero = true ∨ sc.isZero = true → xpprobLane F sc v = (signed 0, 0)) ∧
      (v.isZero = false → sc.isZero = false →
        (v.isInf = true ∨ sc.isInf = true → xpprobLane F sc v = (signed 0x3F80, 0)) ∧
        (∀ n m e k l f, v = .fin n m e → sc = .fin k l f → let x : ℝ := ((ratVal false m e * ratVal false l f : ℚ) : ℝ)
          (1 ≤ x → xpprobLane F sc v = (signed 0x3F80, 0)) ∧
          (x < 1 → ∃ r, roundsTo .bf16 .rne false x r ∧ xpprobLane F sc v = (signed r.1, 0)))))) ∧
  (∀ (F : Fmt) (a : Nat),
    let one : Nat := if F = .fp32 then 0x3F800000 else 0x3F80
    let half : Nat := if F = .fp32 then 0x3F000000 else 0x3F00
    let is (f : Sfu) (r : Nat × Flags) : Prop := sfuBits f F a = r
    (∀ g f, Ex.ofBits F a = .nan g → is f (nanBits F, flagIf g fNV)) ∧
    (∀ n, Ex.ofBits F a = .inf n →
      is .exp (if n then 0 else infBits F false, 0) ∧ is .log (if n then (nanBits F, fNV) else (infBits F false, 0)) ∧
      is .rcp (signBits F n, 0) ∧ is .rsqrt (if n then (nanBits F, fNV) else (0, 0)) ∧
      is .sqrt (if n then (nanBits F, fNV) else (infBits F false, 0)) ∧ is .tanh (signBits F n + one, 0) ∧
      is .sigm (if n then 0 else one, 0) ∧ is .sin (nanBits F, fNV) ∧ is .cos (nanBits F, fNV)) ∧
    (∀ n e, Ex.ofBits F a = .fin n 0 e →
      is .exp (one, 0) ∧ is .cos (one, 0) ∧ is .log (infBits F true, fDZ) ∧ is .rcp (infBits F n, fDZ) ∧ is .rsqrt (infBits F n, fDZ) ∧
      is .sqrt (signBits F n, 0) ∧ is .tanh (signBits F n, 0) ∧ is .sin (signBits F n, 0) ∧ is .sigm (half, 0)) ∧
    (∀ n m e, Ex.ofBits F a = .fin n m e → m ≠ 0 → let x : ℝ := ((ratVal n m e : ℚ) : ℝ)
      roundsReal F .rne 0 false (1 / x) (sfuBits .rcp F a) ∧
      (n = true → is .log (nanBits F, fNV) ∧ is .rsqrt (nanBits F, fNV) ∧ is .sqrt (nanBits F, fNV)) ∧
      (n = false → roundsReal F .rne 0 false (1 / Real.sqrt x) (sfuBits .rsqrt F a) ∧
        roundsReal F .rne 0 false (Real.sqrt x) (sfuBits .sqrt F a)) ∧
      (x = 1 → is .log (0, 0))))

/-- Block quantisation of the enabled clusters, and half of a block back into lanes; the scales of a block from its largest magnitude,
each element's byte and flags, and the integer nearest, ties to even (R61, R64, R162, R163). -/
def Obligations.QuantiseResults : Prop :=
  (∀ (s : State) (g : BitVec 4) (d a : BitVec 6) (f t : BitVec 1) (z : BitVec 5) (m : BitVec 3), s.vreads0 g m →
    s.clearV a (clusterMask (s.valM m.toNat)) → s.clearV (a + 1) (clusterMask (s.valM m.toNat)) →
    let blk (c : Nat) : List Ex := ((((s.valV a).drop (16 * c)).take 16) ++ (((s.valV (a + 1)).drop (16 * c)).take 16)).map
      fun x => Ex.ofBits (fmtBit f) (fpLane (fmtBit f) x)
    let out (q : List Ex → Quant) : Host.Outcome State Fault Refusal :=
      let rs := ((List.range 8).filter fun c => (s.valM m.toNat).getLsbD (16 * c)).map fun c => (c, q (blk c))
      .next ((s.landV d (rs.flatMap fun (c, r) => (List.range' (16 * c) 16).zip r.lanes) 3).landFlags
        (orFlags (rs.map fun (_, r) => r.flags)) 3)
    exec (.vqdxb g d a f z m) s = out (fun v => dxb8Quantise v (if z = 0 then 6 else z.toNat)) ∧
    exec (.vqmx g d a f t m) s = out (fun v => mx8Quantise v (t = 1))) ∧
  (∀ (s : State) (g : BitVec 4) (d a : BitVec 6) (f h t : BitVec 1) (m : BitVec 3), s.vreads0 g m →
    s.clearV a (blockLanes (s.valM m.toNat)) →
    let x := s.valV a
    let out (val : Nat → Nat → Nat → Ex) : Host.Outcome State Fault Refusal :=
      let r := lanesF (s.valM m.toNat) (fun l _ _ _ =>
        let blk := (x.drop (l / 16 * 16)).take 16
        roundEx (fmtBit f) .rne (val (packedByte blk (16 * h.toNat + l % 16)) (packedHi blk) (packedLo blk))) x x x
      .next ((s.landV d r.1 3).landFlags r.2 3)
    exec (.vdqdxb g d a f h m) s = out dxb8Value ∧
    exec (.vdqmx g d a t f h m) s = out (fun b sb _ => mx8Value (t = 1) b sb)) ∧
  (∀ (v : List Ex) (d : Nat) (e5 : Bool), (∃ g, Ex.nan g ∈ v) → dxb8Quantise v d = ⟨0xFF, 0xFF, List.replicate 32 0, fNV⟩ ∧
    mx8Quantise v e5 = ⟨0xFF, 0, List.replicate 32 0, fNV⟩) ∧
  (∀ (v : List Ex) (d : Nat) (e5 : Bool), (∀ x ∈ v, x.isZero = true) → dxb8Quantise v d = ⟨0, 0, List.replicate 32 0, 0⟩ ∧
    mx8Quantise v e5 = ⟨0, 0, List.replicate 32 0, 0⟩) ∧
  (∀ (v : List Ex) (d : Nat) (e5 : Bool), (∀ g, Ex.nan g ∉ v) → (∃ x ∈ v, x.isZero = false) →
    let top (l : Int) : Prop := (∃ n m e, Ex.fin n m e ∈ v ∧ m ≠ 0 ∧ floorLog m e = l) ∧
      ∀ n m e, Ex.fin n m e ∈ v → m ≠ 0 → floorLog m e ≤ l
    let q := dxb8Quantise v d
    let r := mx8Quantise v e5
    ((∃ n, Ex.inf n ∈ v) → q.hi = 254 ∧ r.hi = 0xFE) ∧
    ((∀ n, Ex.inf n ∉ v) → ∃ l, top l ∧ q.hi = (max 1 (min (l + 127) 254)).toNat ∧
      r.hi = (max 0 (min (l - (if e5 then 15 else 8) + 127) 254)).toNat) ∧
    q.lo = q.hi - d ∧ r.lo = 0 ∧ q.bytes = v.map (fun x => (dxb8Elem q.hi q.lo x).1) ∧
    r.bytes = v.map (fun x => (mx8Quant1 e5 r.hi x).1) ∧
    ∀ i, (q.flags.getLsbD i = true ↔ ∃ x ∈ v, (dxb8Elem q.hi q.lo x).2.getLsbD i = true) ∧
      (r.flags.getLsbD i = true ↔ ∃ x ∈ v, (mx8Quant1 e5 r.hi x).2.getLsbD i = true)) ∧
  (∀ (hi lo : Nat) (n : Bool), dxb8Elem hi lo (.inf n) = (63 + (if n then 128 else 0), fOF ||| fNX) ∧
    mx8Quant1 false hi (.inf n) = (0x7E + (if n then 128 else 0), fOF ||| fNX) ∧
    mx8Quant1 true hi (.inf n) = (0x7B + (if n then 128 else 0), fOF ||| fNX)) ∧
  (∀ (hi lo m : Nat) (n : Bool) (e : Int),
    let ml := riNat m (e + 132 - lo)
    let y := if ml ≤ 63 then ml else min (riNat m (e + 132 - hi)) 63
    let x : Int := if ml ≤ 63 then lo else hi
    let r := dxb8Elem hi lo (.fin n m e)
    r.1 = (if y = 0 then 0 else y + (if ml ≤ 63 then 64 else 0) + (if n then 128 else 0)) ∧
    (r.2.getLsbD 4 = true ↔ (y : ℚ) * 2 ^ (x - 132) ≠ m * (2 : ℚ) ^ e) ∧ (r.2.getLsbD 3 = true ↔ m ≠ 0 ∧ y = 0) ∧
    r.2 &&& 0x27#6 = 0) ∧
  (∀ (e5 : Bool) (sb m : Nat) (n : Bool) (e : Int),
    let mb : Nat := if e5 then 2 else 3
    let bias : Nat := if e5 then 15 else 7
    let f := e + 127 - sb
    let ee := max (floorLog m f) (1 - (bias : Int))
    let c := min ((ee + bias - 1).toNat * 2 ^ mb + riNat m (f - (ee - mb))) (if e5 then 0x7B else 0x7E)
    let r := mx8Quant1 e5 sb (.fin n m e)
    (m = 0 → r = (0, 0)) ∧
    (m ≠ 0 → r.1 = (if c = 0 then 0 else c + (if n then 128 else 0)) ∧ (r.2.getLsbD 3 = true ↔ c = 0) ∧
      (r.2.getLsbD 4 = true ↔ Ex.eqv (mx8Value e5 c sb) (.fin false m e) = false) ∧ r.2 &&& 0x27#6 = 0)) ∧
  (∀ m k : Nat, riNat m k = m * 2 ^ k ∧ 2 * m ≤ 2 * riNat m (-(k : Int)) * 2 ^ k + 2 ^ k ∧
    2 * riNat m (-(k : Int)) * 2 ^ k ≤ 2 * m + 2 ^ k ∧
    (2 * m = 2 * riNat m (-(k : Int)) * 2 ^ k + 2 ^ k ∨ 2 * m + 2 ^ k = 2 * riNat m (-(k : Int)) * 2 ^ k →
      0 < k → riNat m (-(k : Int)) % 2 = 0))

/-- Slides, cluster moves and permutes: an active lane L lands the lane its rule names where that lane is active and exists, with
validity 1, else its own lane, with validity 0; a masked-off lane lands nothing. `vcompress` and `visect` pack the chosen lanes of each
cluster at its low end, and every lane lands; `vexpand` spreads a cluster's first lanes over its active ones. The validity mask lands
with the vector, in m6 from slot V0 and m7 from slot V1 (R131, R153, R165 to R169). -/
def Obligations.PermuteResults : Prop :=
  (∀ (s : State) (g : BitVec 4) (d a b : BitVec 6) (k m : BitVec 3) (n : BitVec 4), s.vreads1 g m a →
    let act (l : Nat) : Bool := (s.valM m.toNat).getLsbD l
    let x (l : Nat) : Half := (s.valV a).getD l 0
    let pm (i : Instr) (lat : Nat) (src : Nat → Option Nat) : Prop := ∃ t, exec i s = .next t ∧ s.permuted t d lat
      (fun l => if act l then some (x (((src l).filter act).getD l)) else none) (fun l => act l && ((src l).filter act).isSome)
    pm (.vslideup g d a n m) 3 (fun l => if n.toNat ≤ l % 16 then some (l - n.toNat) else none) ∧
    pm (.vslidedn g d a n m) 3 (fun l => if l % 16 + n.toNat ≤ 15 then some (l + n.toNat) else none) ∧
    pm (.vxshl g d a k m) 4 (fun l => if 16 * k.toNat ≤ l then some (l - 16 * k.toNat) else none) ∧
    pm (.vxshr g d a k m) 4 (fun l => if l + 16 * k.toNat ≤ 127 then some (l + 16 * k.toNat) else none) ∧
    pm (.vxrotl g d a k m) 4 (fun l => some ((l + 128 - 16 * k.toNat) % 128)) ∧
    pm (.vxrotr g d a k m) 4 (fun l => some ((l + 16 * k.toNat) % 128)) ∧
    pm (.vxbcast g d a k m) 4 (fun l => some (16 * k.toNat + l % 16)) ∧
    (s.clearV b (s.valM m.toNat) → pm (.vperm g d a b m) 3 (fun l =>
      if ((s.valV b).getD l 0).toNat < 16 then some (l / 16 * 16 + ((s.valV b).getD l 0).toNat) else none))) ∧
  (∀ (s : State) (g : BitVec 4) (d a b : BitVec 6) (m : BitVec 3), s.vreads0 g m → s.clearV a (BitVec.allOnes 128) →
    let act (l : Nat) : Bool := (s.valM m.toNat).getLsbD l
    let x (l : Nat) : Half := (s.valV a).getD l 0
    let packed (i : Instr) (lat : Nat) (chosen : Nat → Bool) : Prop :=
      let sel (l : Nat) : List Nat := (List.range' (l / 16 * 16) 16).filter chosen
      ∃ t, exec i s = .next t ∧ s.permuted t d lat (fun l => some (x ((sel l).getD (l % 16) l)))
        (fun l => decide (l % 16 < (sel l).length))
    packed (.vcompress g d a m) 3 act ∧
    (∃ t, exec (.vexpand g d a m) s = .next t ∧ s.permuted t d 3 (fun l => if act l then
      some (x (l / 16 * 16 + ((List.range' (l / 16 * 16) (l % 16)).filter act).length)) else none) act) ∧
    (s.clearV b (s.valM m.toNat) → packed (.visect g d a b m) 4 (fun l => act l &&
      (List.range' (l / 16 * 16) 16).any fun i => act i && (s.valV b).getD i 0 == x l)))

/-- Reductions of the active lanes to a general register, and the running sums of `vscan`, six beats after issue: the tree of sums
rounded at each node, with +0 in a masked lane, the tree of minima or maxima with the operation's identity there, integer extremes, and
exact prefix sums, wrapped or saturated (R67, R170, R171). -/
def Obligations.ReductionResults : Prop :=
  (∀ (s : State) (g : BitVec 4) (d a : BitVec 6) (t : BitVec 2) (f n u e : BitVec 1) (m : BitVec 3), s.vreads1 g m a →
    let k := s.valM m.toNat
    let x := s.valV a
    let act := lanes1 k id x
    let mm (isMax : Bool) : State := (s.landG d (vredMm isMax t.toNat k x).1 6).landFlags (vredMm isMax t.toNat k x).2 6
    exec (.vredsum g d a f m) s = .next (s.landFp d (vredSum (fmtBit f) k x) 6) ∧
    exec (.vredmin g d a t m) s = .next (mm false) ∧ exec (.vredmax g d a t m) s = .next (mm true) ∧
    exec (.vredsumi g d a f m) s = .next (s.landG d
      (BitVec.ofInt 64 ((act.map fun v => if f = 1 then (v.2.toNat : Int) else v.2.toInt).foldl (· + ·) 0)) 6) ∧
    exec (.vscan g d a n u e m) s = .next (s.landV d (scanLanes (e = 1) (u = 1) (n = 1) 0 act) 6)) ∧
  (∀ (F : Fmt) (k : BitVec 128) (x : List Half), x.length = 128 → ∃ l : Nat → Nat → Ex,
    let sum (n j : Nat) : Ex × Flags := Ex.add .rne (l n (2 * j)) (l n (2 * j + 1))
    (∀ j, j < 128 → l 0 j = if k.getLsbD j then Ex.ofBits F (fpLane F (x.getD j 0)) else .fin false 0 0) ∧
    (∀ n j, n < 7 → j < 2 ^ (6 - n) → l (n + 1) j = Ex.ofBits .fp32 (roundEx .fp32 .rne (sum n j).1).1) ∧
    (vredSum F k x).1 = (roundEx F .rne (l 7 0)).1 ∧
    ∀ i, (vredSum F k x).2.getLsbD i = true ↔ (roundEx F .rne (l 7 0)).2.getLsbD i = true ∨
      ∃ n j, n < 7 ∧ j < 2 ^ (6 - n) ∧ ((sum n j).2 ||| (roundEx .fp32 .rne (sum n j).1).2).getLsbD i = true) ∧
  (∀ (isMax : Bool) (t : Nat) (k : BitVec 128) (x : List Half), x.length = 128 → t < 2 →
    let F : Fmt := if t = 0 then .fp32 else .bf16
    ∃ l : Nat → Nat → Nat,
    (∀ j, j < 128 → l 0 j = if k.getLsbD j then fpLane F (x.getD j 0) else infBits F isMax) ∧
    (∀ n j, n < 7 → j < 2 ^ (6 - n) → l (n + 1) j = (fpMinMax isMax F (l n (2 * j)) (l n (2 * j + 1))).1) ∧
    (vredMm isMax t k x).1 = BitVec.ofNat 64 (l 7 0) ∧
    ∀ i, (vredMm isMax t k x).2.getLsbD i = true ↔
      ∃ n j, n < 7 ∧ j < 2 ^ (6 - n) ∧ (fpMinMax isMax F (l n (2 * j)) (l n (2 * j + 1))).2.getLsbD i = true) ∧
  (∀ (isMax un : Bool) (k : BitVec 128) (x : List Half), x.length = 128 →
    let int (y : Half) : Int := if un then y.toNat else y.toInt
    let far : Int := if un then (if isMax then 0 else 2 ^ 32 - 1) else if isMax then -2 ^ 31 else 2 ^ 31 - 1
    let r := vredMm isMax (if un then 3 else 2) k x
    ∃ v : Int, r = (BitVec.ofInt 64 v, 0) ∧ (v = far ∨ ∃ j, j < 128 ∧ k.getLsbD j = true ∧ v = int (x.getD j 0)) ∧
      ∀ j, j < 128 → k.getLsbD j = true → (if isMax then int (x.getD j 0) ≤ v else v ≤ int (x.getD j 0))) ∧
  (∀ (ex sat un : Bool) (vs : List (Nat × Half)), (scanLanes ex sat un 0 vs).length = vs.length ∧
    ∀ i l x, vs[i]? = some (l, x) →
      let t : Int := ((vs.take (if ex then i else i + 1)).map fun y => if un then (y.2.toNat : Int) else y.2.toInt).sum
      (scanLanes ex sat un 0 vs)[i]? = some (l, BitVec.ofInt 32 (if !sat then t else if un then max 0 (min t (2 ^ 32 - 1))
        else max (-2 ^ 31) (min t (2 ^ 31 - 1)))))

/-! ### The matrix unit and the arrays (spec 08, 13, 14) -/

/-- An MMA 32 beats or more after the last claims 32 positions of both FIFOs and starts reading them at once; `zclr` lands +0 in
every element 40 beats on; `qdrop` claims n landed positions, or with n = 0 every reserved one, free from the next beat, whose
landings to come are discarded; an MMA within 32 cycles of the last is an illegal operation (R174, R177, R178, R180, R182, R184). -/
def Obligations.MatrixResults : Prop :=
  (∀ (s : State) (g : BitVec 4) (b a : BitVec 1) (z : BitVec 3), s.runs g →
    (s.regs.lastMma.any fun l => s.hcyc s.cur.ctx < l + 32) = false → s.fifoReady 0 32 id = true →
    (s.fifoClaimed 0 32 id).fifoReady 1 32 id = true →
    let u := (s.fifoClaimed 0 32 id).fifoClaimed 1 32 id
    let go (kind : Nat) (zs ta tb : Bool) : Host.Outcome State Fault Refusal :=
      .next ((u.modMe fun x => { x with regs := { x.regs with lastMma := some (s.hcyc s.cur.ctx) } }).push 0
        (.mmaRead kind zs ta tb z.toNat s.regs.q0.cq s.regs.q1.cq 0 [] []) 40)
    exec (.mma g z) s = go 0 false false false ∧ exec (.mmaZs g z) s = go 0 true false false ∧
    exec (.mmad g z) s = go 1 false false false ∧ exec (.mmadZs g z) s = go 1 true false false ∧
    exec (.mmx g b a z) s = go 2 false (a = 1) (b = 1) ∧ exec (.mmxZs g b a z) s = go 2 true (a = 1) (b = 1)) ∧
  (∀ (s : State) (g : BitVec 4) (z : BitVec 3), s.runs g →
    exec (.zclr g z) s = .next (s.push 40 (.zland z.toNat ((List.range 1024).map fun e => (e, 0)) []) 40)) ∧
  (∀ (s : State) (g : BitVec 4) (a : BitVec 6) (n : BitVec 9), s.runs g → n ≠ 0 →
    s.fifoReady a.toNat n.toNat (fun _ => 0) = true →
    exec (.qdrop g a n) s = .next (s.fifoClaimed a.toNat n.toNat fun _ => 0)) ∧
  (∀ (s : State) (g : BitVec 4) (a : BitVec 6), s.runs g → ∃ t, exec (.qdrop g a 0) s = .next t ∧
    let f := s.regs.fifo a.toNat
    let f' := t.regs.fifo a.toNat
    f'.cq = f.wq ∧ f'.wq = f.wq ∧ f'.slots = f.slots ∧ t.mem = s.mem ∧
    (∀ p, f.cq ≤ p → p < f.wq → tget 0 f'.free p = s.beat + 1 ∧
      tfind f'.land p = if s.beat < tget 0 f.land p then none else tfind f.land p) ∧
    ∀ p, p < f.cq ∨ f.wq ≤ p → tget 0 f'.free p = tget 0 f.free p ∧ tfind f'.land p = tfind f.land p) ∧
  (∀ (s : State) (c q p : Nat) (v : BitVec 512) (tag : BitVec 32) (mk : Bool), q < 2 →
    let r := (s.ctx c).regs
    let r' := ((s.landFifo c q [(p, v, tag, mk)]).ctx c).regs
    (tfind (r.fifo q).land p = none → r' = r) ∧
    ((tfind (r.fifo q).land p).isSome = true → tget (0, 0) (r'.fifo q).slots (p % 64) = (v, tag) ∧
      ∀ n, n ≠ p % 64 → tget (0, 0) (r'.fifo q).slots n = tget (0, 0) (r.fifo q).slots n)) ∧
  (∀ (s : State) (g : BitVec 4) (b a : BitVec 1) (z : BitVec 3), s.runs g →
    (s.regs.lastMma.any fun l => s.hcyc s.cur.ctx < l + 32) = true →
    ∀ i ∈ [Instr.mma g z, .mmaZs g z, .mmad g z, .mmadZs g z, .mmx g b a z, .mmxZs g b a z],
      exec i s = .next (s.raise 0x03 0x0F))

/-- `zld`, `zst` and `zstb` on an address that is legal and 256-aligned, with the banks of every row group free, reserve those banks
and put their first step in flight (R183). -/
def Obligations.AccumulatorMoves : Prop :=
  ∀ (s : State) (g : BitVec 4) (a : BitVec 6) (f : BitVec 1) (r z : BitVec 3) (off : Nat), s.reads1 g a →
    (s.poolOk (s.valG a) (256 * if f = 1 then 8 else 16) 256 off → freeFor (s.groupBanks 1 (if f = 1 then 8 else 16) off) s →
      exec (.zld g a f z) s = .next ((reserved (s.groupBanks 1 (if f = 1 then 8 else 16) off) s).push 1
        (.zldRow (f = 1) z.toNat off 0 [] [] 0) 40)) ∧
    (s.poolOk (s.valG a) (256 * 16) 256 off → freeFor (s.groupBanks 25 16 off) s →
      exec (.zst g a z) s = .next ((reserved (s.groupBanks 25 16 off) s).push 24
        (.zstRead false 0 z.toNat off 0 0 0) 40 41)) ∧
    (s.poolOk (s.valG a) (256 * 8) 256 off → freeFor (s.groupBanks 33 8 off) s →
      exec (.zstb g a r z) s = .next (((reserved (s.groupBanks 33 8 off) s).push 32
        (.zstRead true r.toNat z.toNat off s.regs.seedlo s.regs.seedhi (s.regs.dcnt + Word.ofNat s.cur.draws)) 40 41).drewIf
          (Rnd.ofCode r.toNat)))

/-- An analog operation of a granted, enabled and unoccupied pair, its spans legal and its banks free, starts at issue. A read puts
its input reads and output writes in flight; updates, symmetry resets and transfers, of a pair granted with update, clear RS live
and put their reads, their digital phase and their trains in flight (R279, R283, R285, R286, R302, R305, R306, R308 to R310, R387). -/
def Obligations.ArrayOperationResults : Prop :=
  (∀ (s : State) (g : BitVec 4) (d a : BitVec 6) (k f : BitVec 1) (p : BitVec 3), s.reads2 g d a → s.pairFree (pairNo k p) false →
    let go (bwd : Bool) : State :=
      let o := s.readOp bwd (pairNo k p) (s.valG d) (s.valG a) (f = 1)
      let len := (s.readLens bwd (pairNo k p) (f = 1)).2
      (reserved (s.outputBanks o len) (reserved (s.inputBanks o) s)).startOp o
        fun t n => t.pushReads o (groupsOf o.dst len).length n
    let free (bwd : Bool) : Prop :=
      let o := s.readOp bwd (pairNo k p) (s.valG d) (s.valG a) (f = 1)
      s.spansOk (s.readSpans bwd (pairNo k p) (s.valG d) (s.valG a) (f = 1)) ∧ freeFor (s.inputBanks o) s ∧
        freeFor (s.outputBanks o (s.readLens bwd (pairNo k p) (f = 1)).2) (reserved (s.inputBanks o) s)
    (free false → exec (.xfwd g d a k f p) s = .next (go false)) ∧ (free true → exec (.xbwd g d a k f p) s = .next (go true))) ∧
  (∀ (s : State) (g : BitVec 4) (l a : BitVec 6) (k : BitVec 1) (p : BitVec 3), s.reads1 g a → s.pairFree (pairNo k p) true →
    let o := s.updateOp (pairNo k p) (s.valG a) l.toNat
    s.spansOk (s.updateSpans (pairNo k p) (s.valG a)) → freeFor (s.inputBanks o) s →
    exec (.xupd g l a k p) s = .next ((reserved (s.inputBanks o) s).clearRs.startOp o fun t n => t.pushReads o 0 n)) ∧
  (∀ (s : State) (g : BitVec 4) (l : BitVec 6) (k : BitVec 1) (p : BitVec 3), s.runs g → s.pairFree (pairNo k p) true →
    exec (.xrst g l k p) s = .next (s.clearRs.startOp (s.resetOp (pairNo k p) l.toNat) fun t n => t.ownTrain 24 l.toNat n)) ∧
  (∀ (s : State) (g : BitVec 4) (l a : BitVec 6) (k u w : BitVec 1) (p : BitVec 3), s.reads1 g a →
    s.pairFree (pairNo k p) true → s.transferBad (pairNo k p) (s.valG a) (w = 1) = false →
    exec (.xxfer g l a k u w p) s = .next (s.clearRs.startOp (s.transferOp (pairNo k p) (s.valG a) (w = 1) (u = 1) l.toNat)
      fun t n => (t.pushDigital n).ownTrain 96 l.toNat n)) ∧
  (∀ (s : State) (o : AnOp) (outs bl : Nat),
    let n := s.me.nextOp
    let began (t : State) : Prop := t.op s.cur.ctx n = o ∧ t.me.nextOp = n + 1 ∧ t.regs = s.regs ∧ t.mem = s.mem ∧ t.pairs = s.pairs ∧
      ∀ x ∈ s.me.items, x ∈ t.me.items
    (let t := s.startOp o fun u k => u.pushReads o outs k;
      began t ∧ (∀ x ∈ o.inputs, s.flies t x.1 (.ain n x.1)) ∧ ∀ r, r < outs → s.flies t (56 + r) (.aout n r)) ∧
    (let t := s.startOp o fun u k => u.ownTrain 24 bl k;
      began t ∧ (∀ i, i < bl → s.flies t (24 + 4 * i) (.pulse n i)) ∧ s.flies t (24 + 4 * bl) (.train n)) ∧
    (let t := s.startOp o fun u k => (u.pushDigital k).ownTrain 96 bl k;
      began t ∧ s.flies t 64 (.digital n) ∧ (∀ i, i < bl → s.flies t (96 + 4 * i) (.pulse n i)) ∧
        s.flies t (96 + 4 * bl) (.train n))) ∧
  (∀ o : AnOp,
    let w := windowOf o.win.toNat
    let n := if o.kind = 1 then w.cols else w.rows
    let span (c src len : Nat) : List (Nat × Nat × Nat) :=
      (List.range ((len + 255) / 256)).map fun r => (c + r, src + 256 * r, min 256 (len - 256 * r))
    (o.kind ≤ 1 → o.dxb = false → o.inputs = span 0 o.src (4 * n)) ∧
    (o.kind ≤ 1 → o.dxb = true → o.inputs = span 0 o.src (32 * ((n + 31) / 32)) ++ [(2, o.src + 512, 2 * ((n + 31) / 32))]) ∧
    (o.kind = 2 → o.inputs = span 0 o.src (4 * w.rows) ++ span 8 (o.src + 2048) (4 * w.cols)))

/-- The registers of a granted pair: a valid window lands in AWIN and a valid gain in AGAIN one beat after issue, `xseed` lands XSEED
of a pair that is granted with update and is free, and `xstat` reads the records, PSTATE and STEP, and XSEED (R270, R311 to R314). -/
def Obligations.PairRegisterResults : Prop :=
  (∀ (s : State) (g : BitVec 4) (a d : BitVec 6) (w : BitVec 4) (k : BitVec 1) (u p : BitVec 3) (x : Half), s.reads1 g a →
    s.grantedPair (pairNo k p) false →
    let v := s.valG a
    let win (y : BitVec 36) : State := (s.claimLand (keyAwin (pairNo k p)) 1).push 1 (.awin (pairNo k p) y) 1
    (v.toNat < 2 ^ 36 → (windowOf v.toNat).valid = true → exec (.xwin g a k p) s = .next (win (v.setWidth 36))) ∧
    ((windowOf (w ++ x).toNat).valid = true → exec (.xwinX g w k p x) s = .next (win (w ++ x))) ∧
    (v.toNat < 2 ^ 20 → gammaValid v.toNat = true → exec (.xgain g a k p) s =
      .next ((s.claimLand (keyAgain (pairNo k p)) 1).push 1 (.again (pairNo k p) (v.setWidth 20)) 1)) ∧
    exec (.xstat g d k u p) s = .next (s.landG d (
      let pr := s.pair (s.pidOf (pairNo k p))
      if u = 0 then pr.parF.setWidth 64 else if u = 1 then pr.parF.extractLsb' 64 64
      else if u = 2 then pr.parS.setWidth 64 else if u = 3 then pr.parS.extractLsb' 64 64
      else if u = 4 then 0#30 ++ pr.pstate ++ pr.step else pr.xseed) 1)) ∧
  (∀ (s : State) (g : BitVec 4) (a : BitVec 6) (k : BitVec 1) (p : BitVec 3), s.reads1 g a → s.grantedPair (pairNo k p) true →
    s.occupied (s.pidOf (pairNo k p)) = false → (s.pair (s.pidOf (pairNo k p))).pstate ≠ 1 →
    (s.pair (s.pidOf (pairNo k p))).pstate ≠ 2 →
    exec (.xseed g a k p) s = .next ((s.claimLand (keyXseed (pairNo k p)) 1).push 1
      (.xseed (s.pidOf (pairNo k p)) (s.valG a)) 1))

/-! ### Tile memory, sends and HBM (spec 06, 09, 10) -/

/-- Scalar and vector loads and stores on a legal, aligned address with their banks free: a load's bytes are read at issue and land
four or five beats on, a store's are written at issue + 1, the second half of a vector one cycle later (R33, R81, R219 to R221). -/
def Obligations.LoadStoreResults : Prop :=
  ∀ (s : State) (g : BitVec 4) (d a b : BitVec 6) (u : BitVec 3) (x : Option Half) (off : Nat), s.reads2 g a b →
    let addr := memAddr a b x (s.valG a) (s.valG b)
    let n := 2 ^ (u.toNat % 4)
    let r0 (n w : Nat) : State := reserved (s.banks n [(off, w)]) s
    let tile := tileOf s.cur.ctx
    (s.poolOk addr n n off → freeFor (s.banks 0 [(off, n)]) s →
      exec (.ld g d a b u x) s = .next ((r0 0 n).landG d (
        if 4 ≤ u.toNat then Word.ofInt (sextN (8 * n) (leNat (s.rdPool off n))) else Word.ofNat (leNat (s.rdPool off n))) 4
          (s.poolMarked off n))) ∧
    (s.poolOk addr n n off → freeFor (s.banks 1 [(off, n)]) s →
      exec (.st g d a b u x) s = .next ((r0 1 n).pushPool 1 [(off, leBytes n (s.copyG d).1.toNat, (s.copyG d).2)])) ∧
    (s.poolOk addr 512 16 off → freeFor (s.banks 0 [(off, 256)]) s → freeFor (s.banks 1 [(off + 256, 256)]) (r0 0 256) →
      exec (.vld g d a b x) s = .next ((((reserved (s.banks 1 [(off + 256, 256)]) (r0 0 256)).claimLand (keyV (s.vphys d)) 5).push 5
        (.lanes (s.vphys d) (s.poolLanes tile off 64 0)) 5).push 1 (.vldHalf (s.vphys d) (off + 256)) 5)) ∧
    (s.poolOk addr 64 16 off → freeFor (s.banks 0 [(off, 64)]) s →
      exec (.vldBc g d a b x) s = .next (((r0 0 64).claimLand (keyV (s.vphys d)) 5).push 5 (.lanes (s.vphys d)
        ((List.range 8).flatMap fun c => (s.poolLanes tile off 16 0).map fun (i, v) => (16 * c + i, v))) 5)) ∧
    (s.poolOk addr 512 16 off → freeFor (s.banks 1 [(off, 256)]) s → freeFor (s.banks 2 [(off + 256, 256)]) (r0 1 256) →
      exec (.vst g d a b x) s = .next (((reserved (s.banks 2 [(off + 256, 256)]) (r0 1 256)).pushPool 1
        (laneWrite off ((s.copyV d).take 64))).pushPool 2 (laneWrite (off + 256) ((s.copyV d).drop 64))))

/-- Block loads and stores of eight clusters, gathers and scatters of sixteen words, and `drain` (R222 to R224, R237). -/
def Obligations.BlockAndGatherResults : Prop :=
  (∀ (s : State) (g : BitVec 4) (d a b : BitVec 6) (t : BitVec 1) (x : Option Half) (l : List (Nat × Nat × Nat)), s.reads2 g a b →
    let w := if t = 1 then 1 else 2
    s.blockAddrs (s.valG a) (s.valG b) w (xOff x) = .ok l →
    let pay (n : Nat) : List (Res × Nat × Word) := s.banks n (l.map fun (_, p, _) => (p, 32))
    let sc (n : Nat) : List (Res × Nat × Word) := s.banks n (l.map fun (_, _, q) => (q, w))
    (freeFor (pay 0) s → freeFor (sc 1) (reserved (pay 0) s) →
      exec (.vldb g d a b t x) s = .next (((reserved (sc 1) (reserved (pay 0) s)).claimLand (keyV (s.vphys d)) 5).push 1
        (.vldbScale (s.vphys d) (t = 0) (l.map fun (c, p, q) =>
          (c, q, (s.poolLanes (tileOf s.cur.ctx) p 8 0).map fun (_, v) => v))) 5)) ∧
    (freeFor (pay 1) s → freeFor (sc 2) (reserved (pay 1) s) →
      exec (.vstb g d a b t x) s = .next (((reserved (sc 2) (reserved (pay 1) s)).pushPool 1
        (l.flatMap fun (c, p, _) => laneWrite p (((s.copyV d).drop (16 * c)).take 8))).pushPool 2
          (l.map fun (c, _, q) => (q, leBytes w ((s.copyV d).getD (16 * c + 8) (0, false)).1.toNat,
            ((s.copyV d).getD (16 * c + 8) (0, false)).2))))) ∧
  (∀ (s : State) (g : BitVec 4) (d a b : BitVec 6) (c : BitVec 3) (offs : List Nat), s.reads1 g b →
    s.clearV a (State.laneMask (List.range' (16 * c.toNat) 16)) →
    s.gatherAddrs (s.valG b) (((s.valV a).drop (16 * c.toNat)).take 16) = .ok offs →
    let bk (n : Nat) : List (Res × Nat × Word) := s.banks n (offs.map fun o => (o, 4))
    let vals := ((List.range' (16 * c.toNat) 16).zip offs).map fun (l, o) => (l, word32 (s.rdPool o 4), s.poolMarked o 4)
    (freeFor (bk 0) s → exec (.gath g d a b c) s = .next (((reserved (bk 0) s).claimLand (keyV (s.vphys d)) 5
      (State.laneMask (vals.map (·.1)))).push 5 (.lanes (s.vphys d) vals) 5)) ∧
    (freeFor (bk 1) s → exec (.scat g d a b c) s = .next ((reserved (bk 1) s).pushPool 1
      ((offs.zip (((s.copyV d).drop (16 * c.toNat)).take 16)).map fun (o, x, pm) => (o, leBytes 4 x.toNat, pm))))) ∧
  (∀ (s : State) (g : BitVec 4), s.runs g → exec (.drain g) s = .next (s.modCur fun c => { c with drain := true }))

/-- Sends between members: source and destination legal and 16-aligned, every bank, link, ring slot and ejection port free; the flit
is in flight to each receiver, with the bytes and marks read at issue, due after its hops, and SC live clears (R141, R142, R145, R227, R228, R387). -/
def Obligations.SendResults : Prop :=
  (∀ (s : State) (g : BitVec 4) (d a b : BitVec 6) (so dO : Nat), s.reads3 g d a b → s.poolOk (s.valG a) 64 16 so →
    s.poolOk (s.valG b) 64 16 dO → freeFor (s.banks 0 [(so, 64)]) s →
    let u := reserved (s.banks 0 [(so, 64)]) s
    let me := tileOf s.cur.ctx
    let v := (s.valG d).toNat
    let mesh (ms : List Nat) : State := (reserved (u.meshBanks ms dO) (reserved (u.meshLinks ms) u)).meshFlits ms so dO
    let meshFree (ms : List Nat) : Prop := freeFor (u.meshLinks ms) u ∧ freeFor (u.meshBanks ms dO) (reserved (u.meshLinks ms) u)
    (∀ m, v < 1024 → dieOf v = dieOf me → s.memberOn v = some m → meshFree [m] →
      exec (.msend g d a b) s = .next (mesh [m])) ∧
    (v < 65536 → bits v 0 4 ≤ bits v 8 4 → bits v 4 4 ≤ bits v 12 4 →
      let tiles := (List.range' (bits v 4 4) (bits v 12 4 + 1 - bits v 4 4)).flatMap fun y =>
        (List.range' (bits v 0 4) (bits v 8 4 + 1 - bits v 0 4)).map fun x => dieOf me * 256 + 16 * y + x
      (∀ t ∈ tiles, (s.memberOn t).isSome = true) → meshFree (tiles.filterMap s.memberOn) →
      exec (.mcast g d a b) s = .next (mesh (tiles.filterMap s.memberOn))) ∧
    (∀ m, bits v 10 6 = 0 → v < 2 ^ 23 → dieOf (v % 1024) ≠ dieOf me → bits v 16 7 < s.myGang.ringN →
      s.memberOn (v % 1024) = some m →
      let bk := bankClaims (v % 1024) (s.beat + 63) [(dO, 64)]
      let ring := u.dieLinks (v % 1024) (bits v 16 7)
      freeFor ring u → freeFor bk (reserved ring u) → exec (.dsend g d a b) s = .next ((reserved bk (reserved ring u)).dieFlit m so dO))) ∧
  (∀ (s : State) (ms : List Nat) (so dO : Nat),
    let bs := s.rdPool so 64
    let mk := (List.range 4).map fun i => s.poolMarked (so + 16 * i) 16
    (let t := s.meshFlits ms so dO; t.me.sc = false ∧ t.regs = s.regs ∧ t.mem = s.mem ∧ ∀ m ∈ ms,
      let h := (route (tileOf s.cur.ctx) (tileOf m)).length
      s.flies t (2 + h) (.flit false (tileOf m) dO bs mk) ∧ s.flies t (3 + h) (.arrive false m)) ∧
    (∀ m, let t := s.dieFlit m so dO; t.me.sc = false ∧ t.regs = s.regs ∧ t.mem = s.mem ∧
      s.flies t 63 (.flit true (tileOf m) dO bs mk) ∧ s.flies t 64 (.arrive true m))) ∧
  (∀ a b : Nat, (route a b).length = ((colOf a : Int) - colOf b).natAbs + ((rowOf a : Int) - rowOf b).natAbs)

/-- Stream loads: n positions of the FIFO are reserved where they can land, the banks of each group of four are reserved, and the
reads are in flight, group i in cycle i or 2i (R177, R225, R226). -/
def Obligations.StreamLoadResults : Prop :=
  (∀ (s : State) (g : BitVec 4) (n : BitVec 5) (q : BitVec 1) (a : BitVec 6) (x : Option Half) (off : Nat), s.reads1 g a →
    let k := n.toNat + 1
    s.poolOk (s.valG a + xOff x) (64 * k) 16 off → s.fifoRoom q.toNat k (fun r => s.beat + r / 4 + 5) = true →
    let u := s.fifoReserved q.toNat k (fun r => s.beat + r / 4 + 5)
    let es := qldGroups k (s.regs.fifo q.toNat).wq off 0 0
    freeFor (u.plainBanks es) u →
    exec (.qld g n q a x) s = .next ((reserved (u.plainBanks es) u).plainReads q.toNat es)) ∧
  (∀ (s : State) (g : BitVec 4) (n : BitVec 5) (q : BitVec 1) (a b : BitVec 6) (x : Option Half) (w off so : Nat), s.reads2 g a b →
    let k := n.toNat + 1
    let at' := fun r => s.beat + 2 * (r / 4) + 6
    s.poolOk (s.valG a + xOff x) (64 * k) 32 off → s.poolAddr (s.valG b) (w * k) = .ok so → (w = 4 → so % 2 = 0) →
    s.fifoRoom q.toNat k at' = true →
    let u := s.fifoReserved q.toNat k at'
    let es := qldGroups k (s.regs.fifo q.toNat).wq off so w
    freeFor (u.blockBanks w es) u →
    (w = 4 → exec (.qldDxb8 g n q a b x) s = .next ((reserved (u.blockBanks 4 es) u).blockReads q.toNat 4 es)) ∧
    (w = 2 → exec (.qldMx8 g n q a b x) s = .next ((reserved (u.blockBanks 2 es) u).blockReads q.toNat 2 es))) ∧
  (∀ (s : State) (q n w off so sc i : Nat), 4 * i < n →
    let es := qldGroups n w off so sc
    let l := (List.range (min 4 (n - 4 * i))).map fun j => (w + (4 * i + j), off + 64 * (4 * i + j), so + sc * (4 * i + j))
    s.flies (s.plainReads q es) i (.qldGroup q 0 l) ∧
    (∀ c, s.flies (s.blockReads q c es) (2 * i) (.qldGroup q c l)) ∧
    (s.plainReads q es).regs = s.regs ∧ (s.plainReads q es).mem = s.mem)

/-- Timetabled reads into the pool, strided or by an index list, and writes from it: every line located, aligned and inside its extent,
every unit and bank, pool bank and ring slot free; the lines are reserved and their commands in flight, and SC live clears. A write
reads the pool at each line's command cycle (R208, R229 to R232, R234, R387, R408). -/
def Obligations.HbmPoolResults : Prop :=
  (∀ (s : State) (g : BitVec 4) (d a b : BitVec 6) (x : Option Half) (ls : List State.Located) (offs : List Nat), s.reads3 g d a b →
    let w := lineDesc (s.valG b)
    w.ok = true →
    let u := (linesTaken ls s).clearSc
    let room (i : List (Res × Nat × Word)) : Prop :=
      let bs := i ++ u.readBanks ls offs
      linesFree ls s ∧ freeFor bs u ∧ freeFor ((reserved bs u).ringClaims false ls) (reserved bs u)
    let go (i : List (Res × Nat × Word)) : State :=
      let v := reserved (i ++ u.readBanks ls offs) u
      (reserved (v.ringClaims false ls) v).poolReads ls offs
    (s.locate false (State.strided (s.valG a + xOff x) w) (State.poolSides (s.valG d) w) = .ok (ls, offs) → room [] →
      exec (.hrd g d a b x) s = .next (go [])) ∧
    (∀ off, s.poolOk (Word.ofNat (16 * w.hs)) (4 * w.n) 4 off → s.poolMarked off (4 * w.n) = false →
      s.locate false ((List.range w.n).map fun l =>
        (l, l * w.sp, s.valG a + 64 * Word.ofNat (leNat (s.rdPool (off + 4 * l) 4)))) (State.poolSides (s.valG d) w) = .ok (ls, offs) →
      room (s.banks 0 [(16 * w.hs, 4 * w.n)]) →
      exec (.hrdg g d a b) s = .next (go (s.banks 0 [(16 * w.hs, 4 * w.n)])))) ∧
  (∀ (s : State) (g : BitVec 4) (d a b : BitVec 6) (x : Option Half) (ls : List State.Located) (offs : List Nat), s.reads3 g d a b →
    let w := lineDesc (s.valG b)
    w.ok = true → s.locate true (State.strided (s.valG a + xOff x) w) (State.poolSides (s.valG d) w) = .ok (ls, offs) →
    linesFree ls s →
    let u := (linesTaken ls s).clearSc
    freeFor (u.writeBanks ls offs) u →
    let v := reserved (u.writeBanks ls offs) u
    freeFor (v.ringClaims true ls) v →
    exec (.hwr g d a b x) s = .next ((reserved (v.ringClaims true ls) v).lineWrites ls offs)) ∧
  (∀ (s : State) (ls : List State.Located) (offs : List Nat) (i l k sa f : Nat) (h : HbmLoc), ls[i]? = some (l, k, h, sa) →
    offs[i]? = some f →
    let lat := if h.die = dieOf (tileOf s.cur.ctx) then 192 else 256
    s.flies (s.poolReads ls offs) k (.hbmRead h.flat (lat - 1) 0 f l) ∧
    s.flies (s.lineWrites ls offs) k (.hbmWrite h.flat (tileOf s.cur.ctx) f))

/-- Timetabled reads into a FIFO, strided or by an index list, transposed, or into a code frame that the context owns and that is
invalid meanwhile (R208, R229, R230, R232, R233, R236). -/
def Obligations.HbmToFifoResults : Prop :=
  (∀ (s : State) (g : BitVec 4) (q : BitVec 1) (a b : BitVec 6) (x : Option Half) (ls : List State.Located) (offs : List Nat),
    s.reads2 g a b →
    let w := lineDesc (s.valG b)
    w.ok = true →
    let room (i : List (Res × Nat × Word)) (n : Nat) (at' : Nat → Nat) : Prop :=
      let u := s.fifoReserved q.toNat n at'
      let v := (linesTaken ls u).clearSc
      s.fifoRoom q.toNat n at' = true ∧ linesFree ls u ∧ freeFor i v ∧
        freeFor ((reserved i v).ringClaims false ls) (reserved i v)
    let go (i : List (Res × Nat × Word)) (n : Nat) (at' : Nat → Nat) : State :=
      let v := reserved i (linesTaken ls (s.fifoReserved q.toNat n at')).clearSc
      reserved (v.ringClaims false ls) v
    let p0 := (s.regs.fifo q.toNat).wq
    let z := s.lastLand ls
    (s.locate false (State.strided (s.valG a + xOff x) w) [] = .ok (ls, offs) → room [] ls.length (s.landAt ls) →
      exec (.hrdQ g q a b x) s = .next ((go [] ls.length (s.landAt ls)).lineReads ls 1 q.toNat p0)) ∧
    (s.locate false (State.strided (s.valG a) w) [] = .ok (ls, offs) → room [] 32 (fun _ => s.beat + z) →
      exec (.hrdt g q a b) s = .next (((go [] 32 fun _ => s.beat + z).lineReads ls 2 (2 * p0 + q.toNat) 0).push z
        (.hrdtLand q.toNat p0 (2 * p0 + q.toNat)) z z)) ∧
    (∀ off, s.poolOk (Word.ofNat (16 * w.hs)) (4 * w.n) 4 off → s.poolMarked off (4 * w.n) = false →
      s.locate false ((List.range w.n).map fun l =>
        (l, l * w.sp, s.valG a + 64 * Word.ofNat (leNat (s.rdPool (off + 4 * l) 4)))) [] = .ok (ls, offs) →
      let i := s.banks 0 [(16 * w.hs, 4 * w.n)]
      room i ls.length (s.landAt ls) →
      exec (.hrdgQ g q a b) s = .next ((go i ls.length (s.landAt ls)).lineReads ls 1 q.toNat p0))) ∧
  (∀ (s : State) (g f : BitVec 4) (a b : BitVec 6) (sp : Nat) (ls : List State.Located) (offs : List Nat), s.reads2 g a b →
    (s.valG b).toNat = 256 * sp → 0 < sp → sp < 256 →
    (tget {} s.frames (16 * tileOf s.cur.ctx + f.toNat)).owner = some s.cur.ctx →
    s.locate false (State.strided (s.valG a) ⟨64, sp, 1, 0, true⟩) [] = .ok (ls, offs) → linesFree ls s →
    let v := (linesTaken ls s).clearSc
    freeFor (v.ringClaims false ls) v →
    let t := (reserved (v.ringClaims false ls) v).fillReads f.toNat ls
    exec (.cfill g f a b) s = .next ((t.push 0 (.frame (tileOf t.cur.ctx) f.toNat false)).push
      ((reserved (v.ringClaims false ls) v).lastLand ls) (.frame (tileOf t.cur.ctx) f.toNat true)
      ((reserved (v.ringClaims false ls) v).lastLand ls) ((reserved (v.ringClaims false ls) v).lastLand ls))) ∧
  (∀ (s : State) (ls : List State.Located) (dst tgt p0 f i l k sa : Nat) (h : HbmLoc), ls[i]? = some (l, k, h, sa) →
    let lat := if h.die = dieOf (tileOf s.cur.ctx) then 192 else 256
    s.flies (s.lineReads ls dst tgt p0) k (.hbmRead h.flat lat dst tgt (p0 + l)) ∧
    s.flies (s.fillReads f ls) k (.hbmRead h.flat lat 3 (f + 16 * sa) l))

/-! ### Engine commands (spec 14, 16, 21) -/

/-- A command whose block is legal, and which R348 does not turn away, is issued: its block is read in the issue beat, its tokens
are resolved, its own token is bound to it, and it is outstanding. Commands that R387 names clear RS live; array commands also need
their grant, `acoll` its digest, and `fence` no block (R315, R346 to R351, R359 to R368, R417, R424). -/
def Obligations.CommandIssueResults : Prop :=
  (∀ (s : State) (g : BitVec 4) (t a : BitVec 6) (e : BitVec 1) (k : BitVec 4) (off : Nat),
    let ok (op : Nat) (bad : Cmd → Bool) (areas : Cmd → List Area) : Prop := s.commandOk op g a e k off bad areas
    let go (op : Nat) (clear : Bool) : Host.Outcome State Fault Refusal := .next (s.issued op t e k off clear)
    let word (c : Cmd) : List Area := [⟨c.w 0x08, c.atomBytes, true, true, c.atomBytes⟩]
    let redAreas (c : Cmd) : List Area :=
      [⟨c.w 0x08, c.f 0x18 4, false, true, 1⟩, ⟨c.w 0x10, c.f 0x18 4, true, false, redBytes (bits (c.f 0 1) 4 4)⟩]
    (ok 0x30 Cmd.copyBad Cmd.copyAreas → exec (.acpy g t a e k) s = go 0x30 false) ∧
    (ok 0x31 Cmd.atomBad word → exec (.aatom g t a e k) s = go 0x31 true) ∧
    (ok 0x32 Cmd.redBad redAreas → exec (.ared g t a e k) s = go 0x32 true) ∧
    (ok 0x33 (Cmd.moveBad s) (fun _ => []) → exec (.arestripe g t a e k) s = go 0x33 true) ∧
    (ok 0x35 Cmd.castBad (fun c => [⟨c.w 0x08, c.f 0x20 4, false, false, 1⟩]) → exec (.amcast g t a e k) s = go 0x35 true) ∧
    (ok 0x3A (Cmd.barBad true) (Cmd.barAreas true) → exec (.barinit g t a e k) s = go 0x3A true) ∧
    (ok 0x3B (Cmd.barBad false) (Cmd.barAreas true) → exec (.bararv g t a e k) s = go 0x3B true) ∧
    (ok 0x3C (Cmd.barBad false) (Cmd.barAreas false) → exec (.barwait g t a e k) s = go 0x3C false) ∧
    (ok 0x34 Cmd.collBad Cmd.collAreas → exec (.acoll g t a e k) s =
      .next ((reserved (s.banks 0 [(off, 64)]) s).bindCmd t.toNat true (
        let c := s.readCmd 0x34 off e k
        if 2 ≤ bits (c.f 0 1) 0 3 then { c with mdig := s.moduleDigest } else c))) ∧
    (ok 0x36 Cmd.arrBad Cmd.arrAreas → s.grantedPair (s.readCmd 0x36 off e k).pairNo false →
      exec (.xckpt g t a e k) s = go 0x36 false) ∧
    (ok 0x37 Cmd.arrBad Cmd.arrAreas → s.grantedPair (s.readCmd 0x37 off e k).pairNo true →
      exec (.xprog g t a e k) s = go 0x37 true) ∧
    (ok 0x38 Cmd.arrBad Cmd.arrAreas → s.grantedPair (s.readCmd 0x38 off e k).pairNo true →
      exec (.xcal g t a e k) s = go 0x38 true) ∧
    (ok 0x39 Cmd.arrBad Cmd.arrAreas → s.grantedPair (s.readCmd 0x39 off e k).pairNo true →
      exec (.xsym g t a e k) s = go 0x39 true)) ∧
  (∀ (s : State) (g : BitVec 4) (t : BitVec 6) (u : BitVec 3) (e : BitVec 1) (k : BitVec 4), s.runs g →
    State.outstanding s.me < 64 →
    exec (.fence g t u e k) s = .next (s.bindCmd t.toNat false {
      op := 0x3D
      cnt := (if e = 1 then some k.toNat else none)
      scope := u.toNat
      issued := s.beat
      wake := s.beat + 1 })) ∧
  (∀ (s : State) (t : Nat) (clear : Bool) (k : Cmd),
    let i := s.me.nextCmd
    let u := s.bindCmd t clear k
    (∃ w, s.beat < w ∧ u.cmd s.cur.ctx i = { k with
      prods := k.tokens.map fun n => tget 0 s.regs.tok n
      wake := w }) ∧
    u.me.nextCmd = i + 1 ∧ u.me.rs = (s.me.rs && !clear) ∧ tget 0 u.regs.tok t = i ∧
    (∀ n, n ≠ t → tget 0 u.regs.tok n = tget 0 s.regs.tok n) ∧ (∀ j, j ≠ i → u.cmd s.cur.ctx j = s.cmd s.cur.ctx j) ∧
    u.mem = s.mem ∧ u.me.items = s.me.items) ∧
  (∀ (s : State) (op off : Nat) (e : BitVec 1) (k : BitVec 4), let c := s.readCmd op off e k;
    c.op = op ∧ c.blk = s.rd (poolAt (tileOf s.cur.ctx) off) 64 ∧ c.pos = off ∧ c.cnt = (if e = 1 then some k.toNat else none) ∧
    c.issued = s.beat ∧ c.started = false ∧ c.isDone = false ∧
    ∀ n, n ∈ c.tokens ↔ ∃ j, j < 3 ∧ (c.f (4 + j) 1).testBit 7 = true ∧ n = c.f (4 + j) 1 % 64)

/-! ### Guards, faults and returns (spec 02, 19) -/

/-- R28: an instruction with a false guard lands nothing, performs nothing and raises none of its own execution faults. A branch
still has its delay bundles, and R37 still applies to the forms that may not stand in them. -/
def Obligations.FalseGuardHasNoEffect : Prop :=
  ∀ (s : State) (i : Instr) (c : SlotClass) (w : Half) (x : Option Half), encode i = some (c, w, x) →
    s.skips (w.extractLsb' 21 4) →
    let op := (w.extractLsb' 25 7).toNat
    (c = .S → op ∉ [0x40, 0x41, 0x42, 0x43]) →
    (c = .S → op ∈ [0x44, 0x45, 0x47, 0x48, 0x51, 0x52, 0x55] → s.me.delay = none) → exec i s = .next s

/-- Taking a fault. One that cannot be rewound freezes its gang from this beat and has a record of the tile; one that can, with RS
live, takes a rewind with a REWOUND record: of its context alone with SC live set, of the whole gang with SC live clear and every
member's RS live; after three rewinds it is REWIND_LIMIT instead. At the end of the beat a rewind's record is written, and a slice
fault's kept until its frame has been written. CLASS 0 of REWOUND is the model's reading (log entry 36) (R12, R378, R379, R384, R387,
R388, R390). -/
def Obligations.FaultsAreTaken : Prop :=
  (∀ (s : State) (c code detail slot : Nat) (a0 a1 : Word) (second found : Bool), s.faultNow (tileOf c) = none →
    s.gangFrozen (s.before c).gang = false →
    let gid := (s.before c).gang
    let ms := (s.gang gid).members
    let set := if (s.before c).sc then [c] else ms
    let ok : Prop := State.rewindable code found = true ∧ (s.before c).rs = true ∧
      ((s.before c).sc = true ∨ ∀ m ∈ ms, (s.before m).rs = true)
    let limit : Prop := ∃ m ∈ set, 3 ≤ (s.ctx m).rply.toNat
    let t := s.takeFault c code detail slot a0 a1 second found
    let slice (cd dt : Nat) : Prop :=
      t.cur.faulted = true ∧ (t.gang gid).fz = some ⟨s.beat, .fail, none⟩ ∧
      ∃ r, t.taken.head? = some r ∧ r.code = cd ∧ r.cls = 1 ∧ r.detail = dt ∧ r.slot = slot ∧ r.beat = s.beat ∧
        r.src = srcTile (tileOf c) ∧ r.pc = (s.ctx c).pcNext ∧ r.hcyc = s.hcyc c ∧ r.aux0 = a0 ∧ r.aux1 = a1 ∧ r.second = second
    (¬ ok → slice code detail) ∧
    (ok → limit → slice 0x11 code) ∧
    (ok → ¬ limit →
      t.cur.faulted = true ∧ (t.gang gid).fz = (s.gang gid).fz ∧ (t.gang gid).entry = none ∧
      (∀ m ∈ set, (t.ctx m).run = .rewinding ∧ (t.ctx m).rew = some s.beat ∧ (t.ctx m).rewAll = !(s.before c).sc ∧
        (t.ctx m).wait = none ∧ (t.ctx m).delay = none) ∧
      (∀ m, m ∉ set → t.ctx m = s.ctx m) ∧
      ∃ r, t.taken.head? = some r ∧ r.code = 0x25 ∧ r.cls = 0 ∧ r.detail = code ∧ r.slot = slot ∧ r.beat = s.beat ∧
        r.src = srcTile (tileOf c) ∧ r.gangRewind = !(s.before c).sc ∧ r.hcyc = s.hcyc c)) ∧
  (∀ (s : State) (r : Record), s.taken = [r] → (∀ gid f, (s.gang gid).fz = some f → f.why = .trap → f.beat ≠ s.beat + 1) →
    ∃ t, exec .halyardBeat s = .next t ∧ t.beat = s.beat + 1 ∧ t.taken = [] ∧
      (r.code = 0x25 → t.log.head? = some { r with
        seq := tget 0 s.seqs r.src
        fd := if s.fdOk (s.gang r.gang).slice.fd then (s.gang r.gang).slice.fd else 0 }) ∧
      (r.code ≠ 0x25 → t.log = s.log ∧ (t.gang r.gang).fails = (s.gang r.gang).fails ++ [r]))

/-- The returns. From a rewindable fault: at its replay beat a rewinding context, or every rewinding member where the whole gang rewinds,
has the registers of its hoist's snapshot, XSEED and STEP among them, RPLY counts up and saturates, HCYC is 0, and it issues at once;
memory keeps what was written. From a freeze: the gang is no longer frozen, and the
HCYC of a member that was issuing goes on from where it stood, whatever the freeze lasted (R29, R41, R121, R387, R388, R390, R391). -/
def Obligations.ReturnsRestore : Prop :=
  (∀ (s : State) (c : Nat), s.arg 0 = c → s.rewindDue c = true →
    let set := if (s.ctx c).rewAll then (s.gang (s.ctx c).gang).members.filter fun m => (s.ctx m).run = .rewinding else [c]
    set.Nodup →
    ∃ t, exec .rewind s = .next t ∧ t.mem = s.mem ∧ t.beat = s.beat ∧ (∀ m ∈ set, (t.ctx m).run = .running ∧
      (t.ctx m).regs = (s.ctx m).snap ∧ (t.ctx m).hbase = s.beat ∧ (t.ctx m).nextAt = s.beat ∧
      (t.ctx m).rs = (s.ctx m).mark.rs ∧ (t.ctx m).sc = true ∧ (t.ctx m).lands = [] ∧
      (t.ctx m).rply = (if (s.ctx m).rply = 0xFFFF then 0xFFFF else (s.ctx m).rply + 1)) ∧
      (∀ d, d ∉ set → t.ctx d = s.ctx d) ∧
      ((set.flatMap fun m => (s.ctx m).xsnap.map fun x => x.1).Nodup → ∀ m ∈ set, ∀ pid v st, (pid, v, st) ∈ (s.ctx m).xsnap →
        (t.pair pid).xseed = v ∧ (t.pair pid).step = st)) ∧
  (∀ (s : State) (gid m : Nat) (f : Freeze), s.arg 0 = gid → (s.gang gid).fz = some f → s.restartDue gid = true →
    (s.gang gid).members.Nodup → m ∈ (s.gang gid).members → (s.ctx m).gang = gid → (s.ctx m).run = .running →
    (s.ctx m).hbase ≤ f.beat →
    ∃ t, exec .gangRestart s = .next t ∧ (t.gang gid).fz = none ∧ (t.gang gid).off = false ∧ (t.ctx m).run = .running ∧
      t.hcyc m = s.hcyc m ∧ t.mem = s.mem ∧ t.beat = s.beat)

/-- Faults of operands and addresses: a poisoned source is POISON, an address outside its area or of the wrong kind an extent fault
with its detail, and a misaligned one detail 0x07, whatever else the instruction would do (R195, R218, R382). -/
def Obligations.OperandAndAddressFaults : Prop :=
  (∀ (s : State) (g : BitVec 4) (d a b : BitVec 6) (m : BitVec 3), s.runs g →
    s.regs.isMarked (keyG (greg s.regs.rotpos a.toNat)) = true →
    let key := keyG (greg s.regs.rotpos a.toNat)
    exec (.add g d a b m) s = .next (s.takeFault s.cur.ctx 0x0A 0 s.cur.slot 0 0 false (tget false s.regs.marks key)) ∧
    exec (.ld g d a b m none) s = .next (s.takeFault s.cur.ctx 0x0A 0 s.cur.slot 0 0 false (tget false s.regs.marks key))) ∧
  (∀ (s : State) (g : BitVec 4) (d a b : BitVec 6) (u : BitVec 3) (x : Option Half) (e : Nat), s.reads2 g a b →
    let addr := memAddr a b x (s.valG a) (s.valG b)
    let n := 2 ^ (u.toNat % 4)
    (s.poolAddr addr n = .error e → exec (.ld g d a b u x) s = .next (s.raise 0x04 e addr) ∧
      exec (.st g d a b u x) s = .next (s.raise 0x04 e addr)) ∧
    (s.poolAddr addr 512 = .error e → exec (.vld g d a b x) s = .next (s.raise 0x04 e addr) ∧
      exec (.vst g d a b x) s = .next (s.raise 0x04 e addr)) ∧
    (∀ off, s.poolAddr addr n = .ok off → off % n ≠ 0 → exec (.ld g d a b u x) s = .next (s.raise 0x04 0x07 addr) ∧
      exec (.st g d a b u x) s = .next (s.raise 0x04 0x07 addr)) ∧
    (∀ off, s.poolAddr addr 512 = .ok off → off % 16 ≠ 0 → exec (.vld g d a b x) s = .next (s.raise 0x04 0x07 addr) ∧
      exec (.vst g d a b x) s = .next (s.raise 0x04 0x07 addr))) ∧
  (∀ (s : State) (addr : Word) (n : Nat), addr.extractLsb' 56 8 = 0 →
    s.poolAddr addr n = (if addr.toNat < s.me.spLo ∨ s.me.spHi < addr.toNat + n then .error 0x06 else .ok addr.toNat)) ∧
  (∀ (s : State) (addr : Word) (n : Nat), addr.extractLsb' 56 8 ≠ 0 → s.poolAddr addr n =
    .error (if (tget {} s.me.extents (addr.extractLsb' 56 8).toNat).valid then 0x04 else 0x01)) ∧
  (∀ (s : State) (addr : Word) (n kind : Nat) (wr : Bool),
    let i := (addr.extractLsb' 56 8).toNat
    let off := (addr.extractLsb' 0 56).toNat
    let x := tget {} s.me.extents i
    (i = 0 → s.extAddr addr n wr kind = .error 0x04) ∧
    (i ≠ 0 → x.valid = false → s.extAddr addr n wr kind = .error 0x01) ∧
    (i ≠ 0 → x.valid = true → x.kind ≠ kind → s.extAddr addr n wr kind = .error 0x04) ∧
    (i ≠ 0 → x.valid = true → x.kind = kind → x.len < off + n → s.extAddr addr n wr kind = .error 0x02) ∧
    (i ≠ 0 → x.valid = true → x.kind = kind → off + n ≤ x.len → wr = true → x.wr = false →
      s.extAddr addr n wr kind = .error 0x03) ∧
    (i ≠ 0 → x.valid = true → x.kind = kind → off + n ≤ x.len → wr = false ∨ x.wr = true →
      s.extAddr addr n wr kind = .ok (x, off)))

/-- Faults of place and resource: a branch where R37 forbids it, a loop or rendezvous form in a delay bundle, a missing grant, a held
pair, a full command table, an empty or a full FIFO (slips 0x03 and 0x04), a bank that carries a reservation already (0x06, with the
chunk and its holder), and a link that does (0x07) (R37, R113, R144, R148, R177, R178, R272, R281, R348, R385). -/
def Obligations.PlaceAndResourceFaults : Prop :=
  (∀ (s : State) (g : BitVec 4) (d a : BitVec 6) (im : Imm 9), s.branchForbidden = true →
    exec (.br g im) s = .next (s.raise 0x03 0x0F) ∧ exec (.brl g d im) s = .next (s.raise 0x03 0x0F) ∧
    exec (.brx g a) s = .next (s.raise 0x03 0x0F) ∧ exec (.brlx g d a) s = .next (s.raise 0x03 0x0F)) ∧
  (∀ (s : State) (g k : BitVec 4) (r : BitVec 1) (x : Half) (a : BitVec 6) (im : Imm 9) (n : BitVec 9), s.me.delay ≠ none →
    exec (.loop g r x) s = .next (s.raise 0x03 0x0F) ∧ exec (.loopg g r a im) s = .next (s.raise 0x03 0x0F) ∧
    exec (.rdv g) s = .next (s.raise 0x03 0x0F) ∧ exec (.rdvfin g) s = .next (s.raise 0x03 0x0F) ∧
    exec (.predwait g) s = .next (s.raise 0x03 0x0F) ∧ exec (.swapctx g) s = .next (s.raise 0x03 0x0F) ∧
    exec (.waitk g k n) s = .next (s.raise 0x03 0x0F) ∧ exec (.waitkReg g k a) s = .next (s.raise 0x03 0x0F)) ∧
  (∀ (s : State) (g : BitVec 4) (l d : BitVec 6) (k : BitVec 1) (u p : BitVec 3), s.runs g →
    let pn := pairNo k p
    (s.me.xgrant.getLsbD (2 * pn) = false → exec (.xstat g d k u p) s = .next (s.raise 0x04 0x08)) ∧
    (s.occupied (s.pidOf pn) = false → s.pairPeak (s.pidOf pn) ≤ 4 → s.me.xgrant.getLsbD (2 * pn) = true →
      (s.me.xgrant.getLsbD (2 * pn + 1) = false → exec (.xrst g l k p) s = .next (s.raise 0x04 0x09)) ∧
      (s.me.xgrant.getLsbD (2 * pn + 1) = true → (s.pair (s.pidOf pn)).pstate = 1 →
        exec (.xrst g l k p) s = .next (s.raise 0x09 0x06)) ∧
      (s.me.xgrant.getLsbD (2 * pn + 1) = true → (s.pair (s.pidOf pn)).pstate = 2 →
        exec (.xrst g l k p) s = .next (s.raise 0x09 0x07))) ∧
    (s.occupied (s.pidOf pn) = true → exec (.xrst g l k p) s = .next (s.raise 0x03 0x0F))) ∧
  (∀ (s : State) (g : BitVec 4) (t : BitVec 6) (u : BitVec 3) (e : BitVec 1) (k : BitVec 4), s.runs g →
    64 ≤ State.outstanding s.me → exec (.fence g t u e k) s = .next (s.raise 0x09 0x08)) ∧
  (∀ (s : State) (g : BitVec 4) (a : BitVec 6) (n : BitVec 9) (z : BitVec 3), s.runs g →
    (n ≠ 0 → s.fifoReady a.toNat n.toNat (fun _ => 0) = false → exec (.qdrop g a n) s = .next (s.raise 0x09 0x03)) ∧
    ((s.regs.lastMma.any fun l => s.hcyc s.cur.ctx < l + 32) = false →
      (s.fifoReady 0 32 id = false → exec (.mma g z) s = .next (s.raise 0x09 0x03)) ∧
      (s.fifoReady 0 32 id = true → (s.fifoClaimed 0 32 id).fifoReady 1 32 id = false →
        exec (.mma g z) s = .next ((s.fifoClaimed 0 32 id).raise 0x09 0x03)))) ∧
  (∀ (s : State) (g : BitVec 4) (n : BitVec 5) (q : BitVec 1) (a : BitVec 6) (x : Option Half) (off : Nat), s.reads1 g a →
    s.poolOk (s.valG a + xOff x) (64 * (n.toNat + 1)) 16 off →
    s.fifoRoom q.toNat (n.toNat + 1) (fun r => s.beat + r / 4 + 5) = false →
    exec (.qld g n q a x) s = .next (s.raise 0x09 0x04)) ∧
  (∀ (s : State) (g : BitVec 4) (d a b : BitVec 6) (u : BitVec 3) (x : Option Half) (off : Nat) (c : Claim), s.reads2 g a b →
    let n := 2 ^ (u.toNat % 4)
    s.poolOk (memAddr a b x (s.valG a) (s.valG b)) n n off →
    let hit := s.takeFault s.cur.ctx 0x06 0 s.cur.slot (BitVec.ofNat 64 (16 * (off / 16)))
      (BitVec.ofNat 64 (tileOf c.ctx + c.slot * 2 ^ 12 + c.hcyc * 2 ^ 16)) true false
    (s.holder (.bank (tileOf s.cur.ctx) (off / 16 % 16)) s.beat = some c → exec (.ld g d a b u x) s = .next hit) ∧
    (s.holder (.bank (tileOf s.cur.ctx) (off / 16 % 16)) (s.beat + 1) = some c → exec (.st g d a b u x) s = .next hit)) ∧
  (∀ (s : State) (g : BitVec 4) (d a b : BitVec 6) (so dO m : Nat), s.reads3 g d a b → s.poolOk (s.valG a) 64 16 so →
    s.poolOk (s.valG b) 64 16 dO → (s.valG d).toNat < 1024 → dieOf (s.valG d).toNat = dieOf (tileOf s.cur.ctx) →
    s.memberOn (s.valG d).toNat = some m → s.faultNow (tileOf s.cur.ctx) = none →
    let src := s.banks 0 [(so, 64)]
    let u := reserved src s
    let stops (code : Nat) : Prop := ∃ t r, exec (.msend g d a b) s = .next t ∧ t.cur.faulted = true ∧ t.taken.head? = some r ∧
      r.code = code ∧ r.cls = 1 ∧ r.second = true ∧ r.slot = s.cur.slot
    (¬ freeFor src s → stops 0x06) ∧ (freeFor src s → ¬ freeFor (u.meshLinks [m]) u → stops 0x07) ∧
    (freeFor src s → freeFor (u.meshLinks [m]) u →
      ¬ freeFor (u.meshBanks [m] dO) (reserved (u.meshLinks [m]) u) → stops 0x06))

/-! ### Frames -/

/-- What issuing a slot word leaves alone, when it takes no fault: all of memory and every mark of it, the beat, the records, the array
pairs, every other context, and of its own context every register but the sequencer's (the loop stack of a loop, TCODE and TBEAT of a
trap, the FIFO counters of a FIFO instruction, the last-MMA cycle of an MMA, the token bindings of a command). A gang changes by
reservations alone, and nothing already in flight is lost: results reach registers and memory by their later lands (R28, R30). -/
def Obligations.SlotWordFrame : Prop :=
  ∀ (s t : State) (i : Instr) (c : SlotClass) (w : Half) (x : Option Half), encode i = some (c, w, x) →
    exec i s = .next t → s.cur.faulted = false → t.cur.faulted = false →
    let op := (w.extractLsb' 25 7).toNat
    (∀ a, mget t.mem a = mget s.mem a) ∧ t.marks = s.marks ∧ t.beat = s.beat ∧ t.log = s.log ∧ t.pairs = s.pairs ∧
    t.frames = s.frames ∧ t.geom = s.geom ∧ t.irqs = s.irqs ∧ t.cur.ctx = s.cur.ctx ∧ t.cur.slot = s.cur.slot ∧
    (∀ d, d ≠ s.cur.ctx → t.ctx d = s.ctx d) ∧
    (∀ j, t.gang j = { s.gang j with claims := (t.gang j).claims, lines := (t.gang j).lines }) ∧
    t.regs = { s.regs with
      loops := t.regs.loops
      tcode := t.regs.tcode
      tbeat := t.regs.tbeat
      q0 := t.regs.q0
      q1 := t.regs.q1
      lastMma := t.regs.lastMma
      tok := t.regs.tok } ∧
    (¬ (c = .S ∧ (op = 0x44 ∨ op = 0x45)) → t.regs.loops = s.regs.loops) ∧
    (¬ (c = .S ∧ op = 0x53) → t.regs.tcode = s.regs.tcode ∧ t.regs.tbeat = s.regs.tbeat) ∧
    (¬ (c = .M ∧ op < 0x06) → t.regs.lastMma = s.regs.lastMma) ∧
    (¬ (c = .C ∧ 0x30 ≤ op) → t.regs.tok = s.regs.tok) ∧
    (¬ ((c = .M ∧ (op < 0x06 ∨ op = 0x0A)) ∨ (c = .C ∧ op ∈ [0x13, 0x20, 0x21, 0x22])) →
      t.regs.q0 = s.regs.q0 ∧ t.regs.q1 = s.regs.q1) ∧
    (∀ it ∈ s.me.items, it ∈ t.me.items) ∧ t.me.run = s.me.run ∧ t.me.nextAt = s.me.nextAt ∧ t.me.snap = s.me.snap ∧
    t.me.extents = s.me.extents ∧ t.me.xgrant = s.me.xgrant ∧ t.me.part = s.me.part

/-- What landing a result changes: the register named and its mark alone, for general registers, predicates, masks, lanes, the pair
registers and the special registers; and what a landing queues: nothing for g0, p0, m0, no lane or no flag, else one item due after the
latency; and which registers the fields name under rotation (R20, R22, R24, R30, R54, R124, R127, R128, R133, R270, R381). -/
def Obligations.LandFrames : Prop :=
  (∀ (r : Regs) (n q : Nat) (v : Word) (mk : Bool), n ≠ 0 →
    let t := r.land (.g n v mk)
    t = { r with g := t.g, marks := t.marks } ∧ t.gr n = v ∧ (q ≠ n → t.gr q = r.gr q) ∧ t.isMarked (keyG n) = mk ∧
    (q ≠ keyG n → t.isMarked q = r.isMarked q)) ∧
  (∀ (r : Regs) (n q : Nat) (v mk : Bool), n ≠ 0 →
    let t := r.land (.p n v mk)
    t = { r with p := t.p, marks := t.marks } ∧ t.pr n = v ∧ (q ≠ n → t.pr q = r.pr q) ∧ t.isMarked (keyP n) = mk ∧
    (q ≠ keyP n → t.isMarked q = r.isMarked q)) ∧
  (∀ (r : Regs) (vs : List (Nat × Bool)) (q : Nat), (vs.map fun x => x.1).Nodup →
    let t := r.land (.preds vs)
    t = { r with p := t.p, marks := t.marks } ∧ (∀ n b, n ≠ 0 → (n, b) ∈ vs → t.pr n = b ∧ t.isMarked (keyP n) = false) ∧
    (q ∉ vs.map (fun x => x.1) → t.pr q = r.pr q) ∧ (q ∉ vs.map (fun x => keyP x.1) → t.isMarked q = r.isMarked q)) ∧
  (∀ (r : Regs) (n q : Nat) (v : BitVec 128) (mk : Bool), n ≠ 0 →
    let t := r.land (.m n v mk)
    t = { r with m := t.m, marks := t.marks } ∧ t.mr n = v ∧ (q ≠ n → t.mr q = r.mr q) ∧ t.isMarked (keyM n) = mk ∧
    (q ≠ keyM n → t.isMarked q = r.isMarked q)) ∧
  (∀ (r : Regs) (n q l : Nat) (vs : List (Nat × Half × Bool)), (vs.map (·.1)).Nodup →
    let t := r.land (.lanes n vs)
    t = { r with v := t.v, marks := t.marks } ∧ (q ≠ n → ∀ i, t.lane q i = r.lane q i) ∧
    (l ∉ vs.map (·.1) → t.lane n l = r.lane n l) ∧ (∀ x mk, (l, x, mk) ∈ vs → t.lane n l = x ∧ t.isMarked (unitV n l) = mk) ∧
    (q ∉ vs.map (fun x => unitV n x.1) → t.isMarked q = r.isMarked q)) ∧
  (∀ (r : Regs) (p q : Nat) (w : BitVec 36) (y : BitVec 20),
    let t := r.land (.awin p w)
    let u := r.land (.again p y)
    t = { r with awin := t.awin } ∧ tget 0 t.awin p = w ∧ (q ≠ p → tget 0 t.awin q = tget 0 r.awin q) ∧
    u = { r with again := u.again } ∧ tget 0 u.again p = y ∧ (q ≠ p → tget 0 u.again q = tget 0 r.again q)) ∧
  (∀ (r : Regs) (f : BitVec 6) (ws : List Word) (v : Word),
    r.land (.flags f) = { r with fstat := r.fstat ||| f } ∧
    r.land (.fold ws) = { r with burg := ws.foldl (fun d w => d.rotateLeft 5 ^^^ w) r.burg } ∧
    r.land (.sreg 0x07 v) = { r with fstat := v.setWidth 6 } ∧ r.land (.sreg 0x08 v) = { r with burg := v } ∧
    r.land (.sreg 0x09 v) = { r with seedlo := v, dcnt := 0 } ∧ r.land (.sreg 0x0A v) = { r with seedhi := v, dcnt := 0 } ∧
    r.land (.sreg 0x11 v) = { r with targ := v }) ∧
  (∀ (s : State) (n : Nat),
    (∀ (d : BitVec 6) (v : Word) (mk : Bool), let r := greg s.regs.rotpos d.toNat;
      (r = 0 → s.landG d v n mk = s) ∧ (r ≠ 0 → s.queues (s.landG d v n mk) n (.g r v mk))) ∧
    (∀ (d : Nat) (v : Bool), let r := preg s.regs.rotpos d;
      (r = 0 → s.landP d v n = s) ∧ (r ≠ 0 → s.queues (s.landP d v n) n (.p r v false))) ∧
    (∀ (d : Nat) (v : BitVec 128), (d = 0 → s.landM d v n = s) ∧ (d ≠ 0 → s.queues (s.landM d v n) n (.m d v false))) ∧
    (∀ (d : BitVec 6) (vs : List (Nat × Half)), (vs = [] → s.landV d vs n = s) ∧ (vs ≠ [] → s.queues (s.landV d vs n) n
      (.lanes (vreg s.regs.rotpos s.me.window d.toNat) (vs.map fun x => (x.1, x.2, false))))) ∧
    (∀ f : BitVec 6, (f = 0 → s.landFlags f n = s) ∧ (f ≠ 0 → s.queues (s.landFlags f n) n (.flags f)))) ∧
  (∀ rho w n : Nat, 0 < w →
    (n < 16 → greg rho n = n) ∧ (16 ≤ n → (greg rho n : Int) = 16 + ((n : Int) - 16 - rho) % 16) ∧
    (n < 8 → preg rho n = n) ∧ (8 ≤ n → (preg rho n : Int) = 8 + ((n : Int) - 8 - rho) % 8) ∧
    (n < 32 → vreg rho w n = n) ∧ (32 ≤ n → (vreg rho w n : Int) = 32 + ((n : Int) - 32 - rho) % w))

/-- Every byte of memory outside the bytes an event stores keeps its value: a scratchpad store, a flit, a line written to HBM, a read
line landing in a pool or a code frame, an output group of an analog read, the row groups of `zst` and `zstb`; the other lands and
reads store nothing. A step of an engine command writes the word of its atomic or barrier, its copy's unit, its checkpoint's row or its
report, and its 64-byte block; a host access its bytes, an AtomicOp its word, a copy's line from another module that line. Beside
them an access may write AC and DY into the entry of a leaf it caches, and brings what a home outside the module holds for its lines
to memory (R183, R199, R219, R228, R231, R234, R236, R263, R265, R305, R349, R360, R362, R364, R365, R413). -/
def Obligations.StoreFrames : Prop :=
  (∀ (s : State) (c k : Nat) (it : Item) (tile : Nat) (chunks : List (Nat × List Byte × Bool)) (a : Nat), s.due c k it →
    it.act = .pool tile chunks → (∀ x ∈ chunks, a < poolAt tile x.1 ∨ poolAt tile x.1 + x.2.1.length ≤ a) →
    ∃ t, exec .storePerform s = .next t ∧ mget t.mem a = mget s.mem a) ∧
  (∀ (s : State) (c k : Nat) (it : Item) (d : Bool) (tile off : Nat) (bs : List Byte) (pms : List Bool) (a : Nat), s.due c k it →
    it.act = .flit d tile off bs pms → bs.length = 64 → a < poolAt tile off ∨ poolAt tile off + 64 ≤ a →
    ∃ t, exec (if d then .crossDieDelivery else .meshFlitDelivery) s = .next t ∧ mget t.mem a = mget s.mem a) ∧
  (∀ (s : State) (c k : Nat) (it : Item) (loc : Nat) (bs : List Byte) (pm : Bool) (a : Nat), s.due c k it →
    it.act = .hbmPerform loc bs pm → a < loc ∨ loc + bs.length ≤ a →
    ∃ t, exec .hbmLinePerform s = .next t ∧ mget t.mem a = mget s.mem a) ∧
  (∀ (s : State) (c k : Nat) (it : Item) (loc dst tgt pos : Nat) (bs : List Byte) (pm : Bool) (a : Nat), s.due c k it →
    it.act = .hbmLand loc dst tgt pos bs pm →
    let at' := if dst = 0 then poolAt (tileOf c) tgt else storeAt (tileOf c) (4096 * (tgt % 16) + 64 * pos)
    dst = 1 ∨ dst = 2 ∨ a < at' ∨ at' + bs.length ≤ a →
    ∃ t, exec .hbmLineLand s = .next t ∧ mget t.mem a = mget s.mem a) ∧
  (∀ (s : State) (c k : Nat) (it : Item), s.due c k it → it.act.isResult = true →
    ∃ t, exec .resultLand s = .next t ∧ t.mem = s.mem ∧ t.marks = s.marks) ∧
  (∀ (s : State) (c k n r a : Nat) (it : Item), s.due c k it → it.act = .aout n r →
    let at' := poolAt (tileOf c) ((s.op c n).dst + 256 * r)
    a < at' ∨ at' + 256 ≤ a → ∃ t, exec .arrayReadResult s = .next t ∧ mget t.mem a = mget s.mem a) ∧
  (∀ (s : State) (c k mode z off : Nat) (bf : Bool) (lo hi dc : Word) (it : Item), s.due c k it →
    it.act = .zstRead bf mode z off lo hi dc → (bf = true → State.markedRow (s.ctx c).regs z = none) →
    ∃ t, exec .mmaAccumulatorLand s = .next t ∧ t.mem = s.mem ∧ t.marks = s.marks ∧
      ∀ x ∈ (t.ctx c).items, x ∈ (s.ctx c).items ∨ x.act.isResult = true ∨ ∃ o bs mk, x.act = .pool (tileOf c) [(o, bs, mk)] ∧
        off ≤ o ∧ o + bs.length ≤ off + (if bf then 2048 else 4096)) ∧
  (∀ (s : State) (c k : Nat) (it : Item), s.due c k it → it.act.isMatrix = true →
    ∃ t, exec .mmaAccumulatorLand s = .next t ∧ t.mem = s.mem ∧ t.marks = s.marks) ∧
  (∀ (s : State) (c k n r : Nat) (it : Item), s.due c k it → it.act = .ain n r →
    ∃ t, exec .arrayReadResult s = .next t ∧ t.mem = s.mem ∧ t.marks = s.marks) ∧
  (∀ (s t : State) (c i a : Nat), s.arg 0 = c → s.arg 1 = i → s.cmdDue c i = true →
    let u := s.asCmd c i
    let k := s.cmd c i
    k.ending = none → k.result = none → k.stop = none → State.apart a (poolAt (tileOf c) k.pos) 64 →
    exec .engineCommandCompletion s = .next t →
    (k.op = 0x31 → (∀ p w, u.place c (k.w 0x08) 0 true = .ok p w → State.apart a p.flat k.atomBytes) → s.keeps t a) ∧
    (0x3A ≤ k.op → k.op ≤ 0x3C → (∀ p w, u.place c (k.w 0x08) 0 (k.op != 0x3C) = .ok p w → State.apart a p.flat 16) → s.keeps t a) ∧
    (k.op = 0x30 →
      let st := 64 * k.prog
      let n := min 64 (k.copyLen - st)
      (∀ l stop w ps x, State.readRuns c k (State.copyRuns k n st n) u = .ok l stop w → w.copySpots c k st l.length = .ok ps x →
        ∀ y ∈ ps, State.apart a y.1.flat y.2) → s.keeps t a) ∧
    (k.op = 0x36 → (∀ ps x, State.writePlaces c k.issued (k.w 0x10) (u.lineBase c (k.w 0x10) (k.prog * k.pitch)) (k.prog * k.pitch)
        (State.pieces (u.lineBase c (k.w 0x10) (k.prog * k.pitch)) (k.win.cols * k.elem)) u = .ok ps x → ∀ y ∈ ps, State.apart a y.1.flat y.2) →
      s.keeps t a) ∧
    (k.op = 0x32 ∨ k.op = 0x35 ∨ k.op = 0x37 ∧ k.f 0x28 8 = 0 ∨ k.op = 0x38 ∨ k.op = 0x39 ∨ k.op = 0x3D → s.keeps t a)) ∧
  (∀ (s t : State) (a : Nat), let u : State := { s with asker := .host }
    let va := s.apbase + s.arg 1 % 2 ^ 36;
    (exec .hostBar4Access s = .next t → (∀ ps x, s.arg 0 = 1 → s.arg 2 + 3 ≤ s.ev.length →
      State.vplaces 0 0 true (State.pieces va (s.arg 2)) u = .ok ps x → ∀ y ∈ ps, State.apart a y.1.flat y.2) →
      s.arg 0 ≠ 1 ∨ s.arg 2 + 3 ≤ s.ev.length → s.keeps t a) ∧
    (let vb := s.apbase + s.arg 2 % 2 ^ 36;
      exec .hostAtomicop s = .next t → (∀ q w p x, u.xlate 0 0 vb false = .ok q w → w.xlate 0 0 vb true = .ok p x →
        State.apart a p.flat (s.arg 1)) → s.keeps t a)) ∧
  (∀ (s t : State) (f : Sent) (a : Nat), s.message f = .ok () t →
    (f.op = msgCopy → (∀ ps x, State.vplaces 0 f.asid true (State.pieces (f.words.getD 3 0) f.data.length) s = .ok ps x →
      ∀ y ∈ ps, State.apart a y.1.flat y.2) → s.keeps t a) ∧
    (f.op = 2 ∨ 5 ≤ f.op → t.mem = s.mem)) ∧
  (∀ (s : State) (a n : Nat) (bs : List Byte) (mk : Bool), (s.Sound → (s.wr a bs mk).rd a bs.length = bs) ∧
    (n < a ∨ a + bs.length ≤ n → mget (s.wr a bs mk).mem n = mget s.mem n))

/-! ### The machine's own events -/

/-- Results and accesses in flight, each at its beat: a result lands, XSEED with STEP at zero, and the draw counter advances by the draws
of a bundle; stores, flits, line commands, landings and performs, FIFO landings, code frames, valid again once no other fill of the
frame is in flight (R30, R54, R177, R191, R220, R228 to R236, R313). -/
def Obligations.AccessEvents : Prop :=
  (∀ (s : State) (c k : Nat) (it : Item), s.due c k it →
    (it.act.isResult = true → (∀ pid v, it.act ≠ .xseed pid v) →
      exec .resultLand s = .next ((s.without c it).modRegs c fun r => r.land it.act)) ∧
    (∀ pid v, it.act = .xseed pid v →
      exec .resultLand s = .next ((s.without c it).modPair pid fun p => { p with xseed := v, step := 0 })) ∧
    (∀ n, it.act = .draws n →
      exec .drawCounterAdvance s = .next ((s.without c it).modRegs c fun r => { r with dcnt := r.dcnt + BitVec.ofNat 64 n }))) ∧
  (∀ (s : State) (c k : Nat) (it : Item), s.due c k it →
    let t := s.without c it
    (∀ tile l, it.act = .pool tile l → exec .storePerform s = .next (t.wrChunks tile l)) ∧
    (∀ tile off bs pms, it.act = .flit false tile off bs pms → exec .meshFlitDelivery s = .next (t.wrChunks tile
      (((List.range 4).zip pms).map fun (i, pm) => (off + 16 * i, (bs.drop (16 * i)).take 16, pm)))) ∧
    (∀ tile off bs pms, it.act = .flit true tile off bs pms → exec .crossDieDelivery s = .next (t.wrChunks tile
      (((List.range 4).zip pms).map fun (i, pm) => (off + 16 * i, (bs.drop (16 * i)).take 16, pm)))) ∧
    (∀ d m, it.act = .arrive d m → exec (if d then .crossDieDelivery else .meshFlitDelivery) s =
      .next (t.modCtx m fun x => { x with sc := false })) ∧
    (∀ loc n dst tgt pos, it.act = .hbmRead loc n dst tgt pos → dst ≠ 3 ∨ s.marked loc 64 = false → exec .hbmLineCommand s =
      .next (t.follow c it n (.hbmLand loc dst tgt pos (s.rd loc 64) (s.marked loc 64)))) ∧
    (∀ loc n tgt pos, it.act = .hbmRead loc n 3 tgt pos → s.marked loc 64 = true → it.bad = false → exec .hbmLineCommand s =
      .next ((t.takeFault c 0x0A 0 it.slot (BitVec.ofNat 64 (tgt / 16)) 0 false false).failItem c it)) ∧
    (∀ loc tile off, it.act = .hbmWrite loc tile off → exec .hbmLineCommand s = .next (t.addItem c { it with
      due := it.due + 96, rt := true, act := .hbmPerform loc (s.rd (poolAt tile off) 64) (s.marked (poolAt tile off) 64) })) ∧
    (∀ loc tgt pos bs pm, it.act = .hbmLand loc 0 tgt pos bs pm → exec .hbmLineLand s =
      .next (t.wr (poolAt (tileOf c) tgt) bs pm)) ∧
    (∀ loc tgt pos bs pm, it.act = .hbmLand loc 1 tgt pos bs pm → exec .hbmLineLand s =
      .next (t.landFifo c tgt [(pos, State.payload bs, 0, pm)])) ∧
    (∀ loc tgt pos bs pm, it.act = .hbmLand loc 2 tgt pos bs pm → exec .hbmLineLand s =
      .next (t.modCtx c fun x => { x with gather := tset x.gather tgt ((pos, bs, pm) :: tget [] x.gather tgt) })) ∧
    (∀ loc tgt pos bs pm, it.act = .hbmLand loc 3 tgt pos bs pm → exec .hbmLineLand s =
      .next (t.wr (storeAt (tileOf c) (4096 * (tgt % 16) + 64 * pos)) bs pm)) ∧
    (∀ loc bs pm, it.act = .hbmPerform loc bs pm → exec .hbmLinePerform s = .next (t.wr loc bs pm)) ∧
    (∀ q es, it.act = .fifo q es → exec .fifoPositionLand s = .next (t.landFifo c q es)) ∧
    (∀ r off, it.act = .vldHalf r off → exec .fifoPositionLand s =
      .next (t.follow c it 4 (.lanes r (s.poolLanes (tileOf c) off 64 64)))) ∧
    (∀ tile f ok, it.act = .frame tile f ok → ∃ u, exec .codeFrameFillComplete s = .next u ∧
      (tget {} u.frames (16 * tile + f)).valid = (ok && !((t.ctx c).items.any fun i => i.act = .frame tile f true)) ∧
      (tget {} u.frames (16 * tile + f)).owner = (tget {} s.frames (16 * tile + f)).owner ∧ u.mem = s.mem))

/-- The sequencer: a bundle is fetched and staged, a fetch from an invalid frame slips and a decoding fault is raised, an empty bundle
lasts n + 2 cycles, the halyard advances by one, a taken branch redirects, and a loop steps, both at the cycle of the next bundle and
not before (R27, R35, R39, R40, R73, R74, R83, R115, R135). -/
def Obligations.SequencerEvents : Prop :=
  (∀ s : State, s.frameValid s.cur.ctx s.regs.pc.toNat = true →
    s.marked (storeAt (tileOf s.cur.ctx) s.regs.pc.toNat) 1 = false →
    (∀ b, s.fetched = .bundle b → s.pastLoop s.regs.pc.toNat = false → exec .bundleFetch s = .next (s.stage b)) ∧
    (∀ f, s.fetched = .bad f → exec .bundleFetch s = .next ((s.modCur fun c => { c with slot := f.slot }).raise f.code f.detail))) ∧
  (∀ s : State, s.frameValid s.cur.ctx s.regs.pc.toNat = false → exec .bundleFetch s = .next (s.raise 0x09 0x02)) ∧
  (∀ (s : State) (n : BitVec 8), s.cur.idle = some n → s.cur.pin = none → s.cur.drain = false → s.cur.jump = none →
    ∃ t, exec .emptyBundle s = .next t ∧ t.me.nextAt = s.beat + 2 + n.toNat ∧
      t.regs.pc = s.cur.pc + BitVec.ofNat 16 s.cur.len ∧ t.regs = { s.regs with pc := t.regs.pc } ∧ t.mem = s.mem) ∧
  (∀ s : State, s.taken = [] → (∀ gid f, (s.gang gid).fz = some f → f.why = .trap → f.beat ≠ s.beat + 1) →
    exec .halyardBeat s = .next { s with beat := s.beat + 1, undo := [], seen := if s.openNow then s.mem else s.seen }) ∧
  (∀ (s : State) (c : Nat) (a : BitVec 16), s.arg 0 = c → (s.ctx c).redirect = some a →
    exec .branchTakenRedirect s = .next ((s.keepUndo c).setCtx c { s.ctx c with
      redirect := none, regs := { (s.ctx c).regs with pc := a, loops := popLoops a.toNat (s.ctx c).regs.loops } })) ∧
  (∀ (s : State) (c : Nat) (l : Loop) (r : List Loop), s.arg 0 = c → (s.ctx c).regs.loops = l :: r →
    let x := s.ctx c
    let turn (y : Ctx) : State := s.setCtx c (if l.rot then
      { y with regs := { y.regs with rotpos := (x.regs.rotpos + 1) % Nat.lcm 16 x.window } } else y)
    (1 < l.count → exec .loopIterationStep s = .next (turn { x with
      loopStep := false, regs := { x.regs with pc := l.start, loops := { l with count := l.count - 1 } :: r } })) ∧
    (l.count ≤ 1 → exec .loopIterationStep s = .next (turn { x with
      regs := { x.regs with loops := r }, loopStep := (r.head?.map fun k => decide (k.stop = l.stop)).getD false }))) ∧
  (∀ (s : State) (c : Nat) (p : Pick), s.pickSeq = some p → p = .event .branchTakenRedirect [c] ∨ p = .event .loopIterationStep [c] →
    (s.ctx c).run = .running ∧ (s.ctx c).nextAt ≤ s.beat ∧ s.gangFrozen (s.ctx c).gang = false)

/-- The matrix unit's and the arrays' own steps: entry reads; the accumulator read at issue + 39 and the land a cycle later of every
element, the leaves of its products summed by R68's tree; row groups of `zld` read and of `zst`, `zstb` queued; an analog operation's
input groups, the drive levels, ADC codes and results of a read; its output groups; pulse slots, whose steps are the cells' own answer
(log entry 12), the digital phase of a transfer and the end of a train; the weight of a cell, the pulse generator and its thresholds, what
a leaf of a product is and when a zero is skipped (R68, R175, R180, R183, R276 to R278, R282 to R286, R305, R308). -/
def Obligations.MatrixAndArrayEvents : Prop :=
  (∀ (s : State) (c k : Nat) (it : Item), s.due c k it →
    let t := s.without c it
    let regs := (t.ctx c).regs
    (∀ kind zs ta tb z c0 c1 r rows cols, it.act = .mmaRead kind zs ta tb z c0 c1 r rows cols →
      regs.isMarked (unitQ 0 (c0 + r)) = false → regs.isMarked (unitQ 1 (c1 + r)) = false →
      let rows' := rows ++ [tget (0, 0) regs.q0.slots ((c0 + r) % 64)]
      let cols' := cols ++ [tget (0, 0) regs.q1.slots ((c1 + r) % 64)]
      exec .mmaAccumulatorLand s = .next (if r < 31 then t.follow c it 1 (.mmaRead kind zs ta tb z c0 c1 (r + 1) rows' cols')
        else t.follow c it 8 (.mmaAcc kind zs ta tb z rows' cols'))) ∧
    (∀ kind zs ta tb z rows cols, it.act = .mmaAcc kind zs ta tb z rows cols → rows.length = 32 → cols.length = 32 →
      State.markedRow regs z = none → ∃ u vals, exec .mmaAccumulatorLand s = .next u ∧ u.mem = s.mem ∧
        (u.ctx c).regs = regs ∧ vals.length = 1024 ∧
        (∃ x ∈ (u.ctx c).items, x.due = it.due + 1 ∧ x.act = .zland z vals []) ∧
        ∀ i j, i < 32 → j < 32 → vals[32 * i + j]? = some (32 * i + j, (mmaElem zs
          (Entry.elems kind ta (rows.getD i (0, 0))) (Entry.elems kind tb (cols.getD j (0, 0))) (regs.acc z (32 * i + j))).1)) ∧
    (∀ z vals rows, it.act = .zland z vals rows → it.bad = false → ∃ u, exec .mmaAccumulatorLand s = .next u ∧ u.mem = s.mem ∧
      (∀ e v, (vals.map (·.1)).Nodup → (e, v) ∈ vals → (u.ctx c).regs.acc z e = v) ∧
      (∀ y e, y ≠ z ∨ e ∉ vals.map (·.1) → (u.ctx c).regs.acc y e = regs.acc y e) ∧
      (∀ i, i < 32 → (u.ctx c).regs.isMarked (unitZ z i) = rows.contains i)) ∧
    (∀ bf z off g vals rows f, it.act = .zldRow bf z off g vals rows f →
      let a := poolAt (tileOf c) (off + 256 * g)
      let n := if bf then 8 else 16
      (bf = true → s.marked a 256 = false) →
      let new : List (Nat × Half) := if bf
        then (List.range 128).map fun i => (128 * g + i, BitVec.ofNat 32 (fp32OfBf16 (s.rdNat (a + 2 * i) 2)).1)
        else (List.range 64).map fun i => (64 * g + i, BitVec.ofNat 32 (s.rdNat (a + 4 * i) 4))
      ∃ u rs fl x, exec .mmaAccumulatorLand s = .next u ∧ u.mem = s.mem ∧ x ∈ (u.ctx c).items ∧
        rs = rows ++ ((List.range 2).filter fun h => s.marked (a + 128 * h) 128).map (fun h => 2 * g + h) ∧
        (g + 1 < n → x.due = it.due + 1 ∧ x.act = .zldRow bf z off (g + 1) (vals ++ new) rs fl) ∧
        (n ≤ g + 1 → x.due = it.due + (40 - n) ∧ x.act = .zland z (vals ++ new) rs)) ∧
    (∀ mode z off lo hi dc, it.act = .zstRead false mode z off lo hi dc → ∃ u, exec .mmaAccumulatorLand s = .next u ∧
      ∀ g h, g < 16 → h < 2 → ∃ x ∈ (u.ctx c).items, x.due = it.due + 1 + g ∧ x.act = .pool (tileOf c) [(off + 256 * g + 128 * h,
        (List.range 32).flatMap (fun j => leBytes 4 (regs.acc z (64 * g + 32 * h + j)).toNat),
        regs.isMarked (unitZ z (2 * g + h)))]) ∧
    (∀ mode z off lo hi dc, it.act = .zstRead true mode z off lo hi dc → State.markedRow regs z = none → it.bad = false →
      ∃ u, exec .mmaAccumulatorLand s = .next u ∧
      ∀ g, g < 8 → ∃ x ∈ (u.ctx c).items, x.due = it.due + 1 + g ∧ x.act = .pool (tileOf c) [(off + 256 * g,
        (List.range 128).flatMap (fun i => leBytes 2 (bf16OfFp32 (Rnd.ofCode mode)
          ((genNext lo hi dc (128 * g + i)).toNat % 65536) (regs.acc z (128 * g + i)).toNat).1), false)]) ∧
    (∀ n r, it.act = .aout n r → exec .arrayReadResult s = .next (t.wr
      (poolAt (tileOf c) ((t.op c n).dst + 256 * r)) (bytesOfLanes (((t.op c n).outs.drop (64 * r)).take 64)) false)) ∧
    (∀ n r off len, it.act = .ain n r → ((t.op c n).inputs.find? fun x => x.1 = r) = some (r, off, len) →
      let o := t.op c n
      let a := poolAt (tileOf c) off
      let full := { o with ins := o.ins ++ s.rd a len }
      s.marked a len = false → ∃ u, exec .arrayReadResult s = .next u ∧ u.mem = s.mem ∧
        (r < o.lastInput → u.op c n = full) ∧
        (o.lastInput ≤ r → o.kind = 2 → u.op c n = { full with kr := full.thresholds.1, kc := full.thresholds.2, begun := true }) ∧
        (o.lastInput ≤ r → o.kind ≠ 2 → u.op c n = { full with outs := (full.answer (s.pair o.pid) s.fresh).1, begun := true })) ∧
    (∀ n i, it.act = .pulse n i →
      let o := t.op c n
      let u := if o.kind = 3 then t else t.stepCells o.pid (o.kind = 4) (o.coincidences i)
      exec .arrayPulseSlot s = .next (u.stepCells o.pid false (o.resetCells.map fun q => (q, i % 2 = 0)))) ∧
    (∀ n, it.act = .digital n → ∃ u, exec .transferDigitalPhase s = .next u ∧ u.mem = s.mem ∧ u.pairs = s.pairs ∧
      (if (t.op c n).row then (u.op c n).kr else (u.op c n).kc) = [((t.op c n).line, 256, false)]) ∧
    (∀ n, it.act = .train n →
      exec .trainComplete s = .next (t.modPair (t.op c n).pid fun p => { p with step := p.step + 1 }))) ∧
  (∀ (zs : Bool) (x y : Ex), let special := x.isInf || x.isNan || y.isInf || y.isNan
    (zs = true → x.isZero = true ∨ y.isZero = true → ∃ e, mmaLeaf zs x y = (.fin false 0 e, flagIf special fSKIP)) ∧
    (zs = false ∨ x.isZero = false ∧ y.isZero = false →
      (∀ a m e b n f, x = .fin a m e → y = .fin b n f → mmaLeaf zs x y = (.fin (a != b) (m * n) (e + f), 0)) ∧
      (x.isNan = true ∨ y.isNan = true → mmaLeaf zs x y = (.nan false, flagIf (x.isSig || y.isSig) fNV)) ∧
      (x.isNan = false → y.isNan = false → x.isInf = true ∨ y.isInf = true → mmaLeaf zs x y =
        if x.isZero || y.isZero then (.nan false, fNV) else (.inf (x.sign != y.sign), 0)))) ∧
  (∀ o : AnOp, let w := windowOf o.win.toNat; 4 * (w.rows + w.cols) ≤ o.ins.length →
    let side (first n at' : Nat) : List (Nat × Nat × Bool) := (List.range n).map fun i => let e := leNat ((o.ins.drop (at' + 4 * i)).take 4)
      (first + i, pulseK (e % 32768), e.testBit 15)
    o.thresholds = (side w.row0 w.rows 0, side w.col0 w.cols (4 * w.rows))) ∧
  (∀ (zs : Bool) (xs ys : List Ex) (acc : Half), xs.length = ys.length →
    let ps := List.zipWith (fun x y => (mmaLeaf zs x y).1) xs ys
    (xs.length = 32 → (mmaElem zs xs ys acc).1 = BitVec.ofNat 32 (treeSum32 ps (Ex.ofBits .fp32 acc.toNat)).1) ∧
    (xs.length = 64 → (mmaElem zs xs ys acc).1 = BitVec.ofNat 32 (treeSum32 (ps.drop 32)
      (Ex.ofBits .fp32 (treeSum32 (ps.take 32) (Ex.ofBits .fp32 acc.toNat)).1)).1)) ∧
  (∀ (p : List Ex) (acc : Ex), p.length = 32 → ∃ l : Nat → Nat → Ex, (∀ k, k < 32 → p[k]? = some (l 0 k)) ∧
    (∀ n j, n < 5 → j < 2 ^ (4 - n) → l (n + 1) j =
      Ex.ofBits .fp32 (roundEx .fp32 .rne (Ex.add .rne (l n (2 * j)) (l n (2 * j + 1))).1).1) ∧
    (treeSum32 p acc).1 = (roundEx .fp32 .rne (Ex.add .rne acc (l 5 0)).1).1) ∧
  (∀ (o : AnOp) (p : Pair) (base j : Nat), o.kind ≤ 1 →
    let w := windowOf o.win.toNat
    let nin := if o.kind = 1 then w.cols else w.rows
    let cell (i : Nat) : Nat := if o.kind = 1 then 512 * (w.row0 + j) + w.col0 + i else 512 * (w.row0 + i) + w.col0 + j
    let xs := o.elements nin
    let sum := ((List.range nin).map fun i =>
      (driveLevel (xeOf o.gain) (xs.getD i .zero)).1 * p.weight (o.gain.extractLsb' 0 16).toNat (cell i)).sum
    j < (if o.kind = 1 then w.rows else w.cols) → (o.answer p base).1[j]? = some (BitVec.ofNat 32 (roundEx .bf16 .rne
      (adcValue (if o.kind = 1 then p.calB (w.row0 + j) else p.calF (w.col0 + j)) (xeOf o.gain) (adcCode sum (base + j)))).1)) ∧
  (∀ (o : AnOp) (t key : Nat) (up : Bool), (key, up) ∈ o.coincidences t ↔ ∃ i k si j l sj, (i, k, si) ∈ o.kr ∧ (j, l, sj) ∈ o.kc ∧
    fires k o.seed o.pid o.step t i = true ∧ fires l o.seed o.pid o.step t (512 + j) = true ∧ key = 512 * i + j ∧ up = (si == sj)) ∧
  (∀ (k : Nat) (seed : Word) (pid : Nat) (step : Half) (t line : Nat), fires k seed pid step t line =
    decide ((hPulse seed pid step t line).toNat / 2 ^ 24 < k)) ∧
  (∀ (s : State) (pid key : Nat) (up : Bool), let p := s.pair pid
    let d : Int := if up then Config.cellStep s.fresh else -(Config.cellStep s.fresh : Int);
    (let q := (s.stepCell pid false key up).pair pid;
      tget 0 q.gF key = tget 0 p.gF key + d ∧ q.gS = p.gS ∧ ∀ n, n ≠ key → tget 0 q.gF n = tget 0 p.gF n) ∧
    (let q := (s.stepCell pid true key up).pair pid;
      tget 0 q.gS key = tget 0 p.gS key + d ∧ q.gF = p.gF ∧ ∀ n, n ≠ key → tget 0 q.gS n = tget 0 p.gS n)) ∧
  (∀ (xe x : Int) (n m : Nat) (e : Int) (b : Bool), -256 ≤ adcCode x n ∧ adcCode x n ≤ 255 ∧
    (driveLevel xe (.nan b)).1 = 0 ∧ (driveLevel xe (.inf b)).1 = (if b then -128 else 128) ∧
    (driveLevel xe (.fin b m e)).1 = (if b then -1 else 1) * (min (riNat m (e + 7 - xe)) 128 : Nat)) ∧
  (∀ (p : Pair) (gamma key : Nat) (nf ns : Bool) (mg mf ms : Nat) (eg ef es : Int), Ex.ofBits .bf16 gamma = .fin false mg eg →
    Ex.ofBits .bf16 p.spf.toNat = .fin nf mf ef → Ex.ofBits .bf16 p.sps.toNat = .fin ns ms es → gamma < 32768 →
    let val (n : Bool) (m : Nat) (e : Int) : ℚ := (if n then -1 else 1) * m * (2 : ℚ) ^ e
    ((p.weight gamma key : ℤ) : ℚ) / 2 ^ 266 = val false mg eg * (((tget 0 p.gF key : ℤ) : ℚ) / 2 ^ 64 - val nf mf ef) +
      (((tget 0 p.gS key : ℤ) : ℚ) / 2 ^ 64 - val ns ms es)) ∧
  (∀ (seed : Word) (pid t line : Nat) (step v : Half),
    let a := (v ^^^ (v >>> 16)) * 0x7FEB352D#32
    let b := (a ^^^ (a >>> 15)) * 0x846CA68B#32
    let key := mix32 (mix32 (seed.setWidth 32 ^^^ step) ^^^ (seed >>> 32).setWidth 32 ^^^ (BitVec.ofNat 14 pid).setWidth 32)
    let w := key ^^^ ((BitVec.ofNat 10 line ++ BitVec.ofNat 6 t).setWidth 32 * 0x9E3779B9#32)
    mix32 v = b ^^^ (b >>> 16) ∧ hPulse seed pid step t line = (w ^^^ (w >>> 15)) * 0x2C1B3C6D#32) ∧
  (∀ p : Nat, (∀ g, Ex.ofBits .bf16 p = .nan g → pulseK p = 0) ∧
    (∀ n, Ex.ofBits .bf16 p = .inf n → pulseK p = if n then 0 else 256) ∧
    ∀ n m e, Ex.ofBits .bf16 p = .fin n m e → pulseK p = if n then 0 else min (riNat m (e + 8)) 256)

/-- Engine commands: with every producer done a command starts, or completes with the status its producers give; an array command holds
its pair, or completes THERMAL; a started one makes its next step, and a fence that waits for nothing completes OK; an old home stops
forwarding, and stays known while some translation cached before could still lead to it. A command whose accesses are made waits for
what has still to reach memory and for bank-cycles that no timetabled claim holds; then the record lies in the block's last 16 bytes with
RESULT or MDIG beside it, the pair is released, token and counter follow in the same step, and the forwarding of a moved page ends 65,536
beats later. A step's content: an atomic's old value and new word at its home; a barrier's EXPECTED, ARRIVED and PHASE; a copy's unit, its
runs, its CRC and its end; a reduction's, a collective's and a multicast's lines; a checkpoint's and a programmed row; a re-stripe's
granules and its entry. What `xcal` measures, the size of a step, which accesses a fence waits for and how long an old home stays known
are the model's choices (log entries 13, 14, 29, 38) (R241, R246 to R248, R252, R254, R255, R257, R293 to R295, R318 to R321, R349, R350,
R352, R359 to R369, R416, R418, R424). -/
def Obligations.EngineEvents : Prop :=
  (∀ (s : State) (c i : Nat), s.arg 0 = c → s.arg 1 = i → s.cmdReady c i = true →
    (s.chainStatus c (s.cmd c i) = none → exec .engineCommandStart s = .next ((s.modCmd c i fun k => { k with
      started := true, gen := s.fresh, crc := s.crcStart c (s.cmd c i) }).snooze c i)) ∧
    (∀ st d, s.chainStatus c (s.cmd c i) = some (st, d) → s.syncColl c i = false →
      exec .engineCommandStart s = .next (s.finish c i st d)) ∧
    (∀ st d, s.chainStatus c (s.cmd c i) = some (st, d) → s.syncColl c i = true →
      let gid := (s.cmd c i).f 0x24 2
      let skip (t : State) : State := { t with skipped := t.skipped ++ [(gid, (s.cmd c i).issued, c, i)] }
      let u := s.asCmd c i
      let v := u.groupUse gid
      (st ≠ 0x03 → exec .engineCommandStart s = .next ((skip s).finish c i st d)) ∧
      (st = 0x03 → u.groupReady gid = true → v.cmd c i = s.cmd c i →
        exec .engineCommandStart s = .next ((skip v).finish c i st (v.collDetail gid))) ∧
      (st = 0x03 → u.groupReady gid = false → exec .engineCommandStart s = .next ((u.groupAsk gid).snooze c i)))) ∧
  (∀ (s : State) (c i : Nat), s.arg 0 = c → s.arg 1 = i → s.arrReady c i = true →
    let pid := State.enginePair c (s.cmd c i)
    (∀ st d, s.chainStatus c (s.cmd c i) = some (st, d) → exec .arrayEngineStart s = .next (s.finish c i st d)) ∧
    (s.chainStatus c (s.cmd c i) = none → (s.pair pid).pstate = 2 → exec .arrayEngineStart s = .next (s.finish c i 0x09 0)) ∧
    (s.chainStatus c (s.cmd c i) = none → (s.pair pid).pstate ≠ 2 → exec .arrayEngineStart s =
      .next (((s.modPair pid fun p => { p with pstate := 1 }).modCmd c i fun k => { k with
        started := true, pairHeld := true }).snooze c i))) ∧
  (∀ (s : State) (c i : Nat), s.arg 0 = c → s.arg 1 = i → s.cmdDue c i = true →
    let u := s.asCmd c i
    let k := s.cmd c i
    let pid := State.enginePair c k
    let asid := (s.ctx c).asid.toNat
    let goes (t : State) : Prop := exec .engineCommandCompletion s = .next t
    goes (s.stepCmd c i) ∧ u = { s with asker := .cmd c i, die := dieOf (tileOf c) } ∧
    (∀ st d, k.ending = some (st, d) → goes (u.finish c i st d)) ∧
    (k.ending = none →
      (k.op = 0x30 →
        (k.f 0x1C 2 ≠ 0xFFFF → s.fnum = 0xFFFF → goes (u.pageFault c i 0 0 4 asid (k.f 0x10 8))) ∧
        (k.f 0x1C 2 = 0xFFFF ∨ s.fnum ≠ 0xFFFF →
          let st := 64 * k.prog
          let n := min 64 (k.copyLen - st)
          let runs := State.copyRuns k n st n
          (k.answers < k.asked → goes (u.snooze c i)) ∧
          (k.asked ≤ k.answers → ∀ a l r, k.out = (a, l) :: r → u.fenced c k.issued hostBase = false → goes (((u.send (k.f 0x1C 2) 0 asid a
            msgCopy [c, i, k.gen, a, k.crc.getD 0, State.marksOf l] (l.map (·.1))).modCmd c i fun q => { q with
              out := r
              asked := q.asked + 1 }).snooze c i)) ∧
          (k.asked ≤ k.answers → k.out = [] → n = 0 ∨ k.stop.isSome = true → goes (u.copyNext c i)) ∧
          (k.asked ≤ k.answers → k.out = [] → n ≠ 0 → k.stop = none →
            (∀ q, u.nextIndex c k runs = some q → ∀ bs pm t, u.aread c k.issued (k.w 0x20) (4 * q) 4 = .ok (bs, pm) t →
              goes ((t.modCmd c i fun x => { x with idx := x.idx ++ [(q, leNat bs, pm)] }).snooze c i)) ∧
            (u.nextIndex c k runs = none → ∀ l0 stop t, State.readRuns c k runs u = .ok l0 stop t →
              let l := State.flipped k.flips st l0
              let far := k.far u
              let next (w : State) : State := w.modCmd c i fun x => { x with
                prog := x.prog + 1
                idx := x.idx.filter fun y => (64 * (x.prog + 1)) / x.f 0x18 4 ≤ y.1
                pois := x.pois || l.any (·.2)
                stop := State.copyStop x stop
                out := if far then State.linesOf (x.f 0x10 8 + st) l else []
                crc := if far then x.crc else x.crc.map fun v => (l.map (·.1)).foldl crc32c v }
              (far = true → goes ((next t).snooze c i)) ∧ (far = false → l = [] → goes ((next t).copyNext c i)) ∧
              (far = false → l ≠ [] → ∀ w, t.copyWrite c k st l = .ok () w → goes ((next w).copyNext c i)))))) ∧
      (k.op = 0x31 →
        let n := k.atomBytes
        let op := bits (k.f 0 1) 0 4
        (u.mustWait c k = true → goes (u.snooze c i)) ∧
        (u.mustWait c k = false → ∀ p t, u.place c (k.w 0x08) 0 true = .ok p t →
          let held := t.fenced c k.issued (State.homeSpot p) || t.placeBusy c p n
          let sysa := t.sysaOf (dieOf (tileOf c)) (t.ctx c).asid.toNat (t.lineBase c (k.w 0x08) 0)
          (held = true → goes (u.snooze c i)) ∧
          (held = false → hostBase ≤ p.flat → 2 < op ∨ sysa = false → goes (t.finish c i 0x06 0)) ∧
          (held = false → p.flat < hostBase ∨ op ≤ 2 ∧ sysa = true → t.through = [] →
            (t.marked p.flat n = true → goes (t.finish c i 0x03 0)) ∧
            (t.marked p.flat n = false →
              let v := t.rdNat p.flat n
              let x := k.f 0x10 n
              let less := (BitVec.ofNat (8 * n) v).toInt ≤ (BitVec.ofNat (8 * n) x).toInt
              let new := if op = 0 then (v + x) % 2 ^ (8 * n) else if op ≤ 2 then x
                else if op = 3 then (if less then v else x) else if op = 4 then min v x
                else if op = 5 then (if less then x else v) else if op = 6 then max v x
                else if op = 7 then v &&& x else if op = 8 then v ||| x else v ^^^ x
              let ends (w : State) : Prop := goes ((w.setResult c i 0x20 (leBytes 8 v)).finish c i 0x01 0)
              (op = 1 ∧ v ≠ k.f 0x18 n → ends t) ∧ (op = 1 ∧ v ≠ k.f 0x18 n ∨ ∃ w, t.putAt p (leBytes n new) w ∧ ends w))))) ∧
      (0x3A ≤ k.op → k.op ≤ 0x3C →
        let val := k.f 0x10 4
        (u.mustWait c k = true → goes (u.snooze c i)) ∧
        (u.mustWait c k = false → ∀ p t, u.place c (k.w 0x08) 0 (k.op != 0x3C) = .ok p t →
          let held := t.fenced c k.issued (State.homeSpot p)
          (held = true → goes (u.snooze c i)) ∧
          (held = false → hostBase ≤ p.flat → goes (t.finish c i 0x06 0)) ∧
          (held = false → p.flat < hostBase → t.through = [] → t.marked p.flat 16 = true → goes (t.finish c i 0x03 0)) ∧
          (held = false → p.flat < hostBase → t.through = [] → t.marked p.flat 16 = false →
            let bs := t.rd p.flat 16
            let expect := leNat (bs.take 4)
            let arrived := leNat ((bs.drop 4).take 4)
            let phase := leNat ((bs.drop 8).take 4)
            let object (e a f : Nat) : List Byte := leBytes 4 e ++ leBytes 4 a ++ leBytes 4 f ++ bs.drop 12
            let ends (w : State) (status : Nat) : Prop := goes ((w.setResult c i 0x18 (leBytes 4 phase)).finish c i status 0)
            (k.op = 0x3A → ∃ w, t.putAt p (object val 0 0) w ∧ ends w 0x01) ∧
            (k.op = 0x3B → phase ≠ val → ends t 0x0A) ∧
            (k.op = 0x3B → phase = val → (arrived + 1) % 2 ^ 32 = expect →
              ∃ w, t.putAt p (object expect 0 ((phase + 1) % 2 ^ 32)) w ∧ ends w 0x01) ∧
            (k.op = 0x3B → phase = val → (arrived + 1) % 2 ^ 32 ≠ expect →
              ∃ w, t.putAt p (object expect ((arrived + 1) % 2 ^ 32) phase) w ∧ ends w 0x01) ∧
            (k.op = 0x3C → phase ≠ val → ends t 0x01) ∧ (k.op = 0x3C → phase = val → goes (t.snooze c i))))) ∧
      (k.op = 0x32 →
        (∀ e d, k.stop = some (e, d) → goes (u.finish c i e d)) ∧
        (k.stop = none → k.prog = 1 → u.partsWait c i = true → goes (u.snooze c i)) ∧
        (k.stop = none → k.prog = 1 → u.partsWait c i = false → goes (u.finish c i 0x01 0)) ∧
        (k.stop = none → k.prog ≠ 1 →
          let va := u.lineBase c (k.w 0x10) 0
          (u.winOf asid va (k.f 0x18 4) = none → goes (u.finish c i 0x05 0)) ∧
          (∀ w, u.winOf asid va (k.f 0x18 4) = some w → u.groupReady w.gid = false → goes ((u.groupAsk w.gid).snooze c i)) ∧
          (∀ w, u.winOf asid va (k.f 0x18 4) = some w → u.groupReady w.gid = true →
            let t := u.groupUse w.gid
            let dst : Area := ⟨k.w 0x10, k.f 0x18 4, true, false, 1⟩
            (t.rankOf w.gid t.fnum.toNat = none ∨ w.rop ≠ bits (k.f 0 1) 0 2 ∨ w.fmt ≠ bits (k.f 0 1) 4 4 → goes (t.finish c i 0x05 0)) ∧
            (∀ r, t.rankOf w.gid t.fnum.toNat = some r → w.rop = bits (k.f 0 1) 0 2 → w.fmt = bits (k.f 0 1) 4 4 →
              (t.fencedBy c k.issued fun d sc => 4 ≤ sc || (w.home = t.fnum.toNat && t.areaIn d sc dst)) = false →
              ∀ bs pm x, t.aread c k.issued (k.w 0x08) 0 (k.f 0x18 4) = .ok (bs, pm) x →
                (pm = true → goes (x.finish c i 0x03 0)) ∧
                (pm = false → goes ((((x.addParts asid va r x.fnum.toNat (x.groupN w.gid) (some (c, i)) bs).sendParts w.gid asid va r
                  bs).modCmd c i fun q => { q with prog := 1 }).snooze c i)))))) ∧
      (k.op = 0x33 →
        (∀ m, (u.moves.find? fun m => m.own = some (c, i)) = some m → goes (u.moveStep m)) ∧
        ((u.moves.find? fun m => m.own = some (c, i)) = none →
          ((u.fencedBy c k.issued fun d sc => u.moveIn d sc k) = true → goes (u.snooze c i)) ∧
          ((u.fencedBy c k.issued fun d sc => u.moveIn d sc k) = false → goes (u.moveBegin (some (c, i))
            ⟨(k.f 0 1).testBit 0, k.f 0x08 8, k.f 0x10 8, k.f 0x18 4, k.f 0x1C 2⟩)))) ∧
      (k.op = 0x34 →
        let gid := k.f 0x24 2
        let op := bits (k.f 0 1) 0 3
        let t := u.groupUse gid
        let base := k.f 0x18 8
        (u.groupReady gid = false → goes ((u.groupAsk gid).snooze c i)) ∧
        (u.groupReady gid = true → t.rankOf gid t.fnum.toNat = none →
          goes (t.finish c i 0x13 (if 2 ≤ op then t.collDetail gid else 0))) ∧
        (∀ r, u.groupReady gid = true → t.rankOf gid t.fnum.toNat = some r → t.cmd c i = k → (t.ctx c).asid.toNat = asid →
          (op = 0 → k.prog = 0 →
            let full := t.winClash asid base (k.f 0x20 4) || decide (256 ≤ (t.windows.filter fun w => w.home = t.fnum.toNat).length)
            (full = true → goes (t.finish c i 0x16 0)) ∧
            (full = false → goes (((({ t with windows := t.windows ++ [⟨t.fnum.toNat, asid, base, k.f 0x20 4, gid, bits (k.f 0 1) 3 2,
                bits (k.f 1 1) 0 4⟩] } : State).sendGroup gid 2 asid base msgWindow [gid, base, k.f 0x20 4, bits (k.f 0 1) 3 2,
                bits (k.f 1 1) 0 4, c, i, k.gen] []).modCmd c i fun q => { q with prog := 1 }).snooze c i))) ∧
          (op = 0 → k.prog ≠ 0 → t.groupN gid ≤ k.answers + 1 → k.total = 0 → goes (t.finish c i 0x01 0)) ∧
          (op = 1 → k.prog ≠ 0 → t.groupN gid ≤ k.answers + 1 → goes (t.finish c i 0x01 0)) ∧
          (2 ≤ op → k.inst = none → t.collBehind c i k = true → goes (t.snooze c i)) ∧
          (2 ≤ op → k.inst = none → t.collBehind c i k = false → goes (t.collSend c i r (t.groupN gid))) ∧
          (∀ no q, 2 ≤ op → k.inst = some no → t.inst gid no = some q →
            (q.ends ≠ 0 → goes (t.collEnd c i q q.ends)) ∧
            (∀ a bs l x, q.ends = 0 → q.todo = (a, bs) :: l → t.cmdWrite c k.issued a (State.clean bs) = .ok () x →
              goes ((x.modInst q.gid q.k fun y => { y with
                todo := l
                lines := if op = 2 then y.lines else y.lines + 1 }).snooze c i)) ∧
            (q.ends = 0 → q.todo = [] → let ended := q.judged && q.verdict != 0 && (op != 2 || decide (State.collLines k ≤ q.lines))
              (ended = true → goes (t.collEnd c i q q.verdict)) ∧ (ended = false → goes (t.snooze c i)))))) ∧
      (k.op = 0x35 →
        let gid := k.f 0x24 2
        let t := u.groupUse gid
        let off := 64 * k.prog
        (u.groupReady gid = true → t.rankOf gid t.fnum.toNat = none → goes (t.finish c i 0x13 0)) ∧
        (∀ r, u.groupReady gid = true → t.rankOf gid t.fnum.toNat = some r → t.cmd c i = k → (t.ctx c).asid.toNat = asid →
          (k.asked = 1 → k.answers + 1 < t.groupN gid → goes (t.snooze c i)) ∧
          (k.asked = 1 → t.groupN gid ≤ k.answers + 1 → goes (match k.stop with
            | some (st, d) => t.finish c i st d
            | none => t.finish c i 0x01 0)) ∧
          (k.asked ≠ 1 → (t.fencedBy c k.issued fun _ sc => 4 ≤ sc) = false →
            (k.f 0x20 4 ≤ off → goes (((t.sendGroup gid 0 asid (k.f 0x10 8) msgCastEnd [c, i, k.gen, k.f 0x20 4, k.f 0x18 8] []).modCmd c i
              fun q => { q with asked := 1 }).snooze c i)) ∧
            (off < k.f 0x20 4 → ∀ bs pm x, t.aread c k.issued (k.w 0x08) off 64 = .ok (bs, pm) x →
              (pm = true → goes (x.stopCast c i gid asid 0x03 0)) ∧
              (pm = false → goes (((x.sendGroup gid 0 asid (k.f 0x10 8 + off) msgCast [c, i, k.gen, k.f 0x10 8 + off] bs).modCmd c i
                fun q => { q with prog := q.prog + 1 }).snooze c i)))))) ∧
      (k.op = 0x36 →
        let w := k.win
        let times := k.f 1 1 + 1
        let cell (j : Nat) : Nat := State.avgRead (u.pair pid) (bits (k.f 0 1) 4 2) (k.f 0x20 2) (512 * (w.row0 + k.prog) + w.col0 + j) times
          w.cols j u.fresh
        let row := (List.range w.cols).flatMap fun j =>
          if k.elem = 2 then leBytes 2 (bf16OfFp32 .rne 0 (cell j)).1 else leBytes 4 (cell j)
        (w.rows ≤ k.prog → goes (u.finish c i 0x01 0)) ∧
        (k.prog < w.rows → ∀ t, u.awrite c k.issued (k.w 0x10) (k.prog * k.pitch) (State.clean row) = .ok () t →
          let x := ({ t with fresh := t.fresh + times * w.cols } : State).modCmd c i fun q => { q with prog := q.prog + 1 }
          goes (if w.rows ≤ k.prog + 1 then x.finish c i 0x01 0 else x.snooze c i))) ∧
      (k.op = 0x37 →
        let w := k.win
        let ends (t : State) : State := t.finish c i (if (t.cmd c i).low = 0 then 0x01 else 0x03)
          (if (t.cmd c i).low = 0 then (t.cmd c i).total else (t.cmd c i).low - 1)
        let next (out : Nat) (bad : Bool) (t : State) : State :=
          let x := t.modCmd c i fun q => { q with
            prog := q.prog + 1
            total := q.total + out
            low := if bad ∧ q.low = 0 then q.prog + 1 else q.low
            count := none }
          if w.rows ≤ k.prog + 1 then ends x else x.snooze c i
        let report (out : Nat) (t : State) : Prop :=
          (k.f 0x28 8 = 0 → goes (next out false t)) ∧
          (k.f 0x28 8 ≠ 0 → ∀ x, t.awrite c k.issued (k.w 0x28) (2 * k.prog) (State.clean (leBytes 2 out)) = .ok () x → goes (next out false x))
        (w.rows ≤ k.prog → goes (ends u)) ∧
        (∀ out, k.prog < w.rows → k.count = some out → report out u) ∧
        (k.prog < w.rows → k.count = none → bits (k.f 0 1) 4 2 ≠ 1 →
          ∀ bs pm t, u.aread c k.issued (k.w 0x10) (k.prog * k.pitch) (w.cols * k.elem) = .ok (bs, pm) t →
            (pm = true → goes (next 0 true t)) ∧
            (pm = false →
              let keys := (List.range w.cols).map fun j => 512 * (w.row0 + k.prog) + w.col0 + j
              let p := u.pair pid
              let aim : List (Bool × Nat × Ex) := (keys.map fun q => (false, q, State.clampTarget p.parF (Ex.fin false 0 0))) ++
                ((keys.zip (State.rowElems k.elem bs w.cols)).map fun (q, x) => (true, q, State.clampTarget p.parS x))
              let done := State.progLoop pid (k.f 0x22 2) aim (k.f 2 1 % 16) t
              report done.1 done.2))) ∧
      (k.op = 0x38 → goes (((({ u with fresh := s.fresh + 2050 } : State).modPair pid fun p => p.calibrated s.fresh).judgePair pid).finish c i 0x01 0)) ∧
      (k.op = 0x39 → goes (((({ u with fresh := s.fresh + 12 } : State).modPair pid fun p => p.symmetric (bits (k.f 0 1) 4 2) s.fresh).judgePair
        pid).finish c i 0x01 0)) ∧
      (k.op = 0x3D → u.mustWait c k = false → goes (u.finish c i 0x01 0)) ∧
      (k.op = 0x3D → u.mustWait c k = true → goes (u.snooze c i)))) ∧
  (∀ (s : State) (c i : Nat), let k := s.cmd c i
    let v := k.crc.getD 0
    (∀ d, k.stop = some (0x03, d) → s.copyNext c i = s.finish c i 0x03 v) ∧
    (∀ e d, k.stop = some (e, d) → e ≠ 0x03 → s.copyNext c i = s.finish c i e d) ∧
    (k.stop = none → 64 * k.prog < k.copyLen → s.copyNext c i = s.snooze c i) ∧
    (k.stop = none → k.copyLen ≤ 64 * k.prog → s.copyNext c i =
      s.finish c i (if (k.f 0 1).testBit 4 = true ∧ v ^^^ 0xFFFFFFFF ≠ k.f 0x28 4 then 0x04 else 0x01) v)) ∧
  (∀ (k : Cmd) (o n : Nat), let len := k.f 0x18 4
    let rows := k.f 0x1E 2
    let z := k.esz
    let from' (x : Nat) : Option Nat × Nat := match bits (k.f 0 1) 0 2 with
      | 0 => (none, x)
      | 1 => (some (x / len), x % len)
      | _ => (none, x / z % rows * k.f 0x2C 4 + x / z / rows * z + x % z)
    len ≠ 0 → (State.copyRuns k n o n).flatMap (fun r => (List.range r.2.2).map fun j => (r.1, r.2.1 + j)) =
      (List.range n).map fun j => from' (o + j)) ∧
  (∀ (s t : State) (c : Nat) (k : Cmd) (o n st : Nat) (l : List (Byte × Bool)),
    let at' (a : Nat) : Nat := poolAt (tileOf c) (bits (k.w a).toNat 0 56 + o)
    (bits (k.w 0x08).toNat 56 8 = 0 → s.through = [] → State.readRuns c k [(none, o, n)] s = .ok l st t → st = 0 ∧ l.map (·.1) = s.rd (at' 0x08) n) ∧
    (bits (k.w 0x10).toNat 56 8 = 0 → k.f 0x1C 2 = 0xFFFF → s.Sound → s.copyWrite c k o l = .ok () t →
      t.rd (at' 0x10) l.length = l.map (·.1))) ∧
  (∀ (s : State) (m : Move),
    (∀ g r, m.todo = g :: r → s.moveStep m = ((s.copyGranule m g).setMove m { m with
      todo := r
      dirty := m.dirty.filter fun x => x != g }).moveLater m.own) ∧
    (∀ g a b, s.Sound → stripeOfStale s.geom (m.oldBase + 256 * g) m.oldPlace = some a →
      stripeOfStale s.geom (m.newBase + 256 * g) m.newPlace = some b → a.flat + 256 ≤ b.flat ∨ b.flat + 256 ≤ a.flat →
      (s.copyGranule m g).rd b.flat 256 = s.rd a.flat 256) ∧
    (m.todo = [] → s.moveHeld m = false →
      (m.committing = true → ∃ (t : State) (f : Forward), s.moveStep m = t.moveEnd m.own 0x01 ∧ f ∈ t.forwards ∧ f.size = m.size ∧ f.oldBase = m.oldBase ∧
        f.oldPlace = m.oldPlace ∧ f.newBase = m.newBase ∧ f.newPlace = m.newPlace ∧ f.last = s.beat + 65536 ∧
        ∀ x ∈ t.tlb, ¬(x.asid = m.asid ∧ x.va < m.va + m.size ∧ m.va < x.va + pageSize x.level)) ∧
      (m.committing = false → m.dirty ≠ [] → m.pass < 4 →
        s.moveStep m = (s.setMove m { m with pass := m.pass + 1, todo := m.dirty, dirty := [] }).moveLater m.own))) ∧
  (∀ (s : State) (own : Option (Nat × Nat)) (r : State.Restripe),
    (s.walk r.asid r.va = .absent → s.moveBegin own r = s.moveFault own r 0) ∧
    (s.walk r.asid r.va = .malformed → s.moveBegin own r = s.moveFault own r 3) ∧
    (∀ l, s.walk r.asid r.va = .leaf l → l.entry.testBit 4 = true → s.moveBegin own r = s.moveFault own r 3)) ∧
  (∀ s : State, let ended : List Forward := s.forwards.map fun (f : Forward) => if f.last ≤ s.beat ∧ f.own = none then { f with
        gone := true
        queue := [] } else f
    exec .staleForwardingExpiry s = .next { s with forwards := ended.filter (fun f =>
      !f.gone || s.tlb.any fun x => ({ s with forwards := [f] } : State).placementStale x || ({ s with forwards := [f] } : State).entryStale x) }) ∧
  (∀ (s : State) (c i status detail : Nat), status ≠ 0 →
    let k := s.cmd c i
    let busy (x : Nat × List Byte) : Bool := s.bankBusy (tileOf c) (k.pos + x.1) x.2.length
    let t := s.finish c i status detail
    let src := if 0x36 ≤ k.op ∧ k.op ≤ 0x39 then srcArray (tileOf c) else srcEngine (tileOf c)
    (s.endWaits c i status = true ↔ s.unsettled (.cmd c i) = true ∨ (∃ x ∈ State.endWrites k (leBytes 16 0), busy x = true) ∨
      (s.holdRuns c status ≠ [] ∧ (s.onDie (s.engineDie c)).ctlReady (s.holdRuns c status) = false) ∨
      (∃ x, k.result = some x ∧ s.fenced c k.issued (poolAt (tileOf c) (k.pos + x.1)) = true)) ∧
    (s.endWaits c i status = true → t = (if s.openNow then s.byDie (s.engineDie c) fun t => t.askGaps (s.holdRuns c status) else s).modCmd c i fun k =>
      { k with started := true, ending := some (status, detail), wake := s.beat + 1 }) ∧
    (s.endWaits c i status = false →
      (∀ f ∈ s.forwards, f.own = some (c, i) → { f with last := s.beat + 65536, own := none } ∈ t.forwards) ∧
      (s.Sound → k.op ≠ 0x3D → t.rd (poolAt (tileOf c) (k.pos + 0x30)) 16 = leBytes 8 s.beat ++ leBytes 2 (tget 0 s.seqs src).toNat ++
        leBytes 1 status ++ leBytes 1 k.pois.toNat ++ leBytes 4 detail) ∧
      (s.Sound → ∀ o bs, k.result = some (o, bs) → o + bs.length ≤ 0x30 → t.rd (poolAt (tileOf c) (k.pos + o)) bs.length = bs) ∧
      (t.cmd c i).status = status ∧ (t.cmd c i).detail = detail ∧ (t.cmd c i).done = s.beat ∧ (t.cmd c i).isDone = true ∧
      (k.pairHeld = true → (s.pair (16 * tileOf c + k.pairNo)).pstate = 1 → (t.pair (16 * tileOf c + k.pairNo)).pstate = 0) ∧
      (∀ n, k.cnt = some n → tget 0 (t.ctx c).regs.k n = tget 0 (s.ctx c).regs.k n + 1) ∧
      (∀ n, k.cnt ≠ some n → tget 0 (t.ctx c).regs.k n = tget 0 (s.ctx c).regs.k n) ∧
      (status < 0x10 ∨ 0x12 < status → ∀ a,
        (∀ x ∈ State.endWrites k (leBytes 16 0), a < poolAt (tileOf c) (k.pos + x.1) ∨ poolAt (tileOf c) (k.pos + x.1) + x.2.length ≤ a) →
        mget t.mem a = mget s.mem a)))

/-- The fabric and the host: a flit with a bad LCRC has its sender send again from the expected LSEQ, the peer's own such request is
met, a flit out of sequence gives its acknowledgement and credits and is dropped, an accepted one goes on; what no port, channel or
length can be is ignored; epochs, verdicts and time-outs; FNUM; BAR4 accesses, absent pages, AtomicOps and their aborts; doorbells,
their outcomes, and that they wait for an open interval and absent pages behind those of their queue. A request for a retry, its
answer, a bare acknowledgement and the credit of a flit acted on each do what keeps a link going. The operands of a flit, its LCRC
among them, what a BAR4 access to an absent page answers, and when a doorbell's control accesses are made are the model's choices (log
entries 22, 23, 45) (R263, R265, R330, R410, R412, R416, R418, R421, R426, R427). -/
def Obligations.FabricAndHostEvents : Prop :=
  (∀ s : State, s.ev ≠ [] → let f := s.arrived
    let legal := f.port < 18 ∧ f.vc < 4 ∧ 1 ≤ f.nl ∧ f.nl ≤ 3
    (¬legal → exec .fabricFlitReceive s = .next s) ∧
    (legal → s.arg 1 = 0 → exec .fabricFlitReceive s = .next (s.askRetry f.port)) ∧
    (legal → s.arg 1 ≠ 0 → f.op = msgRetry →
      exec .fabricFlitReceive s = .next ((s.takeBack f).meetRetry f.port (f.words.getD 0 0))) ∧
    (legal → s.arg 1 ≠ 0 → f.op = msgAck → exec .fabricFlitReceive s = .next ((s.takeBack f).linkAnswer f)) ∧
    (legal → s.arg 1 ≠ 0 → f.op ≠ msgRetry → f.op ≠ msgAck → tget 0 (s.takeBack f).rxSeq f.port ≠ f.lseq →
      exec .fabricFlitReceive s = .next ((s.takeBack f).outOfOrder f)) ∧
    (legal → s.arg 1 ≠ 0 → f.op ≠ msgRetry → f.op ≠ msgAck → tget 0 (s.takeBack f).rxSeq f.port = f.lseq →
      exec .fabricFlitReceive s = .next ((s.takeBack f).accept f))) ∧
  (∀ s : State, s.ev = [] → exec .fabricFlitReceive s = .next s.rxRun) ∧
  (∀ (s : State) (r : Rx), s.rxDue r = true → ∀ u,
    (({ s with asker := .flit r.n } : State).owe (State.vcKey r.flit)).message r.flit = .ok () u →
    s.rxTry r = s.backOn { u with rxWait := u.rxWait.filter fun q => q.n != r.n } r.flit.port) ∧
  (∀ (s : State) (f : Sent) (port from' : Nat),
    (s.askRetry port).asking = port :: s.asking ∧
    (s.askRetry port).sent.head? = some { s.linkFlit port msgRetry 0 with
      words := [tget 0 s.rxSeq port, 0, 1], credit := (List.range 4).map fun v => tget 0 s.owed (4 * port + v)
      ack := tget 0 s.rxSeq port } ∧
    (∀ g ∈ s.unacked, g.port = port → (g.lseq + 2 ^ 32 - from') % 2 ^ 32 < 2 ^ 31 → ∃ h ∈ (s.meetRetry port from').sent,
      h = { g with ack := tget 0 s.rxSeq port, credit := (List.range 4).map fun v => tget 0 s.owed (4 * port + v) }) ∧
    (f.words.getD 1 0 = 1 → f.words.getD 2 0 ≠ 1 → s.linkAnswer f = { s with asking := s.asking.erase f.port }) ∧
    (f.words.getD 1 0 ≠ 1 → f.words.getD 2 0 = 1 → s.linkAnswer f = s.meetRetry f.port (f.words.getD 0 0)) ∧
    (s.outOfOrder f = s.askRetry f.port ∨ s.outOfOrder f = s) ∧
    (f.dfn ≠ s.fnum.toNat → s.rxWait = [] → tget 0 (s.accept f).rxSeq f.port = (f.lseq + 1) % 2 ^ 32 ∧
      tget 0 (s.accept f).owed (State.vcKey f) = tget 0 s.owed (State.vcKey f) + 1)) ∧
  (∀ (s : State) (f : Sent) (t : State), f.op = msgCopy →
    s.vwrite 0 f.asid (f.words.getD 3 0) (State.withMarks (f.words.getD 5 0) f.data) = .ok () t →
    s.message f = .ok () (t.send f.sfn 1 f.asid (f.words.getD 3 0) msgCopied
      [f.words.getD 0 0, f.words.getD 1 0, f.words.getD 2 0, 1, f.data.foldl crc32c (f.words.getD 4 0), f.words.getD 3 0] [])) ∧
  (∀ s : State, (s.lineHeld (s.arg 0) (s.arg 1) = true → exec .reductionEpochClose s = .next (s.tryHeld (s.arg 0) (s.arg 1))) ∧
    (s.lineHeld (s.arg 0) (s.arg 1) = false → exec .reductionEpochClose s = .next (s.closeEpoch (s.arg 0) (s.arg 1)))) ∧
  (∀ (s : State) (i : Inst) (c n : Nat), s.inst (s.arg 0) (s.arg 1) = some i → i.cmd = some (c, n) → i.verdict = 0 → i.ends = 0 →
    State.Inst.full i = true →
    let v := State.verdictOf (i.ranks.map fun x => x.2.digest) (s.cmd c n).mdig (s.majgoOf c)
    exec .burgeeVerdict s = .next (s.modInst i.gid i.k fun q => { q with verdict := v.1, majority := v.2 })) ∧
  (∀ (s : State) (i : Inst), s.inst (s.arg 0) (s.arg 1) = some i → i.ends = 0 → State.Inst.full i = false →
    s.groupReady i.gid = true → s.groupTmo i.gid ≠ 0 → i.first + s.groupTmo i.gid ≤ s.beat →
    exec .peerTimeout s = .next ((s.groupUse i.gid).modInst i.gid i.k fun q => { q with ends := 0x15 })) ∧
  (∀ s : State, exec .fabricUp s = .next { s with fnum := BitVec.ofNat 16 (s.arg 0 % 4096), hstat := s.hstat ||| 0x20 }) ∧
  (∀ s : State, let u : State := { s with asker := .host }
    let va := s.apbase + s.arg 1 % 2 ^ 36;
    (s.arg 0 ≠ 1 → ∀ bs pm t, u.vread 0 0 va (s.arg 2) = .ok (bs, pm) t →
      exec .hostBar4Access s = .next { t with answers := ⟨.hostBar4Access, bs⟩ :: t.answers }) ∧
    (s.arg 0 ≠ 1 → ∀ r x, u.vread 0 0 va (s.arg 2) = .fault r x →
      exec .hostBar4Access s = .next { u with answers := ⟨.hostBar4Access, []⟩ :: u.answers }) ∧
    (let bytes := State.clean (((s.ev.drop 3).take (s.arg 2)).map (BitVec.ofNat 8))
     (s.arg 0 = 1 → ∀ t, u.vwrite 0 0 va bytes = .ok () t → exec .hostBar4Access s = .next t) ∧
     (s.arg 0 = 1 → ∀ r x, u.vwrite 0 0 va bytes = .fault r x → exec .hostBar4Access s = .next u))) ∧
  (∀ s : State, let u : State := { s with asker := .host }
    let va := s.apbase + s.arg 2 % 2 ^ 36
    let n := s.arg 1
    (n ≠ 4 ∧ n ≠ 8 ∨ 2 < s.arg 0 ∨ va % n ≠ 0 → exec .hostAtomicop s = .next (u.answer .hostAtomicop [])) ∧
    (s.arg 0 ≤ 2 → n = 4 ∨ n = 8 → va % n = 0 → ∀ r w, u.xlate 0 0 va false = .ok r w →
      (w.sysaOf 0 0 va = false → exec .hostAtomicop s = .next (u.answer .hostAtomicop [])) ∧
      (w.sysaOf 0 0 va = true → ∀ p t, w.xlate 0 0 va true = .ok p t → p.flat < hostBase → t.through = [] →
        t.marked p.flat n = false →
        let v := t.rdNat p.flat n
        let x := s.arg 3 % 2 ^ (8 * n)
        let new := if s.arg 0 = 0 then (v + x) % 2 ^ (8 * n) else x
        exec .hostAtomicop s = .next ((if s.arg 0 = 2 ∧ v ≠ s.arg 4 % 2 ^ (8 * n) then t
          else (t.touchMoves p.near).wr p.flat (leBytes n new) false).answer .hostAtomicop (leBytes n v))))) ∧
  (∀ s : State, s.arg 3 ≠ 1 → s.arg 1 = 4 → s.arg 0 % 4 = 0 → s.qtab ≠ 0 →
    let n := s.arg 0 / 4 % 4096
    let v := s.arg 2 % 2 ^ 32
    let l := s.bellRuns n v
    exec .doorbellWrite s = .next (s.ring n v) ∧
    ((∀ b ∈ s.bells, b.1 ≠ n) → s.ctlReady l = true → s.ring n v = (s.ctlUse l).doorbell n v) ∧
    ((∃ b ∈ s.bells, b.1 = n) ∨ s.ctlReady l = false → s.ring n v = { s.askGaps l with bells := s.bells ++ [(n, v)] })) ∧
  (∀ (s : State) (n t : Nat), s.qtab ≠ 0 → let live := s.qField n 0x1A 1 = 1 ∨ s.qField n 0x1A 1 = 2
    (s.queueBad n = true → s.doorbell n t = (s.setQ n 0x1A 1 3).queueNotice n 0 0x24) ∧
    (s.queueBad n = false → ¬live → s.doorbell n t = s.queueNotice n 0 0x24) ∧
    (s.queueBad n = false → live → s.overruns n t = false → s.doorbell n t = s.setQ n 0x1C 4 t) ∧
    (s.queueBad n = false → live → s.overruns n t = true → ∀ chain, s.chainOf (s.qField n 0x10 8) = some chain →
      s.doorbell n t = (s.setQ n 0x1A 1 3).queueNotice n (s.fdomOf chain) 0x23)) ∧
  (∀ (s : State) (n t : Nat), s.overruns n t = true ↔ 2 ^ s.qField n 0x18 1 <
    (s.qField n 0x1C 4 + 2 ^ 32 - s.qField n 0x20 4) % 2 ^ 32 + (t + 2 ^ 32 - s.qField n 0x1C 4) % 2 ^ 32)

/-- R421: a digest that more than half of the ranks carry is the majority; with every rank in it the verdict is OK, a rank outside it
gets DIVERGED, a rank inside it OK with MAJGO and MAJORITY without; with none, every rank gets NO_MAJORITY. -/
def Obligations.VerdictRule : Prop :=
  ∀ (ds : List Word) (own : Word) (go : Bool), own ∈ ds →
    (∀ m, ds.length < 2 * State.votes ds m →
      State.verdictOf ds own go = (if State.votes ds m = ds.length then 0x01 else if own ≠ m then 0x10
        else if go then 0x01 else 0x12, State.votes ds m)) ∧
    ((∀ m, 2 * State.votes ds m ≤ ds.length) → State.verdictOf ds own go = (0x11, 0))

/-- Scheduling: admission, decisions, dispatch at B0, completion and failure, resolved pages, parked queues, invalidation, command
processors that restart, and what the dispatch engines do with control structures, in open intervals only. A failed slice's
fault records follow its frames and name them. Nothing of a queue whose RCB holds dispatch is dispatched. Queues of a die that
restarts, and of a context number that is away, are parked as their pages allow. What waits for absent pages and when it is tried again, that a successor enters at B0,
and that a decision reads control structures as the last open interval left them are the model's choices (log entries 45, 46, 55)
(R199, R200, R210, R261, R325, R329 to R331, R335 to R337, R343, R345, R385, R392, R422). -/
def Obligations.SchedulingEvents : Prop :=
  (∀ s : State, s.admits (s.arg 0) = true →
    let n := s.arg 0
    let h := s.qField n 0x20 4
    (s.queueBad n = true → exec .candidateAdmission s = .next ((s.ctlUse [(s.queueAt n, 64)]).disableQueue n)) ∧
    (s.queueBad n = false → exec .candidateAdmission s = .next ((s.setQ n 0x20 4 (h + 1)).enter n s.nextId
      (s.qField n 0 8 + 256 * (h % 2 ^ s.qField n 0x18 1)) none none))) ∧
  (∀ s : State, s.decideDue = true →
    let t := s.cands.foldl State.judgeReady { s with mem := if s.openNow then s.mem else s.seen }
    let l := (t.cands.filter fun c => c.ready.isSome && !(s.restarting (State.queueDie c.queue))).mergeSort t.takenBefore
    exec .dispatchDecision s = .next { l.foldl (fun t c => t.tryPlace c.id) t with mem := s.mem, decided := s.beat + 1 }) ∧
  (∀ s : State, s.dispatchDue (s.arg 0) = true →
    let t := (s.modGang (s.arg 0) fun g => { g with slice := { g.slice with b0 := some s.beat } }).enterHoist (s.arg 0)
    let sl := (t.gang (s.arg 0)).slice
    exec .sliceDispatch s = .next (if sl.succAt = 0 then t else t.enter sl.queue sl.order sl.succAt (some sl.id) none)) ∧
  (∀ (s : State) (gid : Nat), (s.gang gid).slice.chain.any (fun a =>
      ((s.decisionView.onDie (State.queueDie (s.gang gid).slice.queue)).ctlNat (a + 0x16) 2).testBit 2) = true →
    s.dispatchDue gid = false) ∧
  (∀ s : State, s.sliceDone (s.arg 0) = true →
    let g := s.gang (s.arg 0)
    let faults (c : Nat) := s.completionFaults c fun _ => true
    ((∀ c ∈ g.members, faults c = []) → exec .sliceCompletion s = .next ((s.removeGang (s.arg 0)).settle g 0 0
      (g.slice.cbudget != 0 && decide (g.slice.cbudget < g.slice.charge + s.hoistCharge (s.arg 0))) true)) ∧
    ((∃ c ∈ g.members, faults c ≠ []) → exec .sliceCompletion s =
      .next (g.members.foldl (fun t c => t.takeRdv c (faults c)) s))) ∧
  (∀ s : State, s.failDue (s.arg 0) = true →
    let u := s.fileFaults
    let g := u.gang (s.arg 0)
    let v := (u.framesOf (s.arg 0) true).1
    let w := g.fails.foldl (fun t r => t.postRecord g.slice.fd (State.failRecord v r))
      { (u.framesOf (s.arg 0) true).2 with failed := v :: (u.framesOf (s.arg 0) true).2.failed }
    exec .sliceFailureCompletion s =
      .next ((w.removeGang (s.arg 0)).settle g 1 (u.firstFault (s.arg 0)) false (u.allTrig (s.arg 0)))) ∧
  (∀ s : State, let hit (p : Nat × Nat) : Bool := p.1 = s.arg 0 && p.2 / 65536 * 65536 < s.arg 1 + s.arg 2 && s.arg 1 ≤ p.2
    let t : State := { s with
      cands := s.cands.map fun (c : Cand) => { c with parked := c.parked.filter fun p => !(hit p) },
      pageReqs := s.pageReqs.filter fun p => !(hit p) }
    exec .pagesResolved s = .next t) ∧
  (∀ s : State, s.qtab ≠ 0 → let n := s.arg 0
    let l := [(s.queueAt n, 64)]
    let u := s.ctlUse l
    (s.ctlReady l = false → exec .queueUnpark s = .next ((s.askGaps l).again .queueUnpark)) ∧
    (s.ctlReady l = true → s.queueBad n = false →
      (s.arg 1 = 1 → s.qField n 0x1A 1 = 1 →
        exec .queueUnpark s = .next { u.setQ n 0x1A 1 2 with resumeQs := s.resumeQs.erase n }) ∧
      (s.arg 1 ≠ 1 → s.qField n 0x1A 1 = 2 → s.restarting (n / 1024) = false → exec .queueUnpark s = .next (u.setQ n 0x1A 1 1)) ∧
      (s.arg 1 ≠ 1 → s.qField n 0x1A 1 = 2 → s.restarting (n / 1024) = true →
        exec .queueUnpark s = .next { s with resumeQs := n :: s.resumeQs.erase n }))) ∧
  (∀ s : State, exec .translationInvalidate s = .next (s.invalidate (s.arg 0) (s.arg 1) (s.arg 2))) ∧
  (∀ s : State, s.restarting (s.arg 0 % 4) = false → ∃ t, exec .cpLockstepMismatch s = .next t ∧ exec .resetDie s = .next t ∧
    t.restarting (s.arg 0 % 4) = true ∧ t.hstat = s.hstat ||| (2#32 <<< (s.arg 0 % 4))) ∧
  (∀ s : State, s.restartOver (s.arg 0) = true → exec .cpRestartComplete s =
    .next { s with restarts := tdel s.restarts (s.arg 0), hstat := s.hstat &&& ~~~(2#32 <<< (s.arg 0)) }) ∧
  (∀ s : State, (s.openNow = false → s.pickDuty = none) ∧
    (∀ c, s.pickDuty = some (.record c) → c ∈ s.deferred ∧ s.openNow = true ∧ s.restarting (c.queue / 1024) = false ∧
      let u := s.onDie (State.queueDie c.queue)
      s.discharge (.record c) = ({ u with deferred := u.deferred.erase c }.ctlUse [(u.queueAt c.queue, 64), (u.recordAt c.queue, 32)]).recordNow c) ∧
    (∀ b, s.pickDuty = some (.bell b) → b ∈ s.bells ∧ let u := s.onDie (State.queueDie b.1)
      s.discharge (.bell b) = ({ u with bells := u.bells.erase b }.ctlUse (u.bellRuns b.1 b.2)).doorbell b.1 b.2) ∧
    (∀ d, s.pickDuty = some (.due d) → d ∈ s.dues ∧ s.dueReady d = true ∧ s.discharge (.due d) = (s.onDie d.1).dueNow d) ∧
    (∀ n, s.pickDuty = some (.resume n) → n ∈ s.resumeQs ∧ s.restarting (n / 1024) = false ∧ s.hstat.getLsbD 0 = true) ∧
    (∀ gid, s.pickDuty = some (.feed gid) → s.feedDue gid = true ∧ s.openNow = true) ∧
    (∀ c, s.pickDuty = some (.load c) → c ∈ s.cands ∧ c.todo ≠ none ∧ c.parked = [] ∧ s.restarting (c.queue / 1024) = false)) ∧
  (∀ (s : State) (die : Nat) (qs : List Nat), s.qtab ≠ 0 → s.restarting die = true → ∀ q ∈ qs,
    (s.ctlReady [(s.queueAt q, 64)] = true → s.qField q 0x1A 1 = 1 → q ∈ (s.parkDie die qs).resumeQs) ∧
    (s.ctlReady [(s.queueAt q, 64)] = false → ∃ l, (die, .park die l) ∈ (s.parkDie die qs).dues ∧ q ∈ l)) ∧
  (∀ (s : State) (ctxn : Nat) (qs : List Nat), s.isAway ctxn = true →
    (s.qtab ≠ 0 → (0, .away ctxn (List.range 4096)) ∈ (s.parkIfAway ctxn).dues) ∧
    ∀ q ∈ qs, (s.ctlReady (s.awayRuns q) = true → s.qField q 0x1A 1 = 1 → s.queueOf ctxn q = true →
      (q, ctxn) ∈ (s.parkAway ctxn qs).awayQs) ∧
      (s.ctlReady (s.awayRuns q) = false → ∃ l, (0, .away ctxn l) ∈ (s.parkAway ctxn qs).dues ∧ q ∈ l))

/-- Graph nodes of each type at a node that is due: KERNEL submits its descriptor, COND and LOOP choose their next node, WAIT goes on or
polls, SIGNAL writes and interrupts, and a malformed node, an index past 65,535 or the step limit ends the graph with GRAPH_INVALID.
Going to a node counts a step; NEXT of all ones ends the graph OK. After a KERNEL node's work the graph takes NEXT, or ends with the
status that work had. DETAIL of WAIT_TIMEOUT, where ITER is kept, that an ADDR that is not 8-aligned makes a node malformed, and that
going on from a KERNEL reads the node anew, and that a node on an absent page is awaited are the model's choices (log entries 45, 47) (R325, R341, R342). -/
def Obligations.GraphEvents : Prop :=
  (∀ (s : State) (g : GraphRun), s.graphById (s.arg 0) = some g →
    let v : State := { s with asker := .graph g.id, die := State.queueDie g.queue }
    let at' := [(g.base + 64 * g.node, 64)]
    let u := v.ctlUse at'
    let addr := u.nodeField g 8 8
    (s.nodeDue (s.arg 0) 1 = true → exec .graphKernelNode s =
      .next ((u.setGraph { g with state := .kernel }).enter g.queue g.order addr none (some g.id))) ∧
    (∀ t bs pm, u.vread u.die 0 addr 8 = .ok (bs, pm) t →
      let hit : Prop := leNat bs &&& t.nodeField g 0x10 8 ≠ 0
      let met : Prop := leNat bs &&& t.nodeField g 0x10 8 = t.nodeField g 0x20 8
      (s.nodeDue (s.arg 0) 2 = true → exec .graphCondNode s =
        .next (if hit then t.gotoNext g else t.gotoNode g (t.nodeField g 0x18 4))) ∧
      (s.nodeDue (s.arg 0) 3 = true → addr ≠ 0 → exec .graphLoopNode s = .next (t.loopNode g
        (decide (hit ∧ (t.nodeField g 0x1C 4 = 0 ∨ tget 0 g.iters g.node < u.nodeField g 0x1C 4))))) ∧
      (s.nodeDue (s.arg 0) 4 = true → exec .graphWaitNode s =
        .next (if met then t.gotoNext g else t.setGraph { g with state := .poll u.beat 1 })) ∧
      (∀ t0 n, g.state = .poll t0 n → v.ctlGaps at' = none → s.pollDue g = true → exec .graphWaitPoll s = .next (
        if met then t.gotoNext g
        else if t.nodeField g 0x1C 4 ≠ 0 ∧ t.nodeField g 0x1C 4 ≤ n then t.endGraph g 0x0D g.node
        else t.setGraph { g with state := .poll t0 (n + 1) }))) ∧
    (∀ a, v.ctlGaps at' = some a → let w := (v.askPage 0 a).setGraph { g with wake := s.beat + 64 }
      (s.pollDue g = true → exec .graphWaitPoll s = .next w) ∧
      (∀ cfl d, g.state = .ended 0 cfl d → s.endedDue g = true → exec .graphKernelNode s = .next w)) ∧
    (s.nodeDue (s.arg 0) 3 = true → addr = 0 → exec .graphLoopNode s =
      .next (u.loopNode g (decide (tget 0 g.iters g.node < u.nodeField g 0x1C 4)))) ∧
    (∀ t, s.nodeDue (s.arg 0) 5 = true →
      u.vwrite u.die 0 addr (State.clean (leBytes 8 (u.nodeField g 0x20 8))) = .ok () t →
      exec .graphSignalNode s = .next ((if (u.nodeField g 1 1).testBit 1 then t.interrupt (u.nodeField g 0x2C 2) else t).gotoNext g)) ∧
    (∀ st cfl d, g.state = .ended st cfl d → s.endedDue g = true → let h := { g with cfl := g.cfl ||| cfl }
      (st ≠ 0 → exec .graphKernelNode s = .next (v.endGraph h st d)) ∧
      (st = 0 → v.ctlGaps at' = none → exec .graphKernelNode s = .next (
        if u.nodeField g 4 4 = 0xFFFFFFFF then u.endGraph h 0 d
        else u.setGraph { h with node := u.nodeField g 4 4, state := .node, steps := 0 }))) ∧
    (s.nodeReady g = true → 2 ^ 24 ≤ g.steps ∨ 65535 < g.node →
      exec .graphStepLimit s = .next (v.endGraph g 0x0B (g.node % 2 ^ 32))) ∧
    (s.nodeReady g = true → g.steps < 2 ^ 24 → g.node ≤ 65535 → v.nodeBad g = true → v.ctlGap (g.base + 64 * g.node) 64 = none →
      exec .graphStepLimit s = .next (v.endGraph g 0x0B g.node))) ∧
  (∀ (s : State) (g : GraphRun), let ty := s.nodeField g 0 1
    s.nodeBad g = true ↔ 65535 < g.node ∨ ty = 0 ∨ 5 < ty ∨ s.nodeField g 2 2 ≠ 0 ∨ s.nodeField g 0x2E 18 ≠ 0 ∨
      (ty = 5 ∧ (3 < s.nodeField g 1 1 ∨ 2048 ≤ s.nodeField g 0x2C 2)) ∨ (ty ≠ 5 ∧ s.nodeField g 1 1 ≠ 0) ∨
      (ty ≠ 1 ∧ s.nodeField g 8 8 % 8 ≠ 0)) ∧
  (∀ (s : State) (g : GraphRun) (n : Nat), ∃ b, s.beat < b ∧ (s.gotoNode g n).graphs =
    s.graphs.map fun h => if h.id = g.id then { g with node := n, state := .node, steps := g.steps + 1, wake := b } else h) ∧
  (∀ (s : State) (g : GraphRun), s.gotoNext g =
    if s.nodeField g 4 4 = 0xFFFFFFFF then s.endGraph g 0 0 else s.gotoNode g (s.nodeField g 4 4)) ∧
  (∀ (s : State) (g : GraphRun) (more : Bool),
    let n := if more then (tget 0 g.iters g.node + 1) % 2 ^ 32 else 0
    let t := s.ctlWrNat (g.base + 64 * g.node + 0x28) 4 n
    let h := { g with iters := tset g.iters g.node n }
    s.loopNode g more = if more then t.gotoNode h (t.nodeField h 0x18 4) else t.gotoNext h) ∧
  (∀ (s : State) (g : GraphRun) (st d : Nat), g.parent = none → s.endGraph g st d =
    { s with graphs := s.graphs.filter fun h => h.id ≠ g.id }.record ⟨g.queue, g.tag, s.beat, st, g.cfl, d, 0⟩)

/-- Hoists and freezes. Entry: once every member has arrived the entry beat is fixed no earlier than the waits, the gather beats and the
predecessor, and aligned for an HBM-marked hoist; at it the rendezvous faults are taken, mixed forms among them, else the next hoist
begins, or with `swapctx` and a runnable context the banks switch, 300 beats later. A hoist's snapshot is the registers at entry, HCYC
is 0, RPLY 0, SC live set, RS live as marked. Pre-emption and watchdog freeze with a notice, or fail with reads lost; save; a restore,
whose frame must be its own in memory; lockstep, TARG, link retries. W, where the frames stand, kept pre-emption, mixed forms taken by
every member, which contexts are runnable, a whole gang switching when one of its tiles has such a one, and a mismatch found after a
switch are the model's choices (log entries 11, 21, 28, 40, 53, 73, 78) (R29, R41, R43, R95, R117, R118,
R119, R121, R123, R149, R299, R338, R387, R393 to R398, R401, R402, R409). -/
def Obligations.HoistAndFreezeEvents : Prop :=
  (∀ (s : State) (gid : Nat) (fs : List Rdv), s.arg 0 = gid → s.entryDue gid = true → s.formsOf gid = some fs →
    let g := s.gang gid
    (g.entry = none → ∃ t e w, exec .hoistEntry s = .next t ∧ (t.gang gid).entry = some e ∧ s.beat ≤ e ∧ w < 65536 ∧
      (let x := max s.beat (max (s.lastEnd gid + g.gather + w) (if Rdv.predwait ∈ fs then (s.predBeat gid).getD 0 else 0));
        e = if s.nextHbm gid = true ∧ Rdv.swapctx ∉ fs then alignUp s.geom.frameF x else x) ∧
      s.lastEnd gid + g.gather ≤ e ∧ (Rdv.predwait ∈ fs → (s.predBeat gid).getD 0 ≤ e) ∧
      (s.nextHbm gid = true → Rdv.swapctx ∉ fs → e % s.geom.frameF = 0) ∧ t.ctxs = s.ctxs ∧ t.mem = s.mem ∧ t.beat = s.beat) ∧
    (g.entry ≠ none → s.swapWaits gid fs = true →
      exec .hoistEntry s = .next (s.modGang gid fun g => { g with entry := some (alignUp s.geom.frameF s.beat) })) ∧
    (g.entry ≠ none → s.swapWaits gid fs = false → (∀ c ∈ g.members, s.rdvFaults gid c fs = []) →
      (Rdv.swapctx ∉ fs ∨ s.runnable gid = [] → ∃ t, exec .hoistEntry s = .next t ∧ t = (s.charge gid).enterHoist gid ∧
        (t.gang gid).entry = none ∧ t.beat = s.beat ∧ t.mem = s.mem ∧ ∀ c ∈ g.members, (t.ctx c).run = .running ∧
          (t.ctx c).hbase = s.beat ∧ (t.ctx c).nextAt = s.beat ∧ (t.ctx c).rply = 0 ∧ (t.ctx c).sc = true ∧
          (t.ctx c).snap = (t.ctx c).regs ∧ (t.ctx c).wait = none) ∧
      (∀ h, Rdv.swapctx ∈ fs → (s.runnable gid).head? = some h → ∃ t, exec .hoistEntry s = .next t ∧ (t.gang gid).off = true ∧
        (t.gang gid).entry = none ∧ (t.gang h).resume = some (s.beat + 300) ∧ t.mem = s.mem ∧
        ∀ c ∈ g.members, (t.ctx c).run = .ready ∧ (t.ctx c).regs = (s.ctx c).regs)) ∧
    (∀ c, State.mixedForms fs = true → (0x03, 0x0F) ∈ s.rdvFaults gid c fs) ∧
    (g.entry ≠ none → s.swapWaits gid fs = false → (g.members.map tileOf).Nodup →
      (∀ c ∈ g.members, (s.before c).gang = gid ∧ s.faultNow (tileOf c) = none) → (∃ c ∈ g.members, s.rdvFaults gid c fs ≠ []) →
      ∃ t, exec .hoistEntry s = .next t ∧ (t.gang gid).fz = some ⟨s.beat, .fail, none⟩ ∧ ∀ c ∈ g.members, ∀ code d r,
        s.rdvFaults gid c fs = (code, d) :: r → ∃ x ∈ t.taken, x.src = srcTile (tileOf c) ∧ x.code = code ∧ x.detail = d ∧
          x.cls = 1 ∧ x.beat = s.beat)) ∧
  (∀ (s : State) (gid : Nat), s.arg 0 = gid → s.switchDue gid = true →
    ∃ t, exec .contextSwitchStart s = .next t ∧ (t.gang gid).off = false ∧ (t.gang gid).resume = none ∧ t.mem = s.mem ∧
      ((s.gang gid).fz = none → ∀ c ∈ (s.gang gid).members, (t.ctx c).run = .running ∧ (t.ctx c).hbase = s.beat ∧
        (t.ctx c).nextAt = s.beat) ∧
      (∀ f, (s.gang gid).fz = some f → (t.gang gid).fz = some { f with restart := some (s.restartBeat gid) } ∧ t.ctxs = s.ctxs)) ∧
  (∀ s : State, s.gangLive (s.arg 0) = true → (s.gang (s.arg 0)).preempt = none →
    let b := s.beat + (s.gang (s.arg 0)).gather
    exec .preemptRequest s = .next (s.modGang (s.arg 0) fun g =>
      { g with preempt := some (b, s.arg 1 % 4), watch := b + s.wdog.toNat % 2 ^ 20 })) ∧
  (∀ (s : State) (gid : Nat), s.arg 0 = gid → s.freezeDue gid = true → ∃ t, exec .preemptFreeze s = .next t ∧
    (∀ c, (t.ctx c).regs = (s.ctx c).regs ∧ (t.ctx c).items = (s.ctx c).items) ∧
    (∀ b a, (s.gang gid).preempt = some (b, a) → b ≤ s.beat → (s.gang gid).reset = none → (t.gang gid).fz = some ⟨s.beat, .preempt, none⟩ ∧
      (t.gang gid).action = a ∧ (t.gang gid).off = decide (a ≤ 1) ∧ (t.gang gid).preempt = none ∧
      (∀ c ∈ (s.gang gid).members, ∀ i k, (i, k) ∈ (t.ctx c).cmds → k.op = 0x30 → k.isDone = false → k.cancelled = true) ∧
      (t.gang gid).hot = none ∧ (s.hotNow gid = true → ∃ r ∈ t.log, r.code = 0x22 ∧ r.cls = 3 ∧ r.beat = s.beat) ∧
      ∃ r, t.log.head? = some r ∧ r.code = 0x21 ∧ r.cls = 3 ∧ r.detail = a ∧ r.beat = s.beat) ∧
    ((∀ b a, (s.gang gid).preempt = some (b, a) → s.beat < b ∨ (s.gang gid).reset ≠ none) → (t.gang gid).fz = some ⟨s.beat, .thermal, none⟩ ∧ (t.gang gid).hot = none ∧
      ∃ r, t.log.head? = some r ∧ r.code = 0x22 ∧ r.cls = 3 ∧ r.beat = s.beat)) ∧
  (∀ (s : State) (gid n : Nat), s.arg 0 = gid → s.watchDue gid = true →
    let c0 := (s.gang gid).members.headD 0
    (∀ b, (s.gang gid).reset = some (b, 0) → ∃ t, exec .safePointWatchdogExpiry s = .next t ∧
      (t.gang gid).fz = some ⟨s.beat, .preempt, none⟩ ∧ (t.gang gid).reset = none ∧
      ∀ b' a, (s.gang gid).preempt = some (b', a) → (t.gang gid).action = a ∧
        ∃ r, t.log.head? = some r ∧ r.code = 0x21 ∧ r.cls = 3 ∧ r.detail = a ∧ r.beat = s.beat) ∧
    (∀ b, (s.gang gid).reset = some (b, n) → n ≠ 0 → (s.before c0).gang = gid → s.faultNow (tileOf c0) = none →
      ∃ t r, exec .safePointWatchdogExpiry s = .next t ∧ (t.gang gid).fz = some ⟨s.beat, .fail, none⟩ ∧ t.taken.head? = some r ∧
        r.code = 0x12 ∧ r.detail = min n 255 ∧ r.src = srcTile (tileOf c0)) ∧
    ((s.gang gid).reset = none → s.beat < s.trainEnd gid →
      (∀ c ∈ (s.gang gid).members, ((s.ctx c).ops.map (·.1)).Nodup) → ∃ t m, exec .safePointWatchdogExpiry s = .next t ∧ t.mem = s.mem ∧
      (t.gang gid).reset = some (s.trainEnd gid, m) ∧ ∀ c ∈ (s.gang gid).members, ∀ it ∈ (s.ctx c).items,
        State.ofLost ((s.ctx c).ops.filter fun o => s.readInFlight o.2) it = true →
          { it with tries := 255 } ∈ (t.ctx c).items)) ∧
  (∀ (s : State) (gid : Nat), s.arg 0 = gid → s.saveDue gid = true → ∃ t v, exec .contextSaveComplete s = .next t ∧
    t.saved = s.saved ++ [v] ∧ v.gid = gid ∧ v.gang = s.gang gid ∧ v.frames.map (·.cid) = (s.gang gid).members ∧
    tfind t.gangs gid = none ∧ (∀ c ∈ (s.gang gid).members, (t.ctx c).run = .empty) ∧
    ∀ f ∈ v.frames, f.ctx = s.ctx f.cid ∧ f.hz = s.hcyc f.cid ∧
      f.pool = s.rd (poolAt (tileOf f.cid) (s.ctx f.cid).spLo) ((s.ctx f.cid).spHi - (s.ctx f.cid).spLo)) ∧
  (∀ (s : State) (v : Saved), (s.saved.find? fun w => w.gid = s.arg 0) = some v →
    let bank := s.arg 1 % 2
    let l := v.frames.map fun f : SavedCtx => (f.addr, 256)
    let good := State.headersOk v (v.frames.flatMap fun f : SavedCtx => (s.ctlUse l).ctlRd f.addr 256)
    (s.ctlReady l = false → exec .contextRestore s = .next ((s.askGaps l).again .contextRestore)) ∧
    (s.ctlReady l = true → s.restoreFits v bank = false → exec .contextRestore s = .next s) ∧
    (s.ctlReady l = true → s.restoreFits v bank = true → good = true → ∃ t, exec .contextRestore s = .next t ∧
      (∀ w ∈ t.saved, w.gid ≠ s.arg 0) ∧ (t.gang v.gid).members = v.gang.members.map (fun c => 2 * tileOf c + bank) ∧
      ((v.frames.map fun f : SavedCtx => tileOf f.cid).Nodup → ∀ f ∈ v.frames, (t.ctx (2 * tileOf f.cid + bank)).regs = f.ctx.regs ∧
        (t.ctx (2 * tileOf f.cid + bank)).run = f.ctx.run)) ∧
    (s.ctlReady l = true → s.restoreFits v bank = true → good = false → ∃ t r, exec .contextRestore s = .next t ∧
      (∀ w ∈ t.saved, w.gid ≠ s.arg 0) ∧ t.log.head? = some r ∧ r.code = 0x13 ∧ r.cls = 1 ∧ r.beat = s.beat)) ∧
  (∀ (s : State), (s.ctx (s.arg 0)).run ≠ .empty → (s.ctx (s.arg 0)).run ≠ .done → (s.gang (s.ctx (s.arg 0)).gang).off = false ∨
    s.beat < (s.gang (s.ctx (s.arg 0)).gang).offAt + 2 → (s.gang (s.ctx (s.arg 0)).gang).slice.noprot = false →
    exec .seqLockstepMismatch s = .next (s.takeFault (s.arg 0) 0x0B 0 0xFF 0 0 false false)) ∧
  (∀ (s : State) (f : Freeze), (s.gang (s.ctx (s.arg 0)).gang).fz = some f → f.why = .trap → f.beat ≤ s.beat →
    exec .targWrite s = .next (s.modRegs (s.arg 0) fun r => { r with targ := BitVec.ofNat 64 (s.arg 1) })) ∧
  (∀ (s : State) (it : Item), s.arg 1 ≠ 0 → (s.ctx (s.arg 0)).items[s.arg 1 - 1]? = some it → it.act.onRing (s.arg 0) = true →
    (it.tries < 2 → exec .ucieFlitRetry s = .next (s.modCtx (s.arg 0) fun x => { x with
      items := x.items.map fun k => if k = it then { it with tries := it.tries + 1 } else k })) ∧
    (2 ≤ it.tries → ∃ t m, exec .ucieFlitRetry s = .next t ∧ t.mem = s.mem ∧ ∃ x ∈ (t.ctx (s.arg 0)).items, x.act = .lost m it.act ∧
      x.tries = 3 ∧ it.due ≤ x.due ∧ x.due ≤ it.due + 1)) ∧
  (∀ (s : State) (it : Item) (m : Nat) (lost : Act), s.arg 1 = 0 → (s.ctx (s.arg 0)).items[s.arg 2]? = some it →
    s.itemDue (s.arg 0) it = true → it.act = .lost m lost → exec .ucieFlitRetry s = .next (((s.without (s.arg 0) it).takeFault m 0x09 0x05
      (if m = s.arg 0 then it.slot else 0xFF) 0 0 false false).dropItem (s.arg 0) it)) ∧
  (∀ (s : State) (c : Nat),
    let t := s.enterCtx c
    let x := (s.ctx c).settled
    (t.ctx c).snap = (t.ctx c).regs ∧ (t.ctx c).run = .running ∧ (t.ctx c).hbase = s.beat ∧ (t.ctx c).nextAt = s.beat ∧
    (t.ctx c).rply = 0 ∧ (t.ctx c).sc = true ∧ (t.ctx c).rs = ((s.setCtx c x).nextMark c).rs ∧
    (t.ctx c).regs = { x.regs with marks := (t.ctx c).regs.marks, lastMma := none } ∧
    (∀ d, d ≠ c → t.ctx d = s.ctx d) ∧ t.mem = s.mem ∧ t.beat = s.beat)

/-- Heat, retirement, HBM changes, calibration, reset and power. A module reset leaves no context, gang, candidate, graph, saved slice or
record, the halyard at 0, the registers of BAR0 at their reset values, the link down, and what the flash and the memories held; boot's
five steps follow, each of which goes on or stops with its number. The calibration slices of a die cover every live pair of every live
tile. The model's choices are: their number and shapes (log entry 6), what outlasts a reset and a loss of power
(log entries 1, 49), the emptied log and the times of the steps (10), the step at which the hardware fails as an operand (20), and when a
pair may be held and retired (37) (R14, R25, R213, R281, R289, R292, R300, R401, R438 to R441). -/
def Obligations.PlatformEvents : Prop :=
  (∀ s : State, let hot : State := { s with tmax := BitVec.ofNat 8 (s.arg 0) }
    let v := s.arg 0 % 256
    (s.trip = false → s.ttrip.toNat ≤ v → exec .thermalTrip s = .next ({ hot with trip := true } : State).tripGangs ∧
      exec .thermalTripClear s = .next ({ hot with trip := true } : State).tripGangs) ∧
    (s.trip = true → v + 10 ≤ s.ttrip.toNat →
      exec .thermalTripClear s = .next (({ hot with trip := false } : State).untripGangs.submitCalibration) ∧
      exec .thermalTrip s = .next (({ hot with trip := false } : State).untripGangs.submitCalibration)) ∧
    ((s.trip = false → v < s.ttrip.toNat) → (s.trip = true → s.ttrip.toNat < v + 10) →
      exec .thermalTrip s = .next hot ∧ exec .thermalTripClear s = .next hot)) ∧
  (∀ s : State, s.arg 1 ≠ 0 → (s.pair (s.arg 0)).pstate = 0 → s.grantRuns (s.arg 0) = false →
    exec .pairThermalHold s = .next (s.setPair (s.arg 0) { s.pair (s.arg 0) with pstate := 2 })) ∧
  (∀ s : State, s.arg 1 = 0 → (s.pair (s.arg 0)).pstate = 2 →
    exec .pairThermalHold s = .next (s.setPair (s.arg 0) { s.pair (s.arg 0) with pstate := 0 })) ∧
  (∀ s : State, s.geom.pairs.getLsbD (s.arg 0) = true → (s.pair (s.arg 0)).ok = false → s.granted? (s.arg 0) = false →
    (s.pair (s.arg 0)).pstate ≠ 1 → exec .pairRetire s =
      .next (({ s with suspects := s.suspects.filter fun x => x != s.arg 0 } : State).retirePair (s.arg 0))) ∧
  (∀ s : State, s.geo = .idle → exec .geometryDrainBegin s = .next { s with geo := .drain (State.clearUnits s.geom s.ev) }) ∧
  (∀ s : State, (s.arg 0).testBit 18 = true → s.tilesOut = [] → s.geo = .regen → exec .geoctlAck s = .next { s with geo := .idle }) ∧
  (∀ (s : State) (n : Geom), (s.arg 0).testBit 18 = true → s.tilesOut = [] → s.geo = .drain n →
    (s.drainHeld n = true → exec .geoctlAck s = .next { s with geo := .install n }) ∧
    (s.drainHeld n = false → ∃ t, exec .geoctlAck s = .next t ∧ t.geo = .regen ∧ t.prior = s.geom ∧
      t.geom.hgen = s.geom.hgen + 1 ∧ t.geom.genr = s.geom.genr + 1 ∧ t.geom.live = n.live ∧ t.geom.chans = n.chans ∧
      t.geom.bgrps = n.bgrps)) ∧
  (∀ s : State, s.hstat.getLsbD 0 = true → s.calAt ≤ s.beat → exec .calibrationTimer s =
    .next ({ s with calAt := s.beat + s.calper.toNat * 1600000000 } : State).submitCalibration) ∧
  (∀ s : State, exec .moduleReset s = .next (s.resetModule (s.arg 0)) ∧ exec .resetModule s = .next (s.resetModule (s.arg 0))) ∧
  (∀ s : State, s.arg 0 ≠ 1 → ∃ t, exec .powerLoss s = .next t ∧ t.power = false ∧ t.ctxs = [] ∧ t.gangs = [] ∧
    t.slotA = s.slotA ∧ t.slotB = s.slotB ∧ t.log = [] ∧ t.mem = s.mem.filter fun c => hostBase ≤ c.1) ∧
  (∀ s : State, s.submitCalibration = { s with
    dues := s.dues ++ [(0, .calibrate 0), (1, .calibrate 1), (2, .calibrate 2), (3, .calibrate 3)] }) ∧
  (∀ (s : State) (d : Nat),
    let inside (k : CalSlice) (t : Nat) : Prop := k.y ≤ t / 16 ∧ t / 16 < k.y + k.rows ∧ k.x ≤ t % 16 ∧ t % 16 < k.x + k.cols
    (∀ t p, t < 256 → s.calTile (256 * d + t) = true → p ∈ s.calPairs (256 * d + t) → ∃ k ∈ s.calSlices d, inside k t ∧ p ∈ k.pairs) ∧
    (∀ k ∈ s.calSlices d, ∀ t, inside k t → s.calTile (256 * d + t) = true ∧ k.pairs = s.calPairs (256 * d + t))) ∧
  (∀ (s : State) (f : Nat), let t := s.resetModule f
    t.ctxs = [] ∧ t.gangs = [] ∧ t.cands = [] ∧ t.graphs = [] ∧ t.saved = [] ∧ t.log = [] ∧ t.windows = [] ∧ t.tlb = [] ∧
    t.beat = 0 ∧ t.power = true ∧ t.fnum = 0xFFFF ∧ t.pwrlim = 0x960 ∧ t.wdog = 0x1000 ∧ t.calper = 0xE10 ∧ t.trip = false ∧
    t.linkUp = false ∧ t.hstat = 0 ∧ t.qtab = 0 ∧ t.mem = s.mem ∧ t.slotA = s.slotA ∧ t.slotB = s.slotB ∧
    (∃ b, 0 < b ∧ t.boot = .step 1 b f) ∧
    (∀ i, s.staged = some i → i.valid = true → t.image = i ∧ t.staged = none) ∧
    ((∀ i, s.staged = some i → i.valid = false) → t.image = s.image ∧ t.staged = s.staged)) ∧
  (∀ (s : State) (n wake f : Nat), s.boot = .step n wake f → s.bootDue = true → let t := s.bootGo
    let on (t : State) : Prop := ∃ b, s.beat < b ∧ t.boot = .step (n + 1) b f
    let off (t : State) : Prop := t.boot = .over ∧ t.stopped = some n ∧ t.hstat = s.hstat ∧ t.linkUp = s.linkUp ∧
      t.answers = ⟨.moduleReset, [BitVec.ofNat 8 n]⟩ :: s.answers
    (n = 1 → (s.image.valid = true → on t) ∧ (s.image.valid = false → off t)) ∧
    (n = 2 → (s.slotA.valid = true ∨ s.slotB.valid = true → on t ∧ t.geom = s.slot.geom) ∧
      (s.slotA.valid = false → s.slotB.valid = false → off t)) ∧
    (n = 3 ∨ n = 4 → (f ≠ n → on t) ∧ (f = n → off t)) ∧
    (n = 5 → (f ≠ 5 → t.boot = .over ∧ t.hstat = s.hstat ||| 1 ∧ t.linkUp = true ∧ t.qtab ≠ 0) ∧ (f = 5 → off t))) ∧
  (∀ (s : State) (n wake f : Nat), s.boot = .step n wake f →
    (s.bootDue = true ↔ wake ≤ s.beat ∧ (n < 5 ∨ s.openNow = true))) ∧
  (∀ (s : State) (pid : Nat), (s.retirePair pid).geom.pairs.getLsbD pid = false ∧ ((s.retirePair pid).pair pid).pstate = 3 ∧
    (s.retirePair pid).geom.genr = s.geom.genr + 1 ∧
    (s.slotAInForce = true → (s.retirePair pid).slotB.valid = true ∧ (s.retirePair pid).slotB.geom = (s.retirePair pid).geom ∧
      (s.retirePair pid).slotB.sig.length = 3309 ∧ (s.retirePair pid).slotA = s.slotA) ∧
    (s.slotAInForce = false → (s.retirePair pid).slotA.valid = true ∧ (s.retirePair pid).slotA.geom = (s.retirePair pid).geom ∧
      (s.retirePair pid).slotA.sig.length = 3309 ∧ (s.retirePair pid).slotB = s.slotB))

/-- BAR0 registers: PWRLIM, WDOG and CALPER keep their value on a write outside their range and take it otherwise; HOSTWIN and APBASE
keep their reserved bits at 0; half an MSI-X entry takes the write (its layout is log entry 56); every other register ignores it (R8,
R9, R425, R426, R438). -/
def Obligations.RegisterWrites : Prop :=
  ∀ s : State, let v := s.arg 0
    exec .pwrlimWrite s = .next { s with pwrlim := if 600 ≤ v % 65536 ∧ v % 65536 ≤ 2400 then BitVec.ofNat 32 (v % 65536) else s.pwrlim } ∧
    exec .wdogWrite s = .next { s with wdog := if 256 ≤ v % 2 ^ 20 then BitVec.ofNat 32 (v % 2 ^ 20) else s.wdog } ∧
    exec .calperWrite s = .next { s with calper := if 60 ≤ v % 2 ^ 32 then BitVec.ofNat 32 v else s.calper } ∧
    (s.arg 2 ≠ 1 → ¬(State.inMsix v = true ∧ v % 8 = 0) → exec .registerWrite s = .next (
      if v = 0x010 then { s with hostwin := s.arg 1 % 2 ^ 64 - s.arg 1 % 65536 }
      else if v = 0x018 then { s with apbase := s.arg 1 % 2 ^ 64 - s.arg 1 % 2 ^ 36 } else s)) ∧
    (s.arg 2 ≠ 1 → State.inMsix v = true → v % 8 = 0 → ∃ t, exec .registerWrite s = .next t ∧
      t.readMsix v = (if v % 16 = 0 then s.arg 1 % 2 ^ 64 else s.arg 1 % 2 ^ 33) ∧
      (∀ w, State.inMsix w = true → w % 8 = 0 → w ≠ v → t.readMsix w = s.readMsix w)) ∧
    (s.arg 2 = 1 → exec .registerWrite s = .next { s with answers := ⟨.registerWrite, leBytes 8 (s.readReg v)⟩ :: s.answers })

/-- Attestation and side-band requests: every SPDM request is answered over the requester's nonce with a signature; the digest is that
of the certificate, and the measurements cover the ROM, the image, the record in force and the settings; PLDM types 0, 2 and 5, faults
of a domain by sequence, the record in force or NO_GEOMETRY, and the registers of R438. What the answers hold beyond the spec is free
(log entry 30) (R384, R439, R440, R442, R443). -/
def Obligations.ManagementAnswers : Prop :=
  ∀ s : State,
    let signed (i : Instr) (body : List Byte → Prop) : Prop := ∃ t bs sig, exec i s = .next t ∧
      t.answers = ⟨i, s.nonce ++ bs ++ sig⟩ :: s.answers ∧ body bs ∧ sig.length = 3309 ∧ t.mem = s.mem ∧ t.ctxs = s.ctxs ∧ t.gangs = s.gangs
    signed .getVersion (fun b => b.length = 2) ∧ signed .getCapabilities (fun b => b.length = 4) ∧
    signed .negotiateAlgorithms (fun b => b.length = 4) ∧
    signed .getDigests (fun b => b = shake256 Config.certificate 32) ∧ signed .getCertificate (fun b => b = Config.certificate) ∧
    signed .challenge (fun b => b.length = 32) ∧
    signed .getMeasurements (fun b => b = shake256 (Config.romCode ++ Config.keyDigest) 32 ++ shake256 s.image.bytes 32 ++
      shake256 (s.geom.body ++ s.slot.sig) 32 ++ leBytes 8 s.geom.signature ++ leBytes 4 s.pwrlim.toNat ++
      leBytes 4 s.wdog.toNat ++ leBytes 4 s.calper.toNat) ∧
    exec .pldmBaseDiscovery s = .next { s with answers := ⟨.pldmBaseDiscovery, [0, 2, 5]⟩ :: s.answers } ∧
    (∃ t bs, exec .pldmPlatformMonitoring s = .next t ∧ t.answers = ⟨.pldmPlatformMonitoring, bs⟩ :: s.answers ∧ bs.length = 36) ∧
    (∃ t, exec .pldmFirmwareUpdate s = .next t ∧
      t.staged = some ⟨(s.ev.drop 1).map (BitVec.ofNat 8), decide (s.arg 0 = 1)⟩ ∧ t.image = s.image) ∧
    exec .readFaults s = .next { s with answers := ⟨.readFaults, (s.log.reverse.filter fun r =>
      r.fd = s.arg 0 && (r.seq.toNat + 2 ^ 32 - s.arg 1) % 2 ^ 32 < s.arg 2).flatMap Record.bytes⟩ :: s.answers } ∧
    (s.stopped ≠ some 2 → ∃ t bs, exec .readGeometry s = .next t ∧
      t.answers = ⟨.readGeometry, s.geom.body ++ s.slot.sig ++ bs⟩ :: s.answers ∧ (s.geo = .idle → bs = [])) ∧
    (s.stopped = some 2 → exec .readGeometry s = .next { s with answers := ⟨.readGeometry, [2]⟩ :: s.answers }) ∧
    (s.arg 0 = 0 → 0x040 ≤ s.arg 1 → exec .regAccess s =
      .next { s with answers := ⟨.regAccess, leBytes 8 (s.readReg (s.arg 1))⟩ :: s.answers }) ∧
    (s.arg 0 ≠ 0 → s.arg 1 = 0x040 → exec .regAccess s = .next (s.writePwrlim (s.arg 2)))
end

