-- ==== Sys2Proof/Laws/Decode.lean ====
section
/-! SUPPORT. The fields of an encoded slot word: each reads back as it was laid out. -/

namespace Sys2Proof

section lay

variable (op : BitVec 7) (g : BitVec 4) (d : BitVec 6) (a : BitVec 6) (b : BitVec 6) (m : BitVec 3)

theorem lay_op : (lay op g d a b m).extractLsb' 25 7 = op := by
  unfold lay
  ext k hk
  simp only [BitVec.getElem_extractLsb', BitVec.getLsbD_append]
  grind

theorem lay_g : (lay op g d a b m).extractLsb' 21 4 = g := by
  unfold lay
  ext k hk
  simp only [BitVec.getElem_extractLsb', BitVec.getLsbD_append]
  grind

theorem lay_d : (lay op g d a b m).extractLsb' 15 6 = d := by
  unfold lay
  ext k hk
  simp only [BitVec.getElem_extractLsb', BitVec.getLsbD_append]
  grind

theorem lay_a : (lay op g d a b m).extractLsb' 9 6 = a := by
  unfold lay
  ext k hk
  simp only [BitVec.getElem_extractLsb', BitVec.getLsbD_append]
  grind

theorem lay_b : (lay op g d a b m).extractLsb' 3 6 = b := by
  unfold lay
  ext k hk
  simp only [BitVec.getElem_extractLsb', BitVec.getLsbD_append]
  grind

theorem lay_m : (lay op g d a b m).extractLsb' 0 3 = m := by
  unfold lay
  ext k hk
  simp only [BitVec.getElem_extractLsb', BitVec.getLsbD_append]
  grind

end lay

section layI

variable (op : BitVec 7) (g : BitVec 4) (d : BitVec 6) (a : BitVec 6) (i : BitVec 9)

theorem layI_op : (layI op g d a i).extractLsb' 25 7 = op := by
  unfold layI
  ext k hk
  simp only [BitVec.getElem_extractLsb', BitVec.getLsbD_append]
  grind

theorem layI_g : (layI op g d a i).extractLsb' 21 4 = g := by
  unfold layI
  ext k hk
  simp only [BitVec.getElem_extractLsb', BitVec.getLsbD_append]
  grind

theorem layI_d : (layI op g d a i).extractLsb' 15 6 = d := by
  unfold layI
  ext k hk
  simp only [BitVec.getElem_extractLsb', BitVec.getLsbD_append]
  grind

theorem layI_a : (layI op g d a i).extractLsb' 9 6 = a := by
  unfold layI
  ext k hk
  simp only [BitVec.getElem_extractLsb', BitVec.getLsbD_append]
  grind

theorem layI_i : (layI op g d a i).extractLsb' 0 9 = i := by
  unfold layI
  ext k hk
  simp only [BitVec.getElem_extractLsb', BitVec.getLsbD_append]
  grind

end layI

section layJ

variable (op : BitVec 7) (g : BitVec 4) (d : BitVec 6) (j : BitVec 12) (m : BitVec 3)

theorem layJ_op : (layJ op g d j m).extractLsb' 25 7 = op := by
  unfold layJ
  ext k hk
  simp only [BitVec.getElem_extractLsb', BitVec.getLsbD_append]
  grind

theorem layJ_g : (layJ op g d j m).extractLsb' 21 4 = g := by
  unfold layJ
  ext k hk
  simp only [BitVec.getElem_extractLsb', BitVec.getLsbD_append]
  grind

theorem layJ_d : (layJ op g d j m).extractLsb' 15 6 = d := by
  unfold layJ
  ext k hk
  simp only [BitVec.getElem_extractLsb', BitVec.getLsbD_append]
  grind

theorem layJ_j : (layJ op g d j m).extractLsb' 3 12 = j := by
  unfold layJ
  ext k hk
  simp only [BitVec.getElem_extractLsb', BitVec.getLsbD_append]
  grind

theorem layJ_m : (layJ op g d j m).extractLsb' 0 3 = m := by
  unfold layJ
  ext k hk
  simp only [BitVec.getElem_extractLsb', BitVec.getLsbD_append]
  grind

end layJ

end Sys2Proof
end

