-- ==== Sys2Proof/Laws/State.lean ====
section
/-! SUPPORT. Every field of the state after every plain update of it. -/

namespace Sys2Proof.Machine.State

variable (s : State)

/-! ### setCtx -/

@[simp] theorem setCtx_beat (c : Nat) (x : Ctx) : (s.setCtx c x).beat = s.beat := rfl
@[simp] theorem setCtx_fresh (c : Nat) (x : Ctx) : (s.setCtx c x).fresh = s.fresh := rfl
@[simp] theorem setCtx_gangs (c : Nat) (x : Ctx) : (s.setCtx c x).gangs = s.gangs := rfl
@[simp] theorem setCtx_mem (c : Nat) (x : Ctx) : (s.setCtx c x).mem = s.mem := rfl
@[simp] theorem setCtx_marks (c : Nat) (x : Ctx) : (s.setCtx c x).marks = s.marks := rfl
@[simp] theorem setCtx_frames (c : Nat) (x : Ctx) : (s.setCtx c x).frames = s.frames := rfl
@[simp] theorem setCtx_geom (c : Nat) (x : Ctx) : (s.setCtx c x).geom = s.geom := rfl
@[simp] theorem setCtx_prior (c : Nat) (x : Ctx) : (s.setCtx c x).prior = s.prior := rfl
@[simp] theorem setCtx_asidDir (c : Nat) (x : Ctx) : (s.setCtx c x).asidDir = s.asidDir := rfl
@[simp] theorem setCtx_cur (c : Nat) (x : Ctx) : (s.setCtx c x).cur = s.cur := rfl
@[simp] theorem setCtx_undo (c : Nat) (x : Ctx) : (s.setCtx c x).undo = s.undo := rfl
@[simp] theorem setCtx_log (c : Nat) (x : Ctx) : (s.setCtx c x).log = s.log := rfl
@[simp] theorem setCtx_seqs (c : Nat) (x : Ctx) : (s.setCtx c x).seqs = s.seqs := rfl
@[simp] theorem setCtx_ev (c : Nat) (x : Ctx) : (s.setCtx c x).ev = s.ev := rfl
@[simp] theorem setCtx_hostwin (c : Nat) (x : Ctx) : (s.setCtx c x).hostwin = s.hostwin := rfl
@[simp] theorem setCtx_fdtab (c : Nat) (x : Ctx) : (s.setCtx c x).fdtab = s.fdtab := rfl
@[simp] theorem setCtx_irqs (c : Nat) (x : Ctx) : (s.setCtx c x).irqs = s.irqs := rfl
@[simp] theorem setCtx_pairs (c : Nat) (x : Ctx) : (s.setCtx c x).pairs = s.pairs := rfl
@[simp] theorem setCtx_tlb (c : Nat) (x : Ctx) : (s.setCtx c x).tlb = s.tlb := rfl
@[simp] theorem setCtx_moves (c : Nat) (x : Ctx) : (s.setCtx c x).moves = s.moves := rfl
@[simp] theorem setCtx_forwards (c : Nat) (x : Ctx) : (s.setCtx c x).forwards = s.forwards := rfl
@[simp] theorem setCtx_pageReqs (c : Nat) (x : Ctx) : (s.setCtx c x).pageReqs = s.pageReqs := rfl
@[simp] theorem setCtx_windows (c : Nat) (x : Ctx) : (s.setCtx c x).windows = s.windows := rfl
@[simp] theorem setCtx_merges (c : Nat) (x : Ctx) : (s.setCtx c x).merges = s.merges := rfl
@[simp] theorem setCtx_insts (c : Nat) (x : Ctx) : (s.setCtx c x).insts = s.insts := rfl
@[simp] theorem setCtx_gidCount (c : Nat) (x : Ctx) : (s.setCtx c x).gidCount = s.gidCount := rfl
@[simp] theorem setCtx_heldWrites (c : Nat) (x : Ctx) : (s.setCtx c x).heldWrites = s.heldWrites := rfl
@[simp] theorem setCtx_casts (c : Nat) (x : Ctx) : (s.setCtx c x).casts = s.casts := rfl
@[simp] theorem setCtx_sent (c : Nat) (x : Ctx) : (s.setCtx c x).sent = s.sent := rfl
@[simp] theorem setCtx_rxSeq (c : Nat) (x : Ctx) : (s.setCtx c x).rxSeq = s.rxSeq := rfl
@[simp] theorem setCtx_cands (c : Nat) (x : Ctx) : (s.setCtx c x).cands = s.cands := rfl
@[simp] theorem setCtx_nextId (c : Nat) (x : Ctx) : (s.setCtx c x).nextId = s.nextId := rfl
@[simp] theorem setCtx_graphs (c : Nat) (x : Ctx) : (s.setCtx c x).graphs = s.graphs := rfl
@[simp] theorem setCtx_pennants (c : Nat) (x : Ctx) : (s.setCtx c x).pennants = s.pennants := rfl
@[simp] theorem setCtx_saved (c : Nat) (x : Ctx) : (s.setCtx c x).saved = s.saved := rfl
@[simp] theorem setCtx_failed (c : Nat) (x : Ctx) : (s.setCtx c x).failed = s.failed := rfl
@[simp] theorem setCtx_deferred (c : Nat) (x : Ctx) : (s.setCtx c x).deferred = s.deferred := rfl
@[simp] theorem setCtx_decided (c : Nat) (x : Ctx) : (s.setCtx c x).decided = s.decided := rfl
@[simp] theorem setCtx_restarts (c : Nat) (x : Ctx) : (s.setCtx c x).restarts = s.restarts := rfl
@[simp] theorem setCtx_resumeQs (c : Nat) (x : Ctx) : (s.setCtx c x).resumeQs = s.resumeQs := rfl
@[simp] theorem setCtx_fnum (c : Nat) (x : Ctx) : (s.setCtx c x).fnum = s.fnum := rfl
@[simp] theorem setCtx_apbase (c : Nat) (x : Ctx) : (s.setCtx c x).apbase = s.apbase := rfl
@[simp] theorem setCtx_qtab (c : Nat) (x : Ctx) : (s.setCtx c x).qtab = s.qtab := rfl
@[simp] theorem setCtx_grptab (c : Nat) (x : Ctx) : (s.setCtx c x).grptab = s.grptab := rfl
@[simp] theorem setCtx_hstat (c : Nat) (x : Ctx) : (s.setCtx c x).hstat = s.hstat := rfl
@[simp] theorem setCtx_pwrlim (c : Nat) (x : Ctx) : (s.setCtx c x).pwrlim = s.pwrlim := rfl
@[simp] theorem setCtx_wdog (c : Nat) (x : Ctx) : (s.setCtx c x).wdog = s.wdog := rfl
@[simp] theorem setCtx_calper (c : Nat) (x : Ctx) : (s.setCtx c x).calper = s.calper := rfl
@[simp] theorem setCtx_calAt (c : Nat) (x : Ctx) : (s.setCtx c x).calAt = s.calAt := rfl
@[simp] theorem setCtx_trip (c : Nat) (x : Ctx) : (s.setCtx c x).trip = s.trip := rfl
@[simp] theorem setCtx_tmax (c : Nat) (x : Ctx) : (s.setCtx c x).tmax = s.tmax := rfl
@[simp] theorem setCtx_ttrip (c : Nat) (x : Ctx) : (s.setCtx c x).ttrip = s.ttrip := rfl
@[simp] theorem setCtx_geo (c : Nat) (x : Ctx) : (s.setCtx c x).geo = s.geo := rfl
@[simp] theorem setCtx_slotA (c : Nat) (x : Ctx) : (s.setCtx c x).slotA = s.slotA := rfl
@[simp] theorem setCtx_slotB (c : Nat) (x : Ctx) : (s.setCtx c x).slotB = s.slotB := rfl
@[simp] theorem setCtx_image (c : Nat) (x : Ctx) : (s.setCtx c x).image = s.image := rfl
@[simp] theorem setCtx_staged (c : Nat) (x : Ctx) : (s.setCtx c x).staged = s.staged := rfl
@[simp] theorem setCtx_stopped (c : Nat) (x : Ctx) : (s.setCtx c x).stopped = s.stopped := rfl
@[simp] theorem setCtx_answers (c : Nat) (x : Ctx) : (s.setCtx c x).answers = s.answers := rfl
@[simp] theorem setCtx_inputs (c : Nat) (x : Ctx) : (s.setCtx c x).inputs = s.inputs := rfl
@[simp] theorem setCtx_boot (c : Nat) (x : Ctx) : (s.setCtx c x).boot = s.boot := rfl
@[simp] theorem setCtx_power (c : Nat) (x : Ctx) : (s.setCtx c x).power = s.power := rfl
@[simp] theorem setCtx_taken (c : Nat) (x : Ctx) : (s.setCtx c x).taken = s.taken := rfl
@[simp] theorem setCtx_msix (c : Nat) (x : Ctx) : (s.setCtx c x).msix = s.msix := rfl
@[simp] theorem setCtx_pendingIrqs (c : Nat) (x : Ctx) : (s.setCtx c x).pendingIrqs = s.pendingIrqs := rfl
@[simp] theorem setCtx_linkUp (c : Nat) (x : Ctx) : (s.setCtx c x).linkUp = s.linkUp := rfl
@[simp] theorem setCtx_suspects (c : Nat) (x : Ctx) : (s.setCtx c x).suspects = s.suspects := rfl
@[simp] theorem setCtx_tilesOut (c : Nat) (x : Ctx) : (s.setCtx c x).tilesOut = s.tilesOut := rfl
@[simp] theorem setCtx_through (c : Nat) (x : Ctx) : (s.setCtx c x).through = s.through := rfl
@[simp] theorem setCtx_asker (c : Nat) (x : Ctx) : (s.setCtx c x).asker = s.asker := rfl
@[simp] theorem setCtx_txSeq (c : Nat) (x : Ctx) : (s.setCtx c x).txSeq = s.txSeq := rfl
@[simp] theorem setCtx_unacked (c : Nat) (x : Ctx) : (s.setCtx c x).unacked = s.unacked := rfl
@[simp] theorem setCtx_txWait (c : Nat) (x : Ctx) : (s.setCtx c x).txWait = s.txWait := rfl
@[simp] theorem setCtx_credits (c : Nat) (x : Ctx) : (s.setCtx c x).credits = s.credits := rfl
@[simp] theorem setCtx_owed (c : Nat) (x : Ctx) : (s.setCtx c x).owed = s.owed := rfl
@[simp] theorem setCtx_rxWait (c : Nat) (x : Ctx) : (s.setCtx c x).rxWait = s.rxWait := rfl
@[simp] theorem setCtx_rxNext (c : Nat) (x : Ctx) : (s.setCtx c x).rxNext = s.rxNext := rfl
@[simp] theorem setCtx_skipped (c : Nat) (x : Ctx) : (s.setCtx c x).skipped = s.skipped := rfl
@[simp] theorem setCtx_bells (c : Nat) (x : Ctx) : (s.setCtx c x).bells = s.bells := rfl
@[simp] theorem setCtx_awayQs (c : Nat) (x : Ctx) : (s.setCtx c x).awayQs = s.awayQs := rfl
@[simp] theorem setCtx_strays (c : Nat) (x : Ctx) : (s.setCtx c x).strays = s.strays := rfl
@[simp] theorem setCtx_seen (c : Nat) (x : Ctx) : (s.setCtx c x).seen = s.seen := rfl
@[simp] theorem setCtx_returned (c : Nat) (x : Ctx) : (s.setCtx c x).returned = s.returned := rfl
@[simp] theorem setCtx_dues (c : Nat) (x : Ctx) : (s.setCtx c x).dues = s.dues := rfl
@[simp] theorem setCtx_die (c : Nat) (x : Ctx) : (s.setCtx c x).die = s.die := rfl
@[simp] theorem setCtx_asking (c : Nat) (x : Ctx) : (s.setCtx c x).asking = s.asking := rfl

/-! ### modCtx -/

@[simp] theorem modCtx_beat (c : Nat) (f : Ctx → Ctx) : (s.modCtx c f).beat = s.beat := rfl
@[simp] theorem modCtx_fresh (c : Nat) (f : Ctx → Ctx) : (s.modCtx c f).fresh = s.fresh := rfl
@[simp] theorem modCtx_gangs (c : Nat) (f : Ctx → Ctx) : (s.modCtx c f).gangs = s.gangs := rfl
@[simp] theorem modCtx_mem (c : Nat) (f : Ctx → Ctx) : (s.modCtx c f).mem = s.mem := rfl
@[simp] theorem modCtx_marks (c : Nat) (f : Ctx → Ctx) : (s.modCtx c f).marks = s.marks := rfl
@[simp] theorem modCtx_frames (c : Nat) (f : Ctx → Ctx) : (s.modCtx c f).frames = s.frames := rfl
@[simp] theorem modCtx_geom (c : Nat) (f : Ctx → Ctx) : (s.modCtx c f).geom = s.geom := rfl
@[simp] theorem modCtx_prior (c : Nat) (f : Ctx → Ctx) : (s.modCtx c f).prior = s.prior := rfl
@[simp] theorem modCtx_asidDir (c : Nat) (f : Ctx → Ctx) : (s.modCtx c f).asidDir = s.asidDir := rfl
@[simp] theorem modCtx_cur (c : Nat) (f : Ctx → Ctx) : (s.modCtx c f).cur = s.cur := rfl
@[simp] theorem modCtx_undo (c : Nat) (f : Ctx → Ctx) : (s.modCtx c f).undo = s.undo := rfl
@[simp] theorem modCtx_log (c : Nat) (f : Ctx → Ctx) : (s.modCtx c f).log = s.log := rfl
@[simp] theorem modCtx_seqs (c : Nat) (f : Ctx → Ctx) : (s.modCtx c f).seqs = s.seqs := rfl
@[simp] theorem modCtx_ev (c : Nat) (f : Ctx → Ctx) : (s.modCtx c f).ev = s.ev := rfl
@[simp] theorem modCtx_hostwin (c : Nat) (f : Ctx → Ctx) : (s.modCtx c f).hostwin = s.hostwin := rfl
@[simp] theorem modCtx_fdtab (c : Nat) (f : Ctx → Ctx) : (s.modCtx c f).fdtab = s.fdtab := rfl
@[simp] theorem modCtx_irqs (c : Nat) (f : Ctx → Ctx) : (s.modCtx c f).irqs = s.irqs := rfl
@[simp] theorem modCtx_pairs (c : Nat) (f : Ctx → Ctx) : (s.modCtx c f).pairs = s.pairs := rfl
@[simp] theorem modCtx_tlb (c : Nat) (f : Ctx → Ctx) : (s.modCtx c f).tlb = s.tlb := rfl
@[simp] theorem modCtx_moves (c : Nat) (f : Ctx → Ctx) : (s.modCtx c f).moves = s.moves := rfl
@[simp] theorem modCtx_forwards (c : Nat) (f : Ctx → Ctx) : (s.modCtx c f).forwards = s.forwards := rfl
@[simp] theorem modCtx_pageReqs (c : Nat) (f : Ctx → Ctx) : (s.modCtx c f).pageReqs = s.pageReqs := rfl
@[simp] theorem modCtx_windows (c : Nat) (f : Ctx → Ctx) : (s.modCtx c f).windows = s.windows := rfl
@[simp] theorem modCtx_merges (c : Nat) (f : Ctx → Ctx) : (s.modCtx c f).merges = s.merges := rfl
@[simp] theorem modCtx_insts (c : Nat) (f : Ctx → Ctx) : (s.modCtx c f).insts = s.insts := rfl
@[simp] theorem modCtx_gidCount (c : Nat) (f : Ctx → Ctx) : (s.modCtx c f).gidCount = s.gidCount := rfl
@[simp] theorem modCtx_heldWrites (c : Nat) (f : Ctx → Ctx) : (s.modCtx c f).heldWrites = s.heldWrites := rfl
@[simp] theorem modCtx_casts (c : Nat) (f : Ctx → Ctx) : (s.modCtx c f).casts = s.casts := rfl
@[simp] theorem modCtx_sent (c : Nat) (f : Ctx → Ctx) : (s.modCtx c f).sent = s.sent := rfl
@[simp] theorem modCtx_rxSeq (c : Nat) (f : Ctx → Ctx) : (s.modCtx c f).rxSeq = s.rxSeq := rfl
@[simp] theorem modCtx_cands (c : Nat) (f : Ctx → Ctx) : (s.modCtx c f).cands = s.cands := rfl
@[simp] theorem modCtx_nextId (c : Nat) (f : Ctx → Ctx) : (s.modCtx c f).nextId = s.nextId := rfl
@[simp] theorem modCtx_graphs (c : Nat) (f : Ctx → Ctx) : (s.modCtx c f).graphs = s.graphs := rfl
@[simp] theorem modCtx_pennants (c : Nat) (f : Ctx → Ctx) : (s.modCtx c f).pennants = s.pennants := rfl
@[simp] theorem modCtx_saved (c : Nat) (f : Ctx → Ctx) : (s.modCtx c f).saved = s.saved := rfl
@[simp] theorem modCtx_failed (c : Nat) (f : Ctx → Ctx) : (s.modCtx c f).failed = s.failed := rfl
@[simp] theorem modCtx_deferred (c : Nat) (f : Ctx → Ctx) : (s.modCtx c f).deferred = s.deferred := rfl
@[simp] theorem modCtx_decided (c : Nat) (f : Ctx → Ctx) : (s.modCtx c f).decided = s.decided := rfl
@[simp] theorem modCtx_restarts (c : Nat) (f : Ctx → Ctx) : (s.modCtx c f).restarts = s.restarts := rfl
@[simp] theorem modCtx_resumeQs (c : Nat) (f : Ctx → Ctx) : (s.modCtx c f).resumeQs = s.resumeQs := rfl
@[simp] theorem modCtx_fnum (c : Nat) (f : Ctx → Ctx) : (s.modCtx c f).fnum = s.fnum := rfl
@[simp] theorem modCtx_apbase (c : Nat) (f : Ctx → Ctx) : (s.modCtx c f).apbase = s.apbase := rfl
@[simp] theorem modCtx_qtab (c : Nat) (f : Ctx → Ctx) : (s.modCtx c f).qtab = s.qtab := rfl
@[simp] theorem modCtx_grptab (c : Nat) (f : Ctx → Ctx) : (s.modCtx c f).grptab = s.grptab := rfl
@[simp] theorem modCtx_hstat (c : Nat) (f : Ctx → Ctx) : (s.modCtx c f).hstat = s.hstat := rfl
@[simp] theorem modCtx_pwrlim (c : Nat) (f : Ctx → Ctx) : (s.modCtx c f).pwrlim = s.pwrlim := rfl
@[simp] theorem modCtx_wdog (c : Nat) (f : Ctx → Ctx) : (s.modCtx c f).wdog = s.wdog := rfl
@[simp] theorem modCtx_calper (c : Nat) (f : Ctx → Ctx) : (s.modCtx c f).calper = s.calper := rfl
@[simp] theorem modCtx_calAt (c : Nat) (f : Ctx → Ctx) : (s.modCtx c f).calAt = s.calAt := rfl
@[simp] theorem modCtx_trip (c : Nat) (f : Ctx → Ctx) : (s.modCtx c f).trip = s.trip := rfl
@[simp] theorem modCtx_tmax (c : Nat) (f : Ctx → Ctx) : (s.modCtx c f).tmax = s.tmax := rfl
@[simp] theorem modCtx_ttrip (c : Nat) (f : Ctx → Ctx) : (s.modCtx c f).ttrip = s.ttrip := rfl
@[simp] theorem modCtx_geo (c : Nat) (f : Ctx → Ctx) : (s.modCtx c f).geo = s.geo := rfl
@[simp] theorem modCtx_slotA (c : Nat) (f : Ctx → Ctx) : (s.modCtx c f).slotA = s.slotA := rfl
@[simp] theorem modCtx_slotB (c : Nat) (f : Ctx → Ctx) : (s.modCtx c f).slotB = s.slotB := rfl
@[simp] theorem modCtx_image (c : Nat) (f : Ctx → Ctx) : (s.modCtx c f).image = s.image := rfl
@[simp] theorem modCtx_staged (c : Nat) (f : Ctx → Ctx) : (s.modCtx c f).staged = s.staged := rfl
@[simp] theorem modCtx_stopped (c : Nat) (f : Ctx → Ctx) : (s.modCtx c f).stopped = s.stopped := rfl
@[simp] theorem modCtx_answers (c : Nat) (f : Ctx → Ctx) : (s.modCtx c f).answers = s.answers := rfl
@[simp] theorem modCtx_inputs (c : Nat) (f : Ctx → Ctx) : (s.modCtx c f).inputs = s.inputs := rfl
@[simp] theorem modCtx_boot (c : Nat) (f : Ctx → Ctx) : (s.modCtx c f).boot = s.boot := rfl
@[simp] theorem modCtx_power (c : Nat) (f : Ctx → Ctx) : (s.modCtx c f).power = s.power := rfl
@[simp] theorem modCtx_taken (c : Nat) (f : Ctx → Ctx) : (s.modCtx c f).taken = s.taken := rfl
@[simp] theorem modCtx_msix (c : Nat) (f : Ctx → Ctx) : (s.modCtx c f).msix = s.msix := rfl
@[simp] theorem modCtx_pendingIrqs (c : Nat) (f : Ctx → Ctx) : (s.modCtx c f).pendingIrqs = s.pendingIrqs := rfl
@[simp] theorem modCtx_linkUp (c : Nat) (f : Ctx → Ctx) : (s.modCtx c f).linkUp = s.linkUp := rfl
@[simp] theorem modCtx_suspects (c : Nat) (f : Ctx → Ctx) : (s.modCtx c f).suspects = s.suspects := rfl
@[simp] theorem modCtx_tilesOut (c : Nat) (f : Ctx → Ctx) : (s.modCtx c f).tilesOut = s.tilesOut := rfl
@[simp] theorem modCtx_through (c : Nat) (f : Ctx → Ctx) : (s.modCtx c f).through = s.through := rfl
@[simp] theorem modCtx_asker (c : Nat) (f : Ctx → Ctx) : (s.modCtx c f).asker = s.asker := rfl
@[simp] theorem modCtx_txSeq (c : Nat) (f : Ctx → Ctx) : (s.modCtx c f).txSeq = s.txSeq := rfl
@[simp] theorem modCtx_unacked (c : Nat) (f : Ctx → Ctx) : (s.modCtx c f).unacked = s.unacked := rfl
@[simp] theorem modCtx_txWait (c : Nat) (f : Ctx → Ctx) : (s.modCtx c f).txWait = s.txWait := rfl
@[simp] theorem modCtx_credits (c : Nat) (f : Ctx → Ctx) : (s.modCtx c f).credits = s.credits := rfl
@[simp] theorem modCtx_owed (c : Nat) (f : Ctx → Ctx) : (s.modCtx c f).owed = s.owed := rfl
@[simp] theorem modCtx_rxWait (c : Nat) (f : Ctx → Ctx) : (s.modCtx c f).rxWait = s.rxWait := rfl
@[simp] theorem modCtx_rxNext (c : Nat) (f : Ctx → Ctx) : (s.modCtx c f).rxNext = s.rxNext := rfl
@[simp] theorem modCtx_skipped (c : Nat) (f : Ctx → Ctx) : (s.modCtx c f).skipped = s.skipped := rfl
@[simp] theorem modCtx_bells (c : Nat) (f : Ctx → Ctx) : (s.modCtx c f).bells = s.bells := rfl
@[simp] theorem modCtx_awayQs (c : Nat) (f : Ctx → Ctx) : (s.modCtx c f).awayQs = s.awayQs := rfl
@[simp] theorem modCtx_strays (c : Nat) (f : Ctx → Ctx) : (s.modCtx c f).strays = s.strays := rfl
@[simp] theorem modCtx_seen (c : Nat) (f : Ctx → Ctx) : (s.modCtx c f).seen = s.seen := rfl
@[simp] theorem modCtx_returned (c : Nat) (f : Ctx → Ctx) : (s.modCtx c f).returned = s.returned := rfl
@[simp] theorem modCtx_dues (c : Nat) (f : Ctx → Ctx) : (s.modCtx c f).dues = s.dues := rfl
@[simp] theorem modCtx_die (c : Nat) (f : Ctx → Ctx) : (s.modCtx c f).die = s.die := rfl
@[simp] theorem modCtx_asking (c : Nat) (f : Ctx → Ctx) : (s.modCtx c f).asking = s.asking := rfl

/-! ### modRegs -/

@[simp] theorem modRegs_beat (c : Nat) (f : Regs → Regs) : (s.modRegs c f).beat = s.beat := rfl
@[simp] theorem modRegs_fresh (c : Nat) (f : Regs → Regs) : (s.modRegs c f).fresh = s.fresh := rfl
@[simp] theorem modRegs_gangs (c : Nat) (f : Regs → Regs) : (s.modRegs c f).gangs = s.gangs := rfl
@[simp] theorem modRegs_mem (c : Nat) (f : Regs → Regs) : (s.modRegs c f).mem = s.mem := rfl
@[simp] theorem modRegs_marks (c : Nat) (f : Regs → Regs) : (s.modRegs c f).marks = s.marks := rfl
@[simp] theorem modRegs_frames (c : Nat) (f : Regs → Regs) : (s.modRegs c f).frames = s.frames := rfl
@[simp] theorem modRegs_geom (c : Nat) (f : Regs → Regs) : (s.modRegs c f).geom = s.geom := rfl
@[simp] theorem modRegs_prior (c : Nat) (f : Regs → Regs) : (s.modRegs c f).prior = s.prior := rfl
@[simp] theorem modRegs_asidDir (c : Nat) (f : Regs → Regs) : (s.modRegs c f).asidDir = s.asidDir := rfl
@[simp] theorem modRegs_cur (c : Nat) (f : Regs → Regs) : (s.modRegs c f).cur = s.cur := rfl
@[simp] theorem modRegs_undo (c : Nat) (f : Regs → Regs) : (s.modRegs c f).undo = s.undo := rfl
@[simp] theorem modRegs_log (c : Nat) (f : Regs → Regs) : (s.modRegs c f).log = s.log := rfl
@[simp] theorem modRegs_seqs (c : Nat) (f : Regs → Regs) : (s.modRegs c f).seqs = s.seqs := rfl
@[simp] theorem modRegs_ev (c : Nat) (f : Regs → Regs) : (s.modRegs c f).ev = s.ev := rfl
@[simp] theorem modRegs_hostwin (c : Nat) (f : Regs → Regs) : (s.modRegs c f).hostwin = s.hostwin := rfl
@[simp] theorem modRegs_fdtab (c : Nat) (f : Regs → Regs) : (s.modRegs c f).fdtab = s.fdtab := rfl
@[simp] theorem modRegs_irqs (c : Nat) (f : Regs → Regs) : (s.modRegs c f).irqs = s.irqs := rfl
@[simp] theorem modRegs_pairs (c : Nat) (f : Regs → Regs) : (s.modRegs c f).pairs = s.pairs := rfl
@[simp] theorem modRegs_tlb (c : Nat) (f : Regs → Regs) : (s.modRegs c f).tlb = s.tlb := rfl
@[simp] theorem modRegs_moves (c : Nat) (f : Regs → Regs) : (s.modRegs c f).moves = s.moves := rfl
@[simp] theorem modRegs_forwards (c : Nat) (f : Regs → Regs) : (s.modRegs c f).forwards = s.forwards := rfl
@[simp] theorem modRegs_pageReqs (c : Nat) (f : Regs → Regs) : (s.modRegs c f).pageReqs = s.pageReqs := rfl
@[simp] theorem modRegs_windows (c : Nat) (f : Regs → Regs) : (s.modRegs c f).windows = s.windows := rfl
@[simp] theorem modRegs_merges (c : Nat) (f : Regs → Regs) : (s.modRegs c f).merges = s.merges := rfl
@[simp] theorem modRegs_insts (c : Nat) (f : Regs → Regs) : (s.modRegs c f).insts = s.insts := rfl
@[simp] theorem modRegs_gidCount (c : Nat) (f : Regs → Regs) : (s.modRegs c f).gidCount = s.gidCount := rfl
@[simp] theorem modRegs_heldWrites (c : Nat) (f : Regs → Regs) : (s.modRegs c f).heldWrites = s.heldWrites := rfl
@[simp] theorem modRegs_casts (c : Nat) (f : Regs → Regs) : (s.modRegs c f).casts = s.casts := rfl
@[simp] theorem modRegs_sent (c : Nat) (f : Regs → Regs) : (s.modRegs c f).sent = s.sent := rfl
@[simp] theorem modRegs_rxSeq (c : Nat) (f : Regs → Regs) : (s.modRegs c f).rxSeq = s.rxSeq := rfl
@[simp] theorem modRegs_cands (c : Nat) (f : Regs → Regs) : (s.modRegs c f).cands = s.cands := rfl
@[simp] theorem modRegs_nextId (c : Nat) (f : Regs → Regs) : (s.modRegs c f).nextId = s.nextId := rfl
@[simp] theorem modRegs_graphs (c : Nat) (f : Regs → Regs) : (s.modRegs c f).graphs = s.graphs := rfl
@[simp] theorem modRegs_pennants (c : Nat) (f : Regs → Regs) : (s.modRegs c f).pennants = s.pennants := rfl
@[simp] theorem modRegs_saved (c : Nat) (f : Regs → Regs) : (s.modRegs c f).saved = s.saved := rfl
@[simp] theorem modRegs_failed (c : Nat) (f : Regs → Regs) : (s.modRegs c f).failed = s.failed := rfl
@[simp] theorem modRegs_deferred (c : Nat) (f : Regs → Regs) : (s.modRegs c f).deferred = s.deferred := rfl
@[simp] theorem modRegs_decided (c : Nat) (f : Regs → Regs) : (s.modRegs c f).decided = s.decided := rfl
@[simp] theorem modRegs_restarts (c : Nat) (f : Regs → Regs) : (s.modRegs c f).restarts = s.restarts := rfl
@[simp] theorem modRegs_resumeQs (c : Nat) (f : Regs → Regs) : (s.modRegs c f).resumeQs = s.resumeQs := rfl
@[simp] theorem modRegs_fnum (c : Nat) (f : Regs → Regs) : (s.modRegs c f).fnum = s.fnum := rfl
@[simp] theorem modRegs_apbase (c : Nat) (f : Regs → Regs) : (s.modRegs c f).apbase = s.apbase := rfl
@[simp] theorem modRegs_qtab (c : Nat) (f : Regs → Regs) : (s.modRegs c f).qtab = s.qtab := rfl
@[simp] theorem modRegs_grptab (c : Nat) (f : Regs → Regs) : (s.modRegs c f).grptab = s.grptab := rfl
@[simp] theorem modRegs_hstat (c : Nat) (f : Regs → Regs) : (s.modRegs c f).hstat = s.hstat := rfl
@[simp] theorem modRegs_pwrlim (c : Nat) (f : Regs → Regs) : (s.modRegs c f).pwrlim = s.pwrlim := rfl
@[simp] theorem modRegs_wdog (c : Nat) (f : Regs → Regs) : (s.modRegs c f).wdog = s.wdog := rfl
@[simp] theorem modRegs_calper (c : Nat) (f : Regs → Regs) : (s.modRegs c f).calper = s.calper := rfl
@[simp] theorem modRegs_calAt (c : Nat) (f : Regs → Regs) : (s.modRegs c f).calAt = s.calAt := rfl
@[simp] theorem modRegs_trip (c : Nat) (f : Regs → Regs) : (s.modRegs c f).trip = s.trip := rfl
@[simp] theorem modRegs_tmax (c : Nat) (f : Regs → Regs) : (s.modRegs c f).tmax = s.tmax := rfl
@[simp] theorem modRegs_ttrip (c : Nat) (f : Regs → Regs) : (s.modRegs c f).ttrip = s.ttrip := rfl
@[simp] theorem modRegs_geo (c : Nat) (f : Regs → Regs) : (s.modRegs c f).geo = s.geo := rfl
@[simp] theorem modRegs_slotA (c : Nat) (f : Regs → Regs) : (s.modRegs c f).slotA = s.slotA := rfl
@[simp] theorem modRegs_slotB (c : Nat) (f : Regs → Regs) : (s.modRegs c f).slotB = s.slotB := rfl
@[simp] theorem modRegs_image (c : Nat) (f : Regs → Regs) : (s.modRegs c f).image = s.image := rfl
@[simp] theorem modRegs_staged (c : Nat) (f : Regs → Regs) : (s.modRegs c f).staged = s.staged := rfl
@[simp] theorem modRegs_stopped (c : Nat) (f : Regs → Regs) : (s.modRegs c f).stopped = s.stopped := rfl
@[simp] theorem modRegs_answers (c : Nat) (f : Regs → Regs) : (s.modRegs c f).answers = s.answers := rfl
@[simp] theorem modRegs_inputs (c : Nat) (f : Regs → Regs) : (s.modRegs c f).inputs = s.inputs := rfl
@[simp] theorem modRegs_boot (c : Nat) (f : Regs → Regs) : (s.modRegs c f).boot = s.boot := rfl
@[simp] theorem modRegs_power (c : Nat) (f : Regs → Regs) : (s.modRegs c f).power = s.power := rfl
@[simp] theorem modRegs_taken (c : Nat) (f : Regs → Regs) : (s.modRegs c f).taken = s.taken := rfl
@[simp] theorem modRegs_msix (c : Nat) (f : Regs → Regs) : (s.modRegs c f).msix = s.msix := rfl
@[simp] theorem modRegs_pendingIrqs (c : Nat) (f : Regs → Regs) : (s.modRegs c f).pendingIrqs = s.pendingIrqs := rfl
@[simp] theorem modRegs_linkUp (c : Nat) (f : Regs → Regs) : (s.modRegs c f).linkUp = s.linkUp := rfl
@[simp] theorem modRegs_suspects (c : Nat) (f : Regs → Regs) : (s.modRegs c f).suspects = s.suspects := rfl
@[simp] theorem modRegs_tilesOut (c : Nat) (f : Regs → Regs) : (s.modRegs c f).tilesOut = s.tilesOut := rfl
@[simp] theorem modRegs_through (c : Nat) (f : Regs → Regs) : (s.modRegs c f).through = s.through := rfl
@[simp] theorem modRegs_asker (c : Nat) (f : Regs → Regs) : (s.modRegs c f).asker = s.asker := rfl
@[simp] theorem modRegs_txSeq (c : Nat) (f : Regs → Regs) : (s.modRegs c f).txSeq = s.txSeq := rfl
@[simp] theorem modRegs_unacked (c : Nat) (f : Regs → Regs) : (s.modRegs c f).unacked = s.unacked := rfl
@[simp] theorem modRegs_txWait (c : Nat) (f : Regs → Regs) : (s.modRegs c f).txWait = s.txWait := rfl
@[simp] theorem modRegs_credits (c : Nat) (f : Regs → Regs) : (s.modRegs c f).credits = s.credits := rfl
@[simp] theorem modRegs_owed (c : Nat) (f : Regs → Regs) : (s.modRegs c f).owed = s.owed := rfl
@[simp] theorem modRegs_rxWait (c : Nat) (f : Regs → Regs) : (s.modRegs c f).rxWait = s.rxWait := rfl
@[simp] theorem modRegs_rxNext (c : Nat) (f : Regs → Regs) : (s.modRegs c f).rxNext = s.rxNext := rfl
@[simp] theorem modRegs_skipped (c : Nat) (f : Regs → Regs) : (s.modRegs c f).skipped = s.skipped := rfl
@[simp] theorem modRegs_bells (c : Nat) (f : Regs → Regs) : (s.modRegs c f).bells = s.bells := rfl
@[simp] theorem modRegs_awayQs (c : Nat) (f : Regs → Regs) : (s.modRegs c f).awayQs = s.awayQs := rfl
@[simp] theorem modRegs_strays (c : Nat) (f : Regs → Regs) : (s.modRegs c f).strays = s.strays := rfl
@[simp] theorem modRegs_seen (c : Nat) (f : Regs → Regs) : (s.modRegs c f).seen = s.seen := rfl
@[simp] theorem modRegs_returned (c : Nat) (f : Regs → Regs) : (s.modRegs c f).returned = s.returned := rfl
@[simp] theorem modRegs_dues (c : Nat) (f : Regs → Regs) : (s.modRegs c f).dues = s.dues := rfl
@[simp] theorem modRegs_die (c : Nat) (f : Regs → Regs) : (s.modRegs c f).die = s.die := rfl
@[simp] theorem modRegs_asking (c : Nat) (f : Regs → Regs) : (s.modRegs c f).asking = s.asking := rfl

/-! ### modMe -/

@[simp] theorem modMe_beat (f : Ctx → Ctx) : (s.modMe f).beat = s.beat := rfl
@[simp] theorem modMe_fresh (f : Ctx → Ctx) : (s.modMe f).fresh = s.fresh := rfl
@[simp] theorem modMe_gangs (f : Ctx → Ctx) : (s.modMe f).gangs = s.gangs := rfl
@[simp] theorem modMe_mem (f : Ctx → Ctx) : (s.modMe f).mem = s.mem := rfl
@[simp] theorem modMe_marks (f : Ctx → Ctx) : (s.modMe f).marks = s.marks := rfl
@[simp] theorem modMe_frames (f : Ctx → Ctx) : (s.modMe f).frames = s.frames := rfl
@[simp] theorem modMe_geom (f : Ctx → Ctx) : (s.modMe f).geom = s.geom := rfl
@[simp] theorem modMe_prior (f : Ctx → Ctx) : (s.modMe f).prior = s.prior := rfl
@[simp] theorem modMe_asidDir (f : Ctx → Ctx) : (s.modMe f).asidDir = s.asidDir := rfl
@[simp] theorem modMe_cur (f : Ctx → Ctx) : (s.modMe f).cur = s.cur := rfl
@[simp] theorem modMe_undo (f : Ctx → Ctx) : (s.modMe f).undo = s.undo := rfl
@[simp] theorem modMe_log (f : Ctx → Ctx) : (s.modMe f).log = s.log := rfl
@[simp] theorem modMe_seqs (f : Ctx → Ctx) : (s.modMe f).seqs = s.seqs := rfl
@[simp] theorem modMe_ev (f : Ctx → Ctx) : (s.modMe f).ev = s.ev := rfl
@[simp] theorem modMe_hostwin (f : Ctx → Ctx) : (s.modMe f).hostwin = s.hostwin := rfl
@[simp] theorem modMe_fdtab (f : Ctx → Ctx) : (s.modMe f).fdtab = s.fdtab := rfl
@[simp] theorem modMe_irqs (f : Ctx → Ctx) : (s.modMe f).irqs = s.irqs := rfl
@[simp] theorem modMe_pairs (f : Ctx → Ctx) : (s.modMe f).pairs = s.pairs := rfl
@[simp] theorem modMe_tlb (f : Ctx → Ctx) : (s.modMe f).tlb = s.tlb := rfl
@[simp] theorem modMe_moves (f : Ctx → Ctx) : (s.modMe f).moves = s.moves := rfl
@[simp] theorem modMe_forwards (f : Ctx → Ctx) : (s.modMe f).forwards = s.forwards := rfl
@[simp] theorem modMe_pageReqs (f : Ctx → Ctx) : (s.modMe f).pageReqs = s.pageReqs := rfl
@[simp] theorem modMe_windows (f : Ctx → Ctx) : (s.modMe f).windows = s.windows := rfl
@[simp] theorem modMe_merges (f : Ctx → Ctx) : (s.modMe f).merges = s.merges := rfl
@[simp] theorem modMe_insts (f : Ctx → Ctx) : (s.modMe f).insts = s.insts := rfl
@[simp] theorem modMe_gidCount (f : Ctx → Ctx) : (s.modMe f).gidCount = s.gidCount := rfl
@[simp] theorem modMe_heldWrites (f : Ctx → Ctx) : (s.modMe f).heldWrites = s.heldWrites := rfl
@[simp] theorem modMe_casts (f : Ctx → Ctx) : (s.modMe f).casts = s.casts := rfl
@[simp] theorem modMe_sent (f : Ctx → Ctx) : (s.modMe f).sent = s.sent := rfl
@[simp] theorem modMe_rxSeq (f : Ctx → Ctx) : (s.modMe f).rxSeq = s.rxSeq := rfl
@[simp] theorem modMe_cands (f : Ctx → Ctx) : (s.modMe f).cands = s.cands := rfl
@[simp] theorem modMe_nextId (f : Ctx → Ctx) : (s.modMe f).nextId = s.nextId := rfl
@[simp] theorem modMe_graphs (f : Ctx → Ctx) : (s.modMe f).graphs = s.graphs := rfl
@[simp] theorem modMe_pennants (f : Ctx → Ctx) : (s.modMe f).pennants = s.pennants := rfl
@[simp] theorem modMe_saved (f : Ctx → Ctx) : (s.modMe f).saved = s.saved := rfl
@[simp] theorem modMe_failed (f : Ctx → Ctx) : (s.modMe f).failed = s.failed := rfl
@[simp] theorem modMe_deferred (f : Ctx → Ctx) : (s.modMe f).deferred = s.deferred := rfl
@[simp] theorem modMe_decided (f : Ctx → Ctx) : (s.modMe f).decided = s.decided := rfl
@[simp] theorem modMe_restarts (f : Ctx → Ctx) : (s.modMe f).restarts = s.restarts := rfl
@[simp] theorem modMe_resumeQs (f : Ctx → Ctx) : (s.modMe f).resumeQs = s.resumeQs := rfl
@[simp] theorem modMe_fnum (f : Ctx → Ctx) : (s.modMe f).fnum = s.fnum := rfl
@[simp] theorem modMe_apbase (f : Ctx → Ctx) : (s.modMe f).apbase = s.apbase := rfl
@[simp] theorem modMe_qtab (f : Ctx → Ctx) : (s.modMe f).qtab = s.qtab := rfl
@[simp] theorem modMe_grptab (f : Ctx → Ctx) : (s.modMe f).grptab = s.grptab := rfl
@[simp] theorem modMe_hstat (f : Ctx → Ctx) : (s.modMe f).hstat = s.hstat := rfl
@[simp] theorem modMe_pwrlim (f : Ctx → Ctx) : (s.modMe f).pwrlim = s.pwrlim := rfl
@[simp] theorem modMe_wdog (f : Ctx → Ctx) : (s.modMe f).wdog = s.wdog := rfl
@[simp] theorem modMe_calper (f : Ctx → Ctx) : (s.modMe f).calper = s.calper := rfl
@[simp] theorem modMe_calAt (f : Ctx → Ctx) : (s.modMe f).calAt = s.calAt := rfl
@[simp] theorem modMe_trip (f : Ctx → Ctx) : (s.modMe f).trip = s.trip := rfl
@[simp] theorem modMe_tmax (f : Ctx → Ctx) : (s.modMe f).tmax = s.tmax := rfl
@[simp] theorem modMe_ttrip (f : Ctx → Ctx) : (s.modMe f).ttrip = s.ttrip := rfl
@[simp] theorem modMe_geo (f : Ctx → Ctx) : (s.modMe f).geo = s.geo := rfl
@[simp] theorem modMe_slotA (f : Ctx → Ctx) : (s.modMe f).slotA = s.slotA := rfl
@[simp] theorem modMe_slotB (f : Ctx → Ctx) : (s.modMe f).slotB = s.slotB := rfl
@[simp] theorem modMe_image (f : Ctx → Ctx) : (s.modMe f).image = s.image := rfl
@[simp] theorem modMe_staged (f : Ctx → Ctx) : (s.modMe f).staged = s.staged := rfl
@[simp] theorem modMe_stopped (f : Ctx → Ctx) : (s.modMe f).stopped = s.stopped := rfl
@[simp] theorem modMe_answers (f : Ctx → Ctx) : (s.modMe f).answers = s.answers := rfl
@[simp] theorem modMe_inputs (f : Ctx → Ctx) : (s.modMe f).inputs = s.inputs := rfl
@[simp] theorem modMe_boot (f : Ctx → Ctx) : (s.modMe f).boot = s.boot := rfl
@[simp] theorem modMe_power (f : Ctx → Ctx) : (s.modMe f).power = s.power := rfl
@[simp] theorem modMe_taken (f : Ctx → Ctx) : (s.modMe f).taken = s.taken := rfl
@[simp] theorem modMe_msix (f : Ctx → Ctx) : (s.modMe f).msix = s.msix := rfl
@[simp] theorem modMe_pendingIrqs (f : Ctx → Ctx) : (s.modMe f).pendingIrqs = s.pendingIrqs := rfl
@[simp] theorem modMe_linkUp (f : Ctx → Ctx) : (s.modMe f).linkUp = s.linkUp := rfl
@[simp] theorem modMe_suspects (f : Ctx → Ctx) : (s.modMe f).suspects = s.suspects := rfl
@[simp] theorem modMe_tilesOut (f : Ctx → Ctx) : (s.modMe f).tilesOut = s.tilesOut := rfl
@[simp] theorem modMe_through (f : Ctx → Ctx) : (s.modMe f).through = s.through := rfl
@[simp] theorem modMe_asker (f : Ctx → Ctx) : (s.modMe f).asker = s.asker := rfl
@[simp] theorem modMe_txSeq (f : Ctx → Ctx) : (s.modMe f).txSeq = s.txSeq := rfl
@[simp] theorem modMe_unacked (f : Ctx → Ctx) : (s.modMe f).unacked = s.unacked := rfl
@[simp] theorem modMe_txWait (f : Ctx → Ctx) : (s.modMe f).txWait = s.txWait := rfl
@[simp] theorem modMe_credits (f : Ctx → Ctx) : (s.modMe f).credits = s.credits := rfl
@[simp] theorem modMe_owed (f : Ctx → Ctx) : (s.modMe f).owed = s.owed := rfl
@[simp] theorem modMe_rxWait (f : Ctx → Ctx) : (s.modMe f).rxWait = s.rxWait := rfl
@[simp] theorem modMe_rxNext (f : Ctx → Ctx) : (s.modMe f).rxNext = s.rxNext := rfl
@[simp] theorem modMe_skipped (f : Ctx → Ctx) : (s.modMe f).skipped = s.skipped := rfl
@[simp] theorem modMe_bells (f : Ctx → Ctx) : (s.modMe f).bells = s.bells := rfl
@[simp] theorem modMe_awayQs (f : Ctx → Ctx) : (s.modMe f).awayQs = s.awayQs := rfl
@[simp] theorem modMe_strays (f : Ctx → Ctx) : (s.modMe f).strays = s.strays := rfl
@[simp] theorem modMe_seen (f : Ctx → Ctx) : (s.modMe f).seen = s.seen := rfl
@[simp] theorem modMe_returned (f : Ctx → Ctx) : (s.modMe f).returned = s.returned := rfl
@[simp] theorem modMe_dues (f : Ctx → Ctx) : (s.modMe f).dues = s.dues := rfl
@[simp] theorem modMe_die (f : Ctx → Ctx) : (s.modMe f).die = s.die := rfl
@[simp] theorem modMe_asking (f : Ctx → Ctx) : (s.modMe f).asking = s.asking := rfl

/-! ### modCur -/

@[simp] theorem modCur_beat (f : Cursor → Cursor) : (s.modCur f).beat = s.beat := rfl
@[simp] theorem modCur_fresh (f : Cursor → Cursor) : (s.modCur f).fresh = s.fresh := rfl
@[simp] theorem modCur_ctxs (f : Cursor → Cursor) : (s.modCur f).ctxs = s.ctxs := rfl
@[simp] theorem modCur_gangs (f : Cursor → Cursor) : (s.modCur f).gangs = s.gangs := rfl
@[simp] theorem modCur_mem (f : Cursor → Cursor) : (s.modCur f).mem = s.mem := rfl
@[simp] theorem modCur_marks (f : Cursor → Cursor) : (s.modCur f).marks = s.marks := rfl
@[simp] theorem modCur_frames (f : Cursor → Cursor) : (s.modCur f).frames = s.frames := rfl
@[simp] theorem modCur_geom (f : Cursor → Cursor) : (s.modCur f).geom = s.geom := rfl
@[simp] theorem modCur_prior (f : Cursor → Cursor) : (s.modCur f).prior = s.prior := rfl
@[simp] theorem modCur_asidDir (f : Cursor → Cursor) : (s.modCur f).asidDir = s.asidDir := rfl
@[simp] theorem modCur_undo (f : Cursor → Cursor) : (s.modCur f).undo = s.undo := rfl
@[simp] theorem modCur_log (f : Cursor → Cursor) : (s.modCur f).log = s.log := rfl
@[simp] theorem modCur_seqs (f : Cursor → Cursor) : (s.modCur f).seqs = s.seqs := rfl
@[simp] theorem modCur_ev (f : Cursor → Cursor) : (s.modCur f).ev = s.ev := rfl
@[simp] theorem modCur_hostwin (f : Cursor → Cursor) : (s.modCur f).hostwin = s.hostwin := rfl
@[simp] theorem modCur_fdtab (f : Cursor → Cursor) : (s.modCur f).fdtab = s.fdtab := rfl
@[simp] theorem modCur_irqs (f : Cursor → Cursor) : (s.modCur f).irqs = s.irqs := rfl
@[simp] theorem modCur_pairs (f : Cursor → Cursor) : (s.modCur f).pairs = s.pairs := rfl
@[simp] theorem modCur_tlb (f : Cursor → Cursor) : (s.modCur f).tlb = s.tlb := rfl
@[simp] theorem modCur_moves (f : Cursor → Cursor) : (s.modCur f).moves = s.moves := rfl
@[simp] theorem modCur_forwards (f : Cursor → Cursor) : (s.modCur f).forwards = s.forwards := rfl
@[simp] theorem modCur_pageReqs (f : Cursor → Cursor) : (s.modCur f).pageReqs = s.pageReqs := rfl
@[simp] theorem modCur_windows (f : Cursor → Cursor) : (s.modCur f).windows = s.windows := rfl
@[simp] theorem modCur_merges (f : Cursor → Cursor) : (s.modCur f).merges = s.merges := rfl
@[simp] theorem modCur_insts (f : Cursor → Cursor) : (s.modCur f).insts = s.insts := rfl
@[simp] theorem modCur_gidCount (f : Cursor → Cursor) : (s.modCur f).gidCount = s.gidCount := rfl
@[simp] theorem modCur_heldWrites (f : Cursor → Cursor) : (s.modCur f).heldWrites = s.heldWrites := rfl
@[simp] theorem modCur_casts (f : Cursor → Cursor) : (s.modCur f).casts = s.casts := rfl
@[simp] theorem modCur_sent (f : Cursor → Cursor) : (s.modCur f).sent = s.sent := rfl
@[simp] theorem modCur_rxSeq (f : Cursor → Cursor) : (s.modCur f).rxSeq = s.rxSeq := rfl
@[simp] theorem modCur_cands (f : Cursor → Cursor) : (s.modCur f).cands = s.cands := rfl
@[simp] theorem modCur_nextId (f : Cursor → Cursor) : (s.modCur f).nextId = s.nextId := rfl
@[simp] theorem modCur_graphs (f : Cursor → Cursor) : (s.modCur f).graphs = s.graphs := rfl
@[simp] theorem modCur_pennants (f : Cursor → Cursor) : (s.modCur f).pennants = s.pennants := rfl
@[simp] theorem modCur_saved (f : Cursor → Cursor) : (s.modCur f).saved = s.saved := rfl
@[simp] theorem modCur_failed (f : Cursor → Cursor) : (s.modCur f).failed = s.failed := rfl
@[simp] theorem modCur_deferred (f : Cursor → Cursor) : (s.modCur f).deferred = s.deferred := rfl
@[simp] theorem modCur_decided (f : Cursor → Cursor) : (s.modCur f).decided = s.decided := rfl
@[simp] theorem modCur_restarts (f : Cursor → Cursor) : (s.modCur f).restarts = s.restarts := rfl
@[simp] theorem modCur_resumeQs (f : Cursor → Cursor) : (s.modCur f).resumeQs = s.resumeQs := rfl
@[simp] theorem modCur_fnum (f : Cursor → Cursor) : (s.modCur f).fnum = s.fnum := rfl
@[simp] theorem modCur_apbase (f : Cursor → Cursor) : (s.modCur f).apbase = s.apbase := rfl
@[simp] theorem modCur_qtab (f : Cursor → Cursor) : (s.modCur f).qtab = s.qtab := rfl
@[simp] theorem modCur_grptab (f : Cursor → Cursor) : (s.modCur f).grptab = s.grptab := rfl
@[simp] theorem modCur_hstat (f : Cursor → Cursor) : (s.modCur f).hstat = s.hstat := rfl
@[simp] theorem modCur_pwrlim (f : Cursor → Cursor) : (s.modCur f).pwrlim = s.pwrlim := rfl
@[simp] theorem modCur_wdog (f : Cursor → Cursor) : (s.modCur f).wdog = s.wdog := rfl
@[simp] theorem modCur_calper (f : Cursor → Cursor) : (s.modCur f).calper = s.calper := rfl
@[simp] theorem modCur_calAt (f : Cursor → Cursor) : (s.modCur f).calAt = s.calAt := rfl
@[simp] theorem modCur_trip (f : Cursor → Cursor) : (s.modCur f).trip = s.trip := rfl
@[simp] theorem modCur_tmax (f : Cursor → Cursor) : (s.modCur f).tmax = s.tmax := rfl
@[simp] theorem modCur_ttrip (f : Cursor → Cursor) : (s.modCur f).ttrip = s.ttrip := rfl
@[simp] theorem modCur_geo (f : Cursor → Cursor) : (s.modCur f).geo = s.geo := rfl
@[simp] theorem modCur_slotA (f : Cursor → Cursor) : (s.modCur f).slotA = s.slotA := rfl
@[simp] theorem modCur_slotB (f : Cursor → Cursor) : (s.modCur f).slotB = s.slotB := rfl
@[simp] theorem modCur_image (f : Cursor → Cursor) : (s.modCur f).image = s.image := rfl
@[simp] theorem modCur_staged (f : Cursor → Cursor) : (s.modCur f).staged = s.staged := rfl
@[simp] theorem modCur_stopped (f : Cursor → Cursor) : (s.modCur f).stopped = s.stopped := rfl
@[simp] theorem modCur_answers (f : Cursor → Cursor) : (s.modCur f).answers = s.answers := rfl
@[simp] theorem modCur_inputs (f : Cursor → Cursor) : (s.modCur f).inputs = s.inputs := rfl
@[simp] theorem modCur_boot (f : Cursor → Cursor) : (s.modCur f).boot = s.boot := rfl
@[simp] theorem modCur_power (f : Cursor → Cursor) : (s.modCur f).power = s.power := rfl
@[simp] theorem modCur_taken (f : Cursor → Cursor) : (s.modCur f).taken = s.taken := rfl
@[simp] theorem modCur_msix (f : Cursor → Cursor) : (s.modCur f).msix = s.msix := rfl
@[simp] theorem modCur_pendingIrqs (f : Cursor → Cursor) : (s.modCur f).pendingIrqs = s.pendingIrqs := rfl
@[simp] theorem modCur_linkUp (f : Cursor → Cursor) : (s.modCur f).linkUp = s.linkUp := rfl
@[simp] theorem modCur_suspects (f : Cursor → Cursor) : (s.modCur f).suspects = s.suspects := rfl
@[simp] theorem modCur_tilesOut (f : Cursor → Cursor) : (s.modCur f).tilesOut = s.tilesOut := rfl
@[simp] theorem modCur_through (f : Cursor → Cursor) : (s.modCur f).through = s.through := rfl
@[simp] theorem modCur_asker (f : Cursor → Cursor) : (s.modCur f).asker = s.asker := rfl
@[simp] theorem modCur_txSeq (f : Cursor → Cursor) : (s.modCur f).txSeq = s.txSeq := rfl
@[simp] theorem modCur_unacked (f : Cursor → Cursor) : (s.modCur f).unacked = s.unacked := rfl
@[simp] theorem modCur_txWait (f : Cursor → Cursor) : (s.modCur f).txWait = s.txWait := rfl
@[simp] theorem modCur_credits (f : Cursor → Cursor) : (s.modCur f).credits = s.credits := rfl
@[simp] theorem modCur_owed (f : Cursor → Cursor) : (s.modCur f).owed = s.owed := rfl
@[simp] theorem modCur_rxWait (f : Cursor → Cursor) : (s.modCur f).rxWait = s.rxWait := rfl
@[simp] theorem modCur_rxNext (f : Cursor → Cursor) : (s.modCur f).rxNext = s.rxNext := rfl
@[simp] theorem modCur_skipped (f : Cursor → Cursor) : (s.modCur f).skipped = s.skipped := rfl
@[simp] theorem modCur_bells (f : Cursor → Cursor) : (s.modCur f).bells = s.bells := rfl
@[simp] theorem modCur_awayQs (f : Cursor → Cursor) : (s.modCur f).awayQs = s.awayQs := rfl
@[simp] theorem modCur_strays (f : Cursor → Cursor) : (s.modCur f).strays = s.strays := rfl
@[simp] theorem modCur_seen (f : Cursor → Cursor) : (s.modCur f).seen = s.seen := rfl
@[simp] theorem modCur_returned (f : Cursor → Cursor) : (s.modCur f).returned = s.returned := rfl
@[simp] theorem modCur_dues (f : Cursor → Cursor) : (s.modCur f).dues = s.dues := rfl
@[simp] theorem modCur_die (f : Cursor → Cursor) : (s.modCur f).die = s.die := rfl
@[simp] theorem modCur_asking (f : Cursor → Cursor) : (s.modCur f).asking = s.asking := rfl

/-! ### setGang -/

@[simp] theorem setGang_beat (i : Nat) (g : Gang) : (s.setGang i g).beat = s.beat := rfl
@[simp] theorem setGang_fresh (i : Nat) (g : Gang) : (s.setGang i g).fresh = s.fresh := rfl
@[simp] theorem setGang_ctxs (i : Nat) (g : Gang) : (s.setGang i g).ctxs = s.ctxs := rfl
@[simp] theorem setGang_mem (i : Nat) (g : Gang) : (s.setGang i g).mem = s.mem := rfl
@[simp] theorem setGang_marks (i : Nat) (g : Gang) : (s.setGang i g).marks = s.marks := rfl
@[simp] theorem setGang_frames (i : Nat) (g : Gang) : (s.setGang i g).frames = s.frames := rfl
@[simp] theorem setGang_geom (i : Nat) (g : Gang) : (s.setGang i g).geom = s.geom := rfl
@[simp] theorem setGang_prior (i : Nat) (g : Gang) : (s.setGang i g).prior = s.prior := rfl
@[simp] theorem setGang_asidDir (i : Nat) (g : Gang) : (s.setGang i g).asidDir = s.asidDir := rfl
@[simp] theorem setGang_cur (i : Nat) (g : Gang) : (s.setGang i g).cur = s.cur := rfl
@[simp] theorem setGang_undo (i : Nat) (g : Gang) : (s.setGang i g).undo = s.undo := rfl
@[simp] theorem setGang_log (i : Nat) (g : Gang) : (s.setGang i g).log = s.log := rfl
@[simp] theorem setGang_seqs (i : Nat) (g : Gang) : (s.setGang i g).seqs = s.seqs := rfl
@[simp] theorem setGang_ev (i : Nat) (g : Gang) : (s.setGang i g).ev = s.ev := rfl
@[simp] theorem setGang_hostwin (i : Nat) (g : Gang) : (s.setGang i g).hostwin = s.hostwin := rfl
@[simp] theorem setGang_fdtab (i : Nat) (g : Gang) : (s.setGang i g).fdtab = s.fdtab := rfl
@[simp] theorem setGang_irqs (i : Nat) (g : Gang) : (s.setGang i g).irqs = s.irqs := rfl
@[simp] theorem setGang_pairs (i : Nat) (g : Gang) : (s.setGang i g).pairs = s.pairs := rfl
@[simp] theorem setGang_tlb (i : Nat) (g : Gang) : (s.setGang i g).tlb = s.tlb := rfl
@[simp] theorem setGang_moves (i : Nat) (g : Gang) : (s.setGang i g).moves = s.moves := rfl
@[simp] theorem setGang_forwards (i : Nat) (g : Gang) : (s.setGang i g).forwards = s.forwards := rfl
@[simp] theorem setGang_pageReqs (i : Nat) (g : Gang) : (s.setGang i g).pageReqs = s.pageReqs := rfl
@[simp] theorem setGang_windows (i : Nat) (g : Gang) : (s.setGang i g).windows = s.windows := rfl
@[simp] theorem setGang_merges (i : Nat) (g : Gang) : (s.setGang i g).merges = s.merges := rfl
@[simp] theorem setGang_insts (i : Nat) (g : Gang) : (s.setGang i g).insts = s.insts := rfl
@[simp] theorem setGang_gidCount (i : Nat) (g : Gang) : (s.setGang i g).gidCount = s.gidCount := rfl
@[simp] theorem setGang_heldWrites (i : Nat) (g : Gang) : (s.setGang i g).heldWrites = s.heldWrites := rfl
@[simp] theorem setGang_casts (i : Nat) (g : Gang) : (s.setGang i g).casts = s.casts := rfl
@[simp] theorem setGang_sent (i : Nat) (g : Gang) : (s.setGang i g).sent = s.sent := rfl
@[simp] theorem setGang_rxSeq (i : Nat) (g : Gang) : (s.setGang i g).rxSeq = s.rxSeq := rfl
@[simp] theorem setGang_cands (i : Nat) (g : Gang) : (s.setGang i g).cands = s.cands := rfl
@[simp] theorem setGang_nextId (i : Nat) (g : Gang) : (s.setGang i g).nextId = s.nextId := rfl
@[simp] theorem setGang_graphs (i : Nat) (g : Gang) : (s.setGang i g).graphs = s.graphs := rfl
@[simp] theorem setGang_pennants (i : Nat) (g : Gang) : (s.setGang i g).pennants = s.pennants := rfl
@[simp] theorem setGang_saved (i : Nat) (g : Gang) : (s.setGang i g).saved = s.saved := rfl
@[simp] theorem setGang_failed (i : Nat) (g : Gang) : (s.setGang i g).failed = s.failed := rfl
@[simp] theorem setGang_deferred (i : Nat) (g : Gang) : (s.setGang i g).deferred = s.deferred := rfl
@[simp] theorem setGang_decided (i : Nat) (g : Gang) : (s.setGang i g).decided = s.decided := rfl
@[simp] theorem setGang_restarts (i : Nat) (g : Gang) : (s.setGang i g).restarts = s.restarts := rfl
@[simp] theorem setGang_resumeQs (i : Nat) (g : Gang) : (s.setGang i g).resumeQs = s.resumeQs := rfl
@[simp] theorem setGang_fnum (i : Nat) (g : Gang) : (s.setGang i g).fnum = s.fnum := rfl
@[simp] theorem setGang_apbase (i : Nat) (g : Gang) : (s.setGang i g).apbase = s.apbase := rfl
@[simp] theorem setGang_qtab (i : Nat) (g : Gang) : (s.setGang i g).qtab = s.qtab := rfl
@[simp] theorem setGang_grptab (i : Nat) (g : Gang) : (s.setGang i g).grptab = s.grptab := rfl
@[simp] theorem setGang_hstat (i : Nat) (g : Gang) : (s.setGang i g).hstat = s.hstat := rfl
@[simp] theorem setGang_pwrlim (i : Nat) (g : Gang) : (s.setGang i g).pwrlim = s.pwrlim := rfl
@[simp] theorem setGang_wdog (i : Nat) (g : Gang) : (s.setGang i g).wdog = s.wdog := rfl
@[simp] theorem setGang_calper (i : Nat) (g : Gang) : (s.setGang i g).calper = s.calper := rfl
@[simp] theorem setGang_calAt (i : Nat) (g : Gang) : (s.setGang i g).calAt = s.calAt := rfl
@[simp] theorem setGang_trip (i : Nat) (g : Gang) : (s.setGang i g).trip = s.trip := rfl
@[simp] theorem setGang_tmax (i : Nat) (g : Gang) : (s.setGang i g).tmax = s.tmax := rfl
@[simp] theorem setGang_ttrip (i : Nat) (g : Gang) : (s.setGang i g).ttrip = s.ttrip := rfl
@[simp] theorem setGang_geo (i : Nat) (g : Gang) : (s.setGang i g).geo = s.geo := rfl
@[simp] theorem setGang_slotA (i : Nat) (g : Gang) : (s.setGang i g).slotA = s.slotA := rfl
@[simp] theorem setGang_slotB (i : Nat) (g : Gang) : (s.setGang i g).slotB = s.slotB := rfl
@[simp] theorem setGang_image (i : Nat) (g : Gang) : (s.setGang i g).image = s.image := rfl
@[simp] theorem setGang_staged (i : Nat) (g : Gang) : (s.setGang i g).staged = s.staged := rfl
@[simp] theorem setGang_stopped (i : Nat) (g : Gang) : (s.setGang i g).stopped = s.stopped := rfl
@[simp] theorem setGang_answers (i : Nat) (g : Gang) : (s.setGang i g).answers = s.answers := rfl
@[simp] theorem setGang_inputs (i : Nat) (g : Gang) : (s.setGang i g).inputs = s.inputs := rfl
@[simp] theorem setGang_boot (i : Nat) (g : Gang) : (s.setGang i g).boot = s.boot := rfl
@[simp] theorem setGang_power (i : Nat) (g : Gang) : (s.setGang i g).power = s.power := rfl
@[simp] theorem setGang_taken (i : Nat) (g : Gang) : (s.setGang i g).taken = s.taken := rfl
@[simp] theorem setGang_msix (i : Nat) (g : Gang) : (s.setGang i g).msix = s.msix := rfl
@[simp] theorem setGang_pendingIrqs (i : Nat) (g : Gang) : (s.setGang i g).pendingIrqs = s.pendingIrqs := rfl
@[simp] theorem setGang_linkUp (i : Nat) (g : Gang) : (s.setGang i g).linkUp = s.linkUp := rfl
@[simp] theorem setGang_suspects (i : Nat) (g : Gang) : (s.setGang i g).suspects = s.suspects := rfl
@[simp] theorem setGang_tilesOut (i : Nat) (g : Gang) : (s.setGang i g).tilesOut = s.tilesOut := rfl
@[simp] theorem setGang_through (i : Nat) (g : Gang) : (s.setGang i g).through = s.through := rfl
@[simp] theorem setGang_asker (i : Nat) (g : Gang) : (s.setGang i g).asker = s.asker := rfl
@[simp] theorem setGang_txSeq (i : Nat) (g : Gang) : (s.setGang i g).txSeq = s.txSeq := rfl
@[simp] theorem setGang_unacked (i : Nat) (g : Gang) : (s.setGang i g).unacked = s.unacked := rfl
@[simp] theorem setGang_txWait (i : Nat) (g : Gang) : (s.setGang i g).txWait = s.txWait := rfl
@[simp] theorem setGang_credits (i : Nat) (g : Gang) : (s.setGang i g).credits = s.credits := rfl
@[simp] theorem setGang_owed (i : Nat) (g : Gang) : (s.setGang i g).owed = s.owed := rfl
@[simp] theorem setGang_rxWait (i : Nat) (g : Gang) : (s.setGang i g).rxWait = s.rxWait := rfl
@[simp] theorem setGang_rxNext (i : Nat) (g : Gang) : (s.setGang i g).rxNext = s.rxNext := rfl
@[simp] theorem setGang_skipped (i : Nat) (g : Gang) : (s.setGang i g).skipped = s.skipped := rfl
@[simp] theorem setGang_bells (i : Nat) (g : Gang) : (s.setGang i g).bells = s.bells := rfl
@[simp] theorem setGang_awayQs (i : Nat) (g : Gang) : (s.setGang i g).awayQs = s.awayQs := rfl
@[simp] theorem setGang_strays (i : Nat) (g : Gang) : (s.setGang i g).strays = s.strays := rfl
@[simp] theorem setGang_seen (i : Nat) (g : Gang) : (s.setGang i g).seen = s.seen := rfl
@[simp] theorem setGang_returned (i : Nat) (g : Gang) : (s.setGang i g).returned = s.returned := rfl
@[simp] theorem setGang_dues (i : Nat) (g : Gang) : (s.setGang i g).dues = s.dues := rfl
@[simp] theorem setGang_die (i : Nat) (g : Gang) : (s.setGang i g).die = s.die := rfl
@[simp] theorem setGang_asking (i : Nat) (g : Gang) : (s.setGang i g).asking = s.asking := rfl

/-! ### modGang -/

@[simp] theorem modGang_beat (i : Nat) (f : Gang → Gang) : (s.modGang i f).beat = s.beat := rfl
@[simp] theorem modGang_fresh (i : Nat) (f : Gang → Gang) : (s.modGang i f).fresh = s.fresh := rfl
@[simp] theorem modGang_ctxs (i : Nat) (f : Gang → Gang) : (s.modGang i f).ctxs = s.ctxs := rfl
@[simp] theorem modGang_mem (i : Nat) (f : Gang → Gang) : (s.modGang i f).mem = s.mem := rfl
@[simp] theorem modGang_marks (i : Nat) (f : Gang → Gang) : (s.modGang i f).marks = s.marks := rfl
@[simp] theorem modGang_frames (i : Nat) (f : Gang → Gang) : (s.modGang i f).frames = s.frames := rfl
@[simp] theorem modGang_geom (i : Nat) (f : Gang → Gang) : (s.modGang i f).geom = s.geom := rfl
@[simp] theorem modGang_prior (i : Nat) (f : Gang → Gang) : (s.modGang i f).prior = s.prior := rfl
@[simp] theorem modGang_asidDir (i : Nat) (f : Gang → Gang) : (s.modGang i f).asidDir = s.asidDir := rfl
@[simp] theorem modGang_cur (i : Nat) (f : Gang → Gang) : (s.modGang i f).cur = s.cur := rfl
@[simp] theorem modGang_undo (i : Nat) (f : Gang → Gang) : (s.modGang i f).undo = s.undo := rfl
@[simp] theorem modGang_log (i : Nat) (f : Gang → Gang) : (s.modGang i f).log = s.log := rfl
@[simp] theorem modGang_seqs (i : Nat) (f : Gang → Gang) : (s.modGang i f).seqs = s.seqs := rfl
@[simp] theorem modGang_ev (i : Nat) (f : Gang → Gang) : (s.modGang i f).ev = s.ev := rfl
@[simp] theorem modGang_hostwin (i : Nat) (f : Gang → Gang) : (s.modGang i f).hostwin = s.hostwin := rfl
@[simp] theorem modGang_fdtab (i : Nat) (f : Gang → Gang) : (s.modGang i f).fdtab = s.fdtab := rfl
@[simp] theorem modGang_irqs (i : Nat) (f : Gang → Gang) : (s.modGang i f).irqs = s.irqs := rfl
@[simp] theorem modGang_pairs (i : Nat) (f : Gang → Gang) : (s.modGang i f).pairs = s.pairs := rfl
@[simp] theorem modGang_tlb (i : Nat) (f : Gang → Gang) : (s.modGang i f).tlb = s.tlb := rfl
@[simp] theorem modGang_moves (i : Nat) (f : Gang → Gang) : (s.modGang i f).moves = s.moves := rfl
@[simp] theorem modGang_forwards (i : Nat) (f : Gang → Gang) : (s.modGang i f).forwards = s.forwards := rfl
@[simp] theorem modGang_pageReqs (i : Nat) (f : Gang → Gang) : (s.modGang i f).pageReqs = s.pageReqs := rfl
@[simp] theorem modGang_windows (i : Nat) (f : Gang → Gang) : (s.modGang i f).windows = s.windows := rfl
@[simp] theorem modGang_merges (i : Nat) (f : Gang → Gang) : (s.modGang i f).merges = s.merges := rfl
@[simp] theorem modGang_insts (i : Nat) (f : Gang → Gang) : (s.modGang i f).insts = s.insts := rfl
@[simp] theorem modGang_gidCount (i : Nat) (f : Gang → Gang) : (s.modGang i f).gidCount = s.gidCount := rfl
@[simp] theorem modGang_heldWrites (i : Nat) (f : Gang → Gang) : (s.modGang i f).heldWrites = s.heldWrites := rfl
@[simp] theorem modGang_casts (i : Nat) (f : Gang → Gang) : (s.modGang i f).casts = s.casts := rfl
@[simp] theorem modGang_sent (i : Nat) (f : Gang → Gang) : (s.modGang i f).sent = s.sent := rfl
@[simp] theorem modGang_rxSeq (i : Nat) (f : Gang → Gang) : (s.modGang i f).rxSeq = s.rxSeq := rfl
@[simp] theorem modGang_cands (i : Nat) (f : Gang → Gang) : (s.modGang i f).cands = s.cands := rfl
@[simp] theorem modGang_nextId (i : Nat) (f : Gang → Gang) : (s.modGang i f).nextId = s.nextId := rfl
@[simp] theorem modGang_graphs (i : Nat) (f : Gang → Gang) : (s.modGang i f).graphs = s.graphs := rfl
@[simp] theorem modGang_pennants (i : Nat) (f : Gang → Gang) : (s.modGang i f).pennants = s.pennants := rfl
@[simp] theorem modGang_saved (i : Nat) (f : Gang → Gang) : (s.modGang i f).saved = s.saved := rfl
@[simp] theorem modGang_failed (i : Nat) (f : Gang → Gang) : (s.modGang i f).failed = s.failed := rfl
@[simp] theorem modGang_deferred (i : Nat) (f : Gang → Gang) : (s.modGang i f).deferred = s.deferred := rfl
@[simp] theorem modGang_decided (i : Nat) (f : Gang → Gang) : (s.modGang i f).decided = s.decided := rfl
@[simp] theorem modGang_restarts (i : Nat) (f : Gang → Gang) : (s.modGang i f).restarts = s.restarts := rfl
@[simp] theorem modGang_resumeQs (i : Nat) (f : Gang → Gang) : (s.modGang i f).resumeQs = s.resumeQs := rfl
@[simp] theorem modGang_fnum (i : Nat) (f : Gang → Gang) : (s.modGang i f).fnum = s.fnum := rfl
@[simp] theorem modGang_apbase (i : Nat) (f : Gang → Gang) : (s.modGang i f).apbase = s.apbase := rfl
@[simp] theorem modGang_qtab (i : Nat) (f : Gang → Gang) : (s.modGang i f).qtab = s.qtab := rfl
@[simp] theorem modGang_grptab (i : Nat) (f : Gang → Gang) : (s.modGang i f).grptab = s.grptab := rfl
@[simp] theorem modGang_hstat (i : Nat) (f : Gang → Gang) : (s.modGang i f).hstat = s.hstat := rfl
@[simp] theorem modGang_pwrlim (i : Nat) (f : Gang → Gang) : (s.modGang i f).pwrlim = s.pwrlim := rfl
@[simp] theorem modGang_wdog (i : Nat) (f : Gang → Gang) : (s.modGang i f).wdog = s.wdog := rfl
@[simp] theorem modGang_calper (i : Nat) (f : Gang → Gang) : (s.modGang i f).calper = s.calper := rfl
@[simp] theorem modGang_calAt (i : Nat) (f : Gang → Gang) : (s.modGang i f).calAt = s.calAt := rfl
@[simp] theorem modGang_trip (i : Nat) (f : Gang → Gang) : (s.modGang i f).trip = s.trip := rfl
@[simp] theorem modGang_tmax (i : Nat) (f : Gang → Gang) : (s.modGang i f).tmax = s.tmax := rfl
@[simp] theorem modGang_ttrip (i : Nat) (f : Gang → Gang) : (s.modGang i f).ttrip = s.ttrip := rfl
@[simp] theorem modGang_geo (i : Nat) (f : Gang → Gang) : (s.modGang i f).geo = s.geo := rfl
@[simp] theorem modGang_slotA (i : Nat) (f : Gang → Gang) : (s.modGang i f).slotA = s.slotA := rfl
@[simp] theorem modGang_slotB (i : Nat) (f : Gang → Gang) : (s.modGang i f).slotB = s.slotB := rfl
@[simp] theorem modGang_image (i : Nat) (f : Gang → Gang) : (s.modGang i f).image = s.image := rfl
@[simp] theorem modGang_staged (i : Nat) (f : Gang → Gang) : (s.modGang i f).staged = s.staged := rfl
@[simp] theorem modGang_stopped (i : Nat) (f : Gang → Gang) : (s.modGang i f).stopped = s.stopped := rfl
@[simp] theorem modGang_answers (i : Nat) (f : Gang → Gang) : (s.modGang i f).answers = s.answers := rfl
@[simp] theorem modGang_inputs (i : Nat) (f : Gang → Gang) : (s.modGang i f).inputs = s.inputs := rfl
@[simp] theorem modGang_boot (i : Nat) (f : Gang → Gang) : (s.modGang i f).boot = s.boot := rfl
@[simp] theorem modGang_power (i : Nat) (f : Gang → Gang) : (s.modGang i f).power = s.power := rfl
@[simp] theorem modGang_taken (i : Nat) (f : Gang → Gang) : (s.modGang i f).taken = s.taken := rfl
@[simp] theorem modGang_msix (i : Nat) (f : Gang → Gang) : (s.modGang i f).msix = s.msix := rfl
@[simp] theorem modGang_pendingIrqs (i : Nat) (f : Gang → Gang) : (s.modGang i f).pendingIrqs = s.pendingIrqs := rfl
@[simp] theorem modGang_linkUp (i : Nat) (f : Gang → Gang) : (s.modGang i f).linkUp = s.linkUp := rfl
@[simp] theorem modGang_suspects (i : Nat) (f : Gang → Gang) : (s.modGang i f).suspects = s.suspects := rfl
@[simp] theorem modGang_tilesOut (i : Nat) (f : Gang → Gang) : (s.modGang i f).tilesOut = s.tilesOut := rfl
@[simp] theorem modGang_through (i : Nat) (f : Gang → Gang) : (s.modGang i f).through = s.through := rfl
@[simp] theorem modGang_asker (i : Nat) (f : Gang → Gang) : (s.modGang i f).asker = s.asker := rfl
@[simp] theorem modGang_txSeq (i : Nat) (f : Gang → Gang) : (s.modGang i f).txSeq = s.txSeq := rfl
@[simp] theorem modGang_unacked (i : Nat) (f : Gang → Gang) : (s.modGang i f).unacked = s.unacked := rfl
@[simp] theorem modGang_txWait (i : Nat) (f : Gang → Gang) : (s.modGang i f).txWait = s.txWait := rfl
@[simp] theorem modGang_credits (i : Nat) (f : Gang → Gang) : (s.modGang i f).credits = s.credits := rfl
@[simp] theorem modGang_owed (i : Nat) (f : Gang → Gang) : (s.modGang i f).owed = s.owed := rfl
@[simp] theorem modGang_rxWait (i : Nat) (f : Gang → Gang) : (s.modGang i f).rxWait = s.rxWait := rfl
@[simp] theorem modGang_rxNext (i : Nat) (f : Gang → Gang) : (s.modGang i f).rxNext = s.rxNext := rfl
@[simp] theorem modGang_skipped (i : Nat) (f : Gang → Gang) : (s.modGang i f).skipped = s.skipped := rfl
@[simp] theorem modGang_bells (i : Nat) (f : Gang → Gang) : (s.modGang i f).bells = s.bells := rfl
@[simp] theorem modGang_awayQs (i : Nat) (f : Gang → Gang) : (s.modGang i f).awayQs = s.awayQs := rfl
@[simp] theorem modGang_strays (i : Nat) (f : Gang → Gang) : (s.modGang i f).strays = s.strays := rfl
@[simp] theorem modGang_seen (i : Nat) (f : Gang → Gang) : (s.modGang i f).seen = s.seen := rfl
@[simp] theorem modGang_returned (i : Nat) (f : Gang → Gang) : (s.modGang i f).returned = s.returned := rfl
@[simp] theorem modGang_dues (i : Nat) (f : Gang → Gang) : (s.modGang i f).dues = s.dues := rfl
@[simp] theorem modGang_die (i : Nat) (f : Gang → Gang) : (s.modGang i f).die = s.die := rfl
@[simp] theorem modGang_asking (i : Nat) (f : Gang → Gang) : (s.modGang i f).asking = s.asking := rfl

/-! ### setPair -/

@[simp] theorem setPair_beat (i : Nat) (p : Pair) : (s.setPair i p).beat = s.beat := rfl
@[simp] theorem setPair_fresh (i : Nat) (p : Pair) : (s.setPair i p).fresh = s.fresh := rfl
@[simp] theorem setPair_ctxs (i : Nat) (p : Pair) : (s.setPair i p).ctxs = s.ctxs := rfl
@[simp] theorem setPair_gangs (i : Nat) (p : Pair) : (s.setPair i p).gangs = s.gangs := rfl
@[simp] theorem setPair_mem (i : Nat) (p : Pair) : (s.setPair i p).mem = s.mem := rfl
@[simp] theorem setPair_marks (i : Nat) (p : Pair) : (s.setPair i p).marks = s.marks := rfl
@[simp] theorem setPair_frames (i : Nat) (p : Pair) : (s.setPair i p).frames = s.frames := rfl
@[simp] theorem setPair_geom (i : Nat) (p : Pair) : (s.setPair i p).geom = s.geom := rfl
@[simp] theorem setPair_prior (i : Nat) (p : Pair) : (s.setPair i p).prior = s.prior := rfl
@[simp] theorem setPair_asidDir (i : Nat) (p : Pair) : (s.setPair i p).asidDir = s.asidDir := rfl
@[simp] theorem setPair_cur (i : Nat) (p : Pair) : (s.setPair i p).cur = s.cur := rfl
@[simp] theorem setPair_undo (i : Nat) (p : Pair) : (s.setPair i p).undo = s.undo := rfl
@[simp] theorem setPair_log (i : Nat) (p : Pair) : (s.setPair i p).log = s.log := rfl
@[simp] theorem setPair_seqs (i : Nat) (p : Pair) : (s.setPair i p).seqs = s.seqs := rfl
@[simp] theorem setPair_ev (i : Nat) (p : Pair) : (s.setPair i p).ev = s.ev := rfl
@[simp] theorem setPair_hostwin (i : Nat) (p : Pair) : (s.setPair i p).hostwin = s.hostwin := rfl
@[simp] theorem setPair_fdtab (i : Nat) (p : Pair) : (s.setPair i p).fdtab = s.fdtab := rfl
@[simp] theorem setPair_irqs (i : Nat) (p : Pair) : (s.setPair i p).irqs = s.irqs := rfl
@[simp] theorem setPair_tlb (i : Nat) (p : Pair) : (s.setPair i p).tlb = s.tlb := rfl
@[simp] theorem setPair_moves (i : Nat) (p : Pair) : (s.setPair i p).moves = s.moves := rfl
@[simp] theorem setPair_forwards (i : Nat) (p : Pair) : (s.setPair i p).forwards = s.forwards := rfl
@[simp] theorem setPair_pageReqs (i : Nat) (p : Pair) : (s.setPair i p).pageReqs = s.pageReqs := rfl
@[simp] theorem setPair_windows (i : Nat) (p : Pair) : (s.setPair i p).windows = s.windows := rfl
@[simp] theorem setPair_merges (i : Nat) (p : Pair) : (s.setPair i p).merges = s.merges := rfl
@[simp] theorem setPair_insts (i : Nat) (p : Pair) : (s.setPair i p).insts = s.insts := rfl
@[simp] theorem setPair_gidCount (i : Nat) (p : Pair) : (s.setPair i p).gidCount = s.gidCount := rfl
@[simp] theorem setPair_heldWrites (i : Nat) (p : Pair) : (s.setPair i p).heldWrites = s.heldWrites := rfl
@[simp] theorem setPair_casts (i : Nat) (p : Pair) : (s.setPair i p).casts = s.casts := rfl
@[simp] theorem setPair_sent (i : Nat) (p : Pair) : (s.setPair i p).sent = s.sent := rfl
@[simp] theorem setPair_rxSeq (i : Nat) (p : Pair) : (s.setPair i p).rxSeq = s.rxSeq := rfl
@[simp] theorem setPair_cands (i : Nat) (p : Pair) : (s.setPair i p).cands = s.cands := rfl
@[simp] theorem setPair_nextId (i : Nat) (p : Pair) : (s.setPair i p).nextId = s.nextId := rfl
@[simp] theorem setPair_graphs (i : Nat) (p : Pair) : (s.setPair i p).graphs = s.graphs := rfl
@[simp] theorem setPair_pennants (i : Nat) (p : Pair) : (s.setPair i p).pennants = s.pennants := rfl
@[simp] theorem setPair_saved (i : Nat) (p : Pair) : (s.setPair i p).saved = s.saved := rfl
@[simp] theorem setPair_failed (i : Nat) (p : Pair) : (s.setPair i p).failed = s.failed := rfl
@[simp] theorem setPair_deferred (i : Nat) (p : Pair) : (s.setPair i p).deferred = s.deferred := rfl
@[simp] theorem setPair_decided (i : Nat) (p : Pair) : (s.setPair i p).decided = s.decided := rfl
@[simp] theorem setPair_restarts (i : Nat) (p : Pair) : (s.setPair i p).restarts = s.restarts := rfl
@[simp] theorem setPair_resumeQs (i : Nat) (p : Pair) : (s.setPair i p).resumeQs = s.resumeQs := rfl
@[simp] theorem setPair_fnum (i : Nat) (p : Pair) : (s.setPair i p).fnum = s.fnum := rfl
@[simp] theorem setPair_apbase (i : Nat) (p : Pair) : (s.setPair i p).apbase = s.apbase := rfl
@[simp] theorem setPair_qtab (i : Nat) (p : Pair) : (s.setPair i p).qtab = s.qtab := rfl
@[simp] theorem setPair_grptab (i : Nat) (p : Pair) : (s.setPair i p).grptab = s.grptab := rfl
@[simp] theorem setPair_hstat (i : Nat) (p : Pair) : (s.setPair i p).hstat = s.hstat := rfl
@[simp] theorem setPair_pwrlim (i : Nat) (p : Pair) : (s.setPair i p).pwrlim = s.pwrlim := rfl
@[simp] theorem setPair_wdog (i : Nat) (p : Pair) : (s.setPair i p).wdog = s.wdog := rfl
@[simp] theorem setPair_calper (i : Nat) (p : Pair) : (s.setPair i p).calper = s.calper := rfl
@[simp] theorem setPair_calAt (i : Nat) (p : Pair) : (s.setPair i p).calAt = s.calAt := rfl
@[simp] theorem setPair_trip (i : Nat) (p : Pair) : (s.setPair i p).trip = s.trip := rfl
@[simp] theorem setPair_tmax (i : Nat) (p : Pair) : (s.setPair i p).tmax = s.tmax := rfl
@[simp] theorem setPair_ttrip (i : Nat) (p : Pair) : (s.setPair i p).ttrip = s.ttrip := rfl
@[simp] theorem setPair_geo (i : Nat) (p : Pair) : (s.setPair i p).geo = s.geo := rfl
@[simp] theorem setPair_slotA (i : Nat) (p : Pair) : (s.setPair i p).slotA = s.slotA := rfl
@[simp] theorem setPair_slotB (i : Nat) (p : Pair) : (s.setPair i p).slotB = s.slotB := rfl
@[simp] theorem setPair_image (i : Nat) (p : Pair) : (s.setPair i p).image = s.image := rfl
@[simp] theorem setPair_staged (i : Nat) (p : Pair) : (s.setPair i p).staged = s.staged := rfl
@[simp] theorem setPair_stopped (i : Nat) (p : Pair) : (s.setPair i p).stopped = s.stopped := rfl
@[simp] theorem setPair_answers (i : Nat) (p : Pair) : (s.setPair i p).answers = s.answers := rfl
@[simp] theorem setPair_inputs (i : Nat) (p : Pair) : (s.setPair i p).inputs = s.inputs := rfl
@[simp] theorem setPair_boot (i : Nat) (p : Pair) : (s.setPair i p).boot = s.boot := rfl
@[simp] theorem setPair_power (i : Nat) (p : Pair) : (s.setPair i p).power = s.power := rfl
@[simp] theorem setPair_seen (i : Nat) (p : Pair) : (s.setPair i p).seen = s.seen := rfl
@[simp] theorem setPair_taken (i : Nat) (p : Pair) : (s.setPair i p).taken = s.taken := rfl
@[simp] theorem setPair_msix (i : Nat) (p : Pair) : (s.setPair i p).msix = s.msix := rfl
@[simp] theorem setPair_pendingIrqs (i : Nat) (p : Pair) : (s.setPair i p).pendingIrqs = s.pendingIrqs := rfl
@[simp] theorem setPair_linkUp (i : Nat) (p : Pair) : (s.setPair i p).linkUp = s.linkUp := rfl
@[simp] theorem setPair_suspects (i : Nat) (p : Pair) : (s.setPair i p).suspects = s.suspects := rfl
@[simp] theorem setPair_tilesOut (i : Nat) (p : Pair) : (s.setPair i p).tilesOut = s.tilesOut := rfl
@[simp] theorem setPair_through (i : Nat) (p : Pair) : (s.setPair i p).through = s.through := rfl
@[simp] theorem setPair_asker (i : Nat) (p : Pair) : (s.setPair i p).asker = s.asker := rfl
@[simp] theorem setPair_txSeq (i : Nat) (p : Pair) : (s.setPair i p).txSeq = s.txSeq := rfl
@[simp] theorem setPair_unacked (i : Nat) (p : Pair) : (s.setPair i p).unacked = s.unacked := rfl
@[simp] theorem setPair_txWait (i : Nat) (p : Pair) : (s.setPair i p).txWait = s.txWait := rfl
@[simp] theorem setPair_credits (i : Nat) (p : Pair) : (s.setPair i p).credits = s.credits := rfl
@[simp] theorem setPair_owed (i : Nat) (p : Pair) : (s.setPair i p).owed = s.owed := rfl
@[simp] theorem setPair_returned (i : Nat) (p : Pair) : (s.setPair i p).returned = s.returned := rfl
@[simp] theorem setPair_rxWait (i : Nat) (p : Pair) : (s.setPair i p).rxWait = s.rxWait := rfl
@[simp] theorem setPair_rxNext (i : Nat) (p : Pair) : (s.setPair i p).rxNext = s.rxNext := rfl
@[simp] theorem setPair_skipped (i : Nat) (p : Pair) : (s.setPair i p).skipped = s.skipped := rfl
@[simp] theorem setPair_dues (i : Nat) (p : Pair) : (s.setPair i p).dues = s.dues := rfl
@[simp] theorem setPair_bells (i : Nat) (p : Pair) : (s.setPair i p).bells = s.bells := rfl
@[simp] theorem setPair_awayQs (i : Nat) (p : Pair) : (s.setPair i p).awayQs = s.awayQs := rfl
@[simp] theorem setPair_strays (i : Nat) (p : Pair) : (s.setPair i p).strays = s.strays := rfl
@[simp] theorem setPair_die (i : Nat) (p : Pair) : (s.setPair i p).die = s.die := rfl
@[simp] theorem setPair_asking (i : Nat) (p : Pair) : (s.setPair i p).asking = s.asking := rfl

/-! ### modPair -/

@[simp] theorem modPair_beat (i : Nat) (f : Pair → Pair) : (s.modPair i f).beat = s.beat := rfl
@[simp] theorem modPair_fresh (i : Nat) (f : Pair → Pair) : (s.modPair i f).fresh = s.fresh := rfl
@[simp] theorem modPair_ctxs (i : Nat) (f : Pair → Pair) : (s.modPair i f).ctxs = s.ctxs := rfl
@[simp] theorem modPair_gangs (i : Nat) (f : Pair → Pair) : (s.modPair i f).gangs = s.gangs := rfl
@[simp] theorem modPair_mem (i : Nat) (f : Pair → Pair) : (s.modPair i f).mem = s.mem := rfl
@[simp] theorem modPair_marks (i : Nat) (f : Pair → Pair) : (s.modPair i f).marks = s.marks := rfl
@[simp] theorem modPair_frames (i : Nat) (f : Pair → Pair) : (s.modPair i f).frames = s.frames := rfl
@[simp] theorem modPair_geom (i : Nat) (f : Pair → Pair) : (s.modPair i f).geom = s.geom := rfl
@[simp] theorem modPair_prior (i : Nat) (f : Pair → Pair) : (s.modPair i f).prior = s.prior := rfl
@[simp] theorem modPair_asidDir (i : Nat) (f : Pair → Pair) : (s.modPair i f).asidDir = s.asidDir := rfl
@[simp] theorem modPair_cur (i : Nat) (f : Pair → Pair) : (s.modPair i f).cur = s.cur := rfl
@[simp] theorem modPair_undo (i : Nat) (f : Pair → Pair) : (s.modPair i f).undo = s.undo := rfl
@[simp] theorem modPair_log (i : Nat) (f : Pair → Pair) : (s.modPair i f).log = s.log := rfl
@[simp] theorem modPair_seqs (i : Nat) (f : Pair → Pair) : (s.modPair i f).seqs = s.seqs := rfl
@[simp] theorem modPair_ev (i : Nat) (f : Pair → Pair) : (s.modPair i f).ev = s.ev := rfl
@[simp] theorem modPair_hostwin (i : Nat) (f : Pair → Pair) : (s.modPair i f).hostwin = s.hostwin := rfl
@[simp] theorem modPair_fdtab (i : Nat) (f : Pair → Pair) : (s.modPair i f).fdtab = s.fdtab := rfl
@[simp] theorem modPair_irqs (i : Nat) (f : Pair → Pair) : (s.modPair i f).irqs = s.irqs := rfl
@[simp] theorem modPair_tlb (i : Nat) (f : Pair → Pair) : (s.modPair i f).tlb = s.tlb := rfl
@[simp] theorem modPair_moves (i : Nat) (f : Pair → Pair) : (s.modPair i f).moves = s.moves := rfl
@[simp] theorem modPair_forwards (i : Nat) (f : Pair → Pair) : (s.modPair i f).forwards = s.forwards := rfl
@[simp] theorem modPair_pageReqs (i : Nat) (f : Pair → Pair) : (s.modPair i f).pageReqs = s.pageReqs := rfl
@[simp] theorem modPair_windows (i : Nat) (f : Pair → Pair) : (s.modPair i f).windows = s.windows := rfl
@[simp] theorem modPair_merges (i : Nat) (f : Pair → Pair) : (s.modPair i f).merges = s.merges := rfl
@[simp] theorem modPair_insts (i : Nat) (f : Pair → Pair) : (s.modPair i f).insts = s.insts := rfl
@[simp] theorem modPair_gidCount (i : Nat) (f : Pair → Pair) : (s.modPair i f).gidCount = s.gidCount := rfl
@[simp] theorem modPair_heldWrites (i : Nat) (f : Pair → Pair) : (s.modPair i f).heldWrites = s.heldWrites := rfl
@[simp] theorem modPair_casts (i : Nat) (f : Pair → Pair) : (s.modPair i f).casts = s.casts := rfl
@[simp] theorem modPair_sent (i : Nat) (f : Pair → Pair) : (s.modPair i f).sent = s.sent := rfl
@[simp] theorem modPair_rxSeq (i : Nat) (f : Pair → Pair) : (s.modPair i f).rxSeq = s.rxSeq := rfl
@[simp] theorem modPair_cands (i : Nat) (f : Pair → Pair) : (s.modPair i f).cands = s.cands := rfl
@[simp] theorem modPair_nextId (i : Nat) (f : Pair → Pair) : (s.modPair i f).nextId = s.nextId := rfl
@[simp] theorem modPair_graphs (i : Nat) (f : Pair → Pair) : (s.modPair i f).graphs = s.graphs := rfl
@[simp] theorem modPair_pennants (i : Nat) (f : Pair → Pair) : (s.modPair i f).pennants = s.pennants := rfl
@[simp] theorem modPair_saved (i : Nat) (f : Pair → Pair) : (s.modPair i f).saved = s.saved := rfl
@[simp] theorem modPair_failed (i : Nat) (f : Pair → Pair) : (s.modPair i f).failed = s.failed := rfl
@[simp] theorem modPair_deferred (i : Nat) (f : Pair → Pair) : (s.modPair i f).deferred = s.deferred := rfl
@[simp] theorem modPair_decided (i : Nat) (f : Pair → Pair) : (s.modPair i f).decided = s.decided := rfl
@[simp] theorem modPair_restarts (i : Nat) (f : Pair → Pair) : (s.modPair i f).restarts = s.restarts := rfl
@[simp] theorem modPair_resumeQs (i : Nat) (f : Pair → Pair) : (s.modPair i f).resumeQs = s.resumeQs := rfl
@[simp] theorem modPair_fnum (i : Nat) (f : Pair → Pair) : (s.modPair i f).fnum = s.fnum := rfl
@[simp] theorem modPair_apbase (i : Nat) (f : Pair → Pair) : (s.modPair i f).apbase = s.apbase := rfl
@[simp] theorem modPair_qtab (i : Nat) (f : Pair → Pair) : (s.modPair i f).qtab = s.qtab := rfl
@[simp] theorem modPair_grptab (i : Nat) (f : Pair → Pair) : (s.modPair i f).grptab = s.grptab := rfl
@[simp] theorem modPair_hstat (i : Nat) (f : Pair → Pair) : (s.modPair i f).hstat = s.hstat := rfl
@[simp] theorem modPair_pwrlim (i : Nat) (f : Pair → Pair) : (s.modPair i f).pwrlim = s.pwrlim := rfl
@[simp] theorem modPair_wdog (i : Nat) (f : Pair → Pair) : (s.modPair i f).wdog = s.wdog := rfl
@[simp] theorem modPair_calper (i : Nat) (f : Pair → Pair) : (s.modPair i f).calper = s.calper := rfl
@[simp] theorem modPair_calAt (i : Nat) (f : Pair → Pair) : (s.modPair i f).calAt = s.calAt := rfl
@[simp] theorem modPair_trip (i : Nat) (f : Pair → Pair) : (s.modPair i f).trip = s.trip := rfl
@[simp] theorem modPair_tmax (i : Nat) (f : Pair → Pair) : (s.modPair i f).tmax = s.tmax := rfl
@[simp] theorem modPair_ttrip (i : Nat) (f : Pair → Pair) : (s.modPair i f).ttrip = s.ttrip := rfl
@[simp] theorem modPair_geo (i : Nat) (f : Pair → Pair) : (s.modPair i f).geo = s.geo := rfl
@[simp] theorem modPair_slotA (i : Nat) (f : Pair → Pair) : (s.modPair i f).slotA = s.slotA := rfl
@[simp] theorem modPair_slotB (i : Nat) (f : Pair → Pair) : (s.modPair i f).slotB = s.slotB := rfl
@[simp] theorem modPair_image (i : Nat) (f : Pair → Pair) : (s.modPair i f).image = s.image := rfl
@[simp] theorem modPair_staged (i : Nat) (f : Pair → Pair) : (s.modPair i f).staged = s.staged := rfl
@[simp] theorem modPair_stopped (i : Nat) (f : Pair → Pair) : (s.modPair i f).stopped = s.stopped := rfl
@[simp] theorem modPair_answers (i : Nat) (f : Pair → Pair) : (s.modPair i f).answers = s.answers := rfl
@[simp] theorem modPair_inputs (i : Nat) (f : Pair → Pair) : (s.modPair i f).inputs = s.inputs := rfl
@[simp] theorem modPair_boot (i : Nat) (f : Pair → Pair) : (s.modPair i f).boot = s.boot := rfl
@[simp] theorem modPair_power (i : Nat) (f : Pair → Pair) : (s.modPair i f).power = s.power := rfl
@[simp] theorem modPair_seen (i : Nat) (f : Pair → Pair) : (s.modPair i f).seen = s.seen := rfl
@[simp] theorem modPair_taken (i : Nat) (f : Pair → Pair) : (s.modPair i f).taken = s.taken := rfl
@[simp] theorem modPair_msix (i : Nat) (f : Pair → Pair) : (s.modPair i f).msix = s.msix := rfl
@[simp] theorem modPair_pendingIrqs (i : Nat) (f : Pair → Pair) : (s.modPair i f).pendingIrqs = s.pendingIrqs := rfl
@[simp] theorem modPair_linkUp (i : Nat) (f : Pair → Pair) : (s.modPair i f).linkUp = s.linkUp := rfl
@[simp] theorem modPair_suspects (i : Nat) (f : Pair → Pair) : (s.modPair i f).suspects = s.suspects := rfl
@[simp] theorem modPair_tilesOut (i : Nat) (f : Pair → Pair) : (s.modPair i f).tilesOut = s.tilesOut := rfl
@[simp] theorem modPair_through (i : Nat) (f : Pair → Pair) : (s.modPair i f).through = s.through := rfl
@[simp] theorem modPair_asker (i : Nat) (f : Pair → Pair) : (s.modPair i f).asker = s.asker := rfl
@[simp] theorem modPair_txSeq (i : Nat) (f : Pair → Pair) : (s.modPair i f).txSeq = s.txSeq := rfl
@[simp] theorem modPair_unacked (i : Nat) (f : Pair → Pair) : (s.modPair i f).unacked = s.unacked := rfl
@[simp] theorem modPair_txWait (i : Nat) (f : Pair → Pair) : (s.modPair i f).txWait = s.txWait := rfl
@[simp] theorem modPair_credits (i : Nat) (f : Pair → Pair) : (s.modPair i f).credits = s.credits := rfl
@[simp] theorem modPair_owed (i : Nat) (f : Pair → Pair) : (s.modPair i f).owed = s.owed := rfl
@[simp] theorem modPair_returned (i : Nat) (f : Pair → Pair) : (s.modPair i f).returned = s.returned := rfl
@[simp] theorem modPair_rxWait (i : Nat) (f : Pair → Pair) : (s.modPair i f).rxWait = s.rxWait := rfl
@[simp] theorem modPair_rxNext (i : Nat) (f : Pair → Pair) : (s.modPair i f).rxNext = s.rxNext := rfl
@[simp] theorem modPair_skipped (i : Nat) (f : Pair → Pair) : (s.modPair i f).skipped = s.skipped := rfl
@[simp] theorem modPair_dues (i : Nat) (f : Pair → Pair) : (s.modPair i f).dues = s.dues := rfl
@[simp] theorem modPair_bells (i : Nat) (f : Pair → Pair) : (s.modPair i f).bells = s.bells := rfl
@[simp] theorem modPair_awayQs (i : Nat) (f : Pair → Pair) : (s.modPair i f).awayQs = s.awayQs := rfl
@[simp] theorem modPair_strays (i : Nat) (f : Pair → Pair) : (s.modPair i f).strays = s.strays := rfl
@[simp] theorem modPair_die (i : Nat) (f : Pair → Pair) : (s.modPair i f).die = s.die := rfl
@[simp] theorem modPair_asking (i : Nat) (f : Pair → Pair) : (s.modPair i f).asking = s.asking := rfl

/-! ### addItem -/

@[simp] theorem addItem_beat (c : Nat) (it : Item) : (s.addItem c it).beat = s.beat := rfl
@[simp] theorem addItem_fresh (c : Nat) (it : Item) : (s.addItem c it).fresh = s.fresh := rfl
@[simp] theorem addItem_gangs (c : Nat) (it : Item) : (s.addItem c it).gangs = s.gangs := rfl
@[simp] theorem addItem_mem (c : Nat) (it : Item) : (s.addItem c it).mem = s.mem := rfl
@[simp] theorem addItem_marks (c : Nat) (it : Item) : (s.addItem c it).marks = s.marks := rfl
@[simp] theorem addItem_frames (c : Nat) (it : Item) : (s.addItem c it).frames = s.frames := rfl
@[simp] theorem addItem_geom (c : Nat) (it : Item) : (s.addItem c it).geom = s.geom := rfl
@[simp] theorem addItem_prior (c : Nat) (it : Item) : (s.addItem c it).prior = s.prior := rfl
@[simp] theorem addItem_asidDir (c : Nat) (it : Item) : (s.addItem c it).asidDir = s.asidDir := rfl
@[simp] theorem addItem_cur (c : Nat) (it : Item) : (s.addItem c it).cur = s.cur := rfl
@[simp] theorem addItem_undo (c : Nat) (it : Item) : (s.addItem c it).undo = s.undo := rfl
@[simp] theorem addItem_log (c : Nat) (it : Item) : (s.addItem c it).log = s.log := rfl
@[simp] theorem addItem_seqs (c : Nat) (it : Item) : (s.addItem c it).seqs = s.seqs := rfl
@[simp] theorem addItem_ev (c : Nat) (it : Item) : (s.addItem c it).ev = s.ev := rfl
@[simp] theorem addItem_hostwin (c : Nat) (it : Item) : (s.addItem c it).hostwin = s.hostwin := rfl
@[simp] theorem addItem_fdtab (c : Nat) (it : Item) : (s.addItem c it).fdtab = s.fdtab := rfl
@[simp] theorem addItem_irqs (c : Nat) (it : Item) : (s.addItem c it).irqs = s.irqs := rfl
@[simp] theorem addItem_pairs (c : Nat) (it : Item) : (s.addItem c it).pairs = s.pairs := rfl
@[simp] theorem addItem_tlb (c : Nat) (it : Item) : (s.addItem c it).tlb = s.tlb := rfl
@[simp] theorem addItem_moves (c : Nat) (it : Item) : (s.addItem c it).moves = s.moves := rfl
@[simp] theorem addItem_forwards (c : Nat) (it : Item) : (s.addItem c it).forwards = s.forwards := rfl
@[simp] theorem addItem_pageReqs (c : Nat) (it : Item) : (s.addItem c it).pageReqs = s.pageReqs := rfl
@[simp] theorem addItem_windows (c : Nat) (it : Item) : (s.addItem c it).windows = s.windows := rfl
@[simp] theorem addItem_merges (c : Nat) (it : Item) : (s.addItem c it).merges = s.merges := rfl
@[simp] theorem addItem_insts (c : Nat) (it : Item) : (s.addItem c it).insts = s.insts := rfl
@[simp] theorem addItem_gidCount (c : Nat) (it : Item) : (s.addItem c it).gidCount = s.gidCount := rfl
@[simp] theorem addItem_heldWrites (c : Nat) (it : Item) : (s.addItem c it).heldWrites = s.heldWrites := rfl
@[simp] theorem addItem_casts (c : Nat) (it : Item) : (s.addItem c it).casts = s.casts := rfl
@[simp] theorem addItem_sent (c : Nat) (it : Item) : (s.addItem c it).sent = s.sent := rfl
@[simp] theorem addItem_rxSeq (c : Nat) (it : Item) : (s.addItem c it).rxSeq = s.rxSeq := rfl
@[simp] theorem addItem_cands (c : Nat) (it : Item) : (s.addItem c it).cands = s.cands := rfl
@[simp] theorem addItem_nextId (c : Nat) (it : Item) : (s.addItem c it).nextId = s.nextId := rfl
@[simp] theorem addItem_graphs (c : Nat) (it : Item) : (s.addItem c it).graphs = s.graphs := rfl
@[simp] theorem addItem_pennants (c : Nat) (it : Item) : (s.addItem c it).pennants = s.pennants := rfl
@[simp] theorem addItem_saved (c : Nat) (it : Item) : (s.addItem c it).saved = s.saved := rfl
@[simp] theorem addItem_failed (c : Nat) (it : Item) : (s.addItem c it).failed = s.failed := rfl
@[simp] theorem addItem_deferred (c : Nat) (it : Item) : (s.addItem c it).deferred = s.deferred := rfl
@[simp] theorem addItem_decided (c : Nat) (it : Item) : (s.addItem c it).decided = s.decided := rfl
@[simp] theorem addItem_restarts (c : Nat) (it : Item) : (s.addItem c it).restarts = s.restarts := rfl
@[simp] theorem addItem_resumeQs (c : Nat) (it : Item) : (s.addItem c it).resumeQs = s.resumeQs := rfl
@[simp] theorem addItem_fnum (c : Nat) (it : Item) : (s.addItem c it).fnum = s.fnum := rfl
@[simp] theorem addItem_apbase (c : Nat) (it : Item) : (s.addItem c it).apbase = s.apbase := rfl
@[simp] theorem addItem_qtab (c : Nat) (it : Item) : (s.addItem c it).qtab = s.qtab := rfl
@[simp] theorem addItem_grptab (c : Nat) (it : Item) : (s.addItem c it).grptab = s.grptab := rfl
@[simp] theorem addItem_hstat (c : Nat) (it : Item) : (s.addItem c it).hstat = s.hstat := rfl
@[simp] theorem addItem_pwrlim (c : Nat) (it : Item) : (s.addItem c it).pwrlim = s.pwrlim := rfl
@[simp] theorem addItem_wdog (c : Nat) (it : Item) : (s.addItem c it).wdog = s.wdog := rfl
@[simp] theorem addItem_calper (c : Nat) (it : Item) : (s.addItem c it).calper = s.calper := rfl
@[simp] theorem addItem_calAt (c : Nat) (it : Item) : (s.addItem c it).calAt = s.calAt := rfl
@[simp] theorem addItem_trip (c : Nat) (it : Item) : (s.addItem c it).trip = s.trip := rfl
@[simp] theorem addItem_tmax (c : Nat) (it : Item) : (s.addItem c it).tmax = s.tmax := rfl
@[simp] theorem addItem_ttrip (c : Nat) (it : Item) : (s.addItem c it).ttrip = s.ttrip := rfl
@[simp] theorem addItem_geo (c : Nat) (it : Item) : (s.addItem c it).geo = s.geo := rfl
@[simp] theorem addItem_slotA (c : Nat) (it : Item) : (s.addItem c it).slotA = s.slotA := rfl
@[simp] theorem addItem_slotB (c : Nat) (it : Item) : (s.addItem c it).slotB = s.slotB := rfl
@[simp] theorem addItem_image (c : Nat) (it : Item) : (s.addItem c it).image = s.image := rfl
@[simp] theorem addItem_staged (c : Nat) (it : Item) : (s.addItem c it).staged = s.staged := rfl
@[simp] theorem addItem_stopped (c : Nat) (it : Item) : (s.addItem c it).stopped = s.stopped := rfl
@[simp] theorem addItem_answers (c : Nat) (it : Item) : (s.addItem c it).answers = s.answers := rfl
@[simp] theorem addItem_inputs (c : Nat) (it : Item) : (s.addItem c it).inputs = s.inputs := rfl
@[simp] theorem addItem_boot (c : Nat) (it : Item) : (s.addItem c it).boot = s.boot := rfl
@[simp] theorem addItem_power (c : Nat) (it : Item) : (s.addItem c it).power = s.power := rfl
@[simp] theorem addItem_seen (c : Nat) (it : Item) : (s.addItem c it).seen = s.seen := rfl
@[simp] theorem addItem_taken (c : Nat) (it : Item) : (s.addItem c it).taken = s.taken := rfl
@[simp] theorem addItem_msix (c : Nat) (it : Item) : (s.addItem c it).msix = s.msix := rfl
@[simp] theorem addItem_pendingIrqs (c : Nat) (it : Item) : (s.addItem c it).pendingIrqs = s.pendingIrqs := rfl
@[simp] theorem addItem_linkUp (c : Nat) (it : Item) : (s.addItem c it).linkUp = s.linkUp := rfl
@[simp] theorem addItem_suspects (c : Nat) (it : Item) : (s.addItem c it).suspects = s.suspects := rfl
@[simp] theorem addItem_tilesOut (c : Nat) (it : Item) : (s.addItem c it).tilesOut = s.tilesOut := rfl
@[simp] theorem addItem_through (c : Nat) (it : Item) : (s.addItem c it).through = s.through := rfl
@[simp] theorem addItem_asker (c : Nat) (it : Item) : (s.addItem c it).asker = s.asker := rfl
@[simp] theorem addItem_txSeq (c : Nat) (it : Item) : (s.addItem c it).txSeq = s.txSeq := rfl
@[simp] theorem addItem_unacked (c : Nat) (it : Item) : (s.addItem c it).unacked = s.unacked := rfl
@[simp] theorem addItem_txWait (c : Nat) (it : Item) : (s.addItem c it).txWait = s.txWait := rfl
@[simp] theorem addItem_credits (c : Nat) (it : Item) : (s.addItem c it).credits = s.credits := rfl
@[simp] theorem addItem_owed (c : Nat) (it : Item) : (s.addItem c it).owed = s.owed := rfl
@[simp] theorem addItem_returned (c : Nat) (it : Item) : (s.addItem c it).returned = s.returned := rfl
@[simp] theorem addItem_rxWait (c : Nat) (it : Item) : (s.addItem c it).rxWait = s.rxWait := rfl
@[simp] theorem addItem_rxNext (c : Nat) (it : Item) : (s.addItem c it).rxNext = s.rxNext := rfl
@[simp] theorem addItem_skipped (c : Nat) (it : Item) : (s.addItem c it).skipped = s.skipped := rfl
@[simp] theorem addItem_dues (c : Nat) (it : Item) : (s.addItem c it).dues = s.dues := rfl
@[simp] theorem addItem_bells (c : Nat) (it : Item) : (s.addItem c it).bells = s.bells := rfl
@[simp] theorem addItem_awayQs (c : Nat) (it : Item) : (s.addItem c it).awayQs = s.awayQs := rfl
@[simp] theorem addItem_strays (c : Nat) (it : Item) : (s.addItem c it).strays = s.strays := rfl
@[simp] theorem addItem_die (c : Nat) (it : Item) : (s.addItem c it).die = s.die := rfl
@[simp] theorem addItem_asking (c : Nat) (it : Item) : (s.addItem c it).asking = s.asking := rfl

end Sys2Proof.Machine.State
end

