-- ==== Sys2Proof/Laws/Memory.lean ====
section
/-! SUPPORT. Laws of tables and of memory: reads after writes, and the canonical form. -/

namespace Sys2Proof.Machine

/-! ### Tables -/

@[simp] theorem tget_tset_same {α : Type} (d : α) (t : Table α) (i : Nat) (v : α) : tget d (tset t i v) i = v := by
  induction t with
  | nil => simp [tset, tget]
  | cons x r ih =>
    obtain ⟨j, w⟩ := x
    simp only [tset]
    split
    · simp [tget]
    · split
      · simp [tget]
      · rename_i h1 h2
        simp [tget, h2, ih]

theorem tget_tset_other {α : Type} (d : α) (t : Table α) {i k : Nat} (v : α) (h : k ≠ i) :
    tget d (tset t i v) k = tget d t k := by
  induction t with
  | nil => simp [tset, tget, h]
  | cons x r ih =>
    obtain ⟨j, w⟩ := x
    simp only [tset]
    split
    · simp [tget, h]
    · split
      · rename_i h2
        subst h2
        simp [tget, h]
      · simp only [tget, ih]

theorem tget_tdel_other {α : Type} (d : α) (t : Table α) {i k : Nat} (h : k ≠ i) : tget d (tdel t i) k = tget d t k := by
  induction t with
  | nil => rfl
  | cons x r ih =>
    obtain ⟨j, w⟩ := x
    simp only [tdel]
    split
    · rename_i h2
      subst h2
      simp [tget, h, ih]
    · simp only [tget, ih]

/-! ### Bytes -/

/-- The canonical form says: addresses rise, and no listed byte is 0. -/
theorem wf_iff (m : List Host.Cell) :
    Memory.wf m = true ↔ m.Pairwise (fun x y => x.1 < y.1) ∧ ∀ x ∈ m, x.2 ≠ 0 := by
  induction m with
  | nil => simp [Memory.wf]
  | cons x r ih =>
    obtain ⟨a, w⟩ := x
    cases r with
    | nil => simp [Memory.wf]
    | cons y r =>
      obtain ⟨b, v⟩ := y
      simp only [Memory.wf, Bool.and_eq_true, bne_iff_ne, decide_eq_true_eq, ih, List.pairwise_cons, List.mem_cons,
        forall_eq_or_imp]
      constructor
      · rintro ⟨⟨hw, hab⟩, ⟨hb, hp⟩, hv, hz⟩
        exact ⟨⟨⟨hab, fun z hz' => lt_trans hab (hb z hz')⟩, hb, hp⟩, hw, hv, hz⟩
      · rintro ⟨⟨⟨hab, _⟩, hb, hp⟩, hw, hv, hz⟩
        exact ⟨⟨hw, hab⟩, ⟨hb, hp⟩, hv, hz⟩

theorem mem_mput {m : List Host.Cell} {a : Nat} {v : Byte} {x : Host.Cell} (h : x ∈ mput m a v) :
    x ∈ m ∨ (x = (a, v) ∧ v ≠ 0) := by
  induction m with
  | nil =>
    simp only [mput] at h
    split at h
    · simp at h
    · simp at h; exact .inr ⟨h, by assumption⟩
  | cons y r ih =>
    obtain ⟨j, w⟩ := y
    simp only [mput] at h
    repeat' split at h
    · exact .inl h
    · rcases List.mem_cons.1 h with h | h
      · exact .inr ⟨h, by assumption⟩
      · exact .inl h
    · exact .inl (List.mem_cons_of_mem _ h)
    · rcases List.mem_cons.1 h with h | h
      · exact .inr ⟨h, by assumption⟩
      · exact .inl (List.mem_cons_of_mem _ h)
    · rcases List.mem_cons.1 h with h | h
      · exact .inl (h ▸ List.mem_cons_self)
      · rcases ih h with h | h
        · exact .inl (List.mem_cons_of_mem _ h)
        · exact .inr h

/-- Writing a byte keeps the canonical form. -/
theorem mput_wf {m : List Host.Cell} (h : Memory.wf m = true) (a : Nat) (v : Byte) : Memory.wf (mput m a v) = true := by
  rw [wf_iff] at h ⊢
  refine ⟨?_, fun x hx => ?_⟩
  · obtain ⟨hp, -⟩ := h
    induction m with
    | nil => simp only [mput]; split <;> simp
    | cons y r ih =>
      obtain ⟨j, w⟩ := y
      rw [List.pairwise_cons] at hp
      obtain ⟨hj, hr⟩ := hp
      simp only [mput]
      split
      · rename_i haj
        split
        · exact List.pairwise_cons.2 ⟨hj, hr⟩
        · refine List.pairwise_cons.2 ⟨fun z hz => ?_, List.pairwise_cons.2 ⟨hj, hr⟩⟩
          rcases List.mem_cons.1 hz with rfl | hz
          · exact haj
          · exact lt_trans haj (hj z hz)
      · rename_i haj
        split
        · rename_i he
          subst he
          split
          · exact hr
          · exact List.pairwise_cons.2 ⟨hj, hr⟩
        · rename_i hne
          refine List.pairwise_cons.2 ⟨fun z hz => ?_, ih hr⟩
          rcases mem_mput hz with hz | ⟨rfl, -⟩
          · exact hj z hz
          · simp only; omega
  · rcases mem_mput hx with hx | ⟨rfl, hv⟩
    · exact h.2 x hx
    · exact hv

theorem mget_absent {m : List Host.Cell} {a : Nat} (h : ∀ x ∈ m, x.1 ≠ a) : mget m a = 0 := by
  induction m with
  | nil => rfl
  | cons y r ih =>
    obtain ⟨j, w⟩ := y
    have hj : j ≠ a := h (j, w) List.mem_cons_self
    simp only [mget, if_neg (Ne.symm hj)]
    exact ih fun x hx => h x (List.mem_cons_of_mem _ hx)

/-- A byte reads back as it was written. -/
theorem mget_mput_same {m : List Host.Cell} (h : Memory.wf m = true) (a : Nat) (v : Byte) : mget (mput m a v) a = v := by
  rw [wf_iff] at h
  obtain ⟨hp, -⟩ := h
  induction m with
  | nil =>
    simp only [mput]
    split
    · rename_i hv; rw [hv]; rfl
    · simp [mget]
  | cons y r ih =>
    obtain ⟨j, w⟩ := y
    rw [List.pairwise_cons] at hp
    obtain ⟨hj, hr⟩ := hp
    simp only [mput]
    split
    · rename_i haj
      split
      · rename_i hv
        rw [hv]
        refine mget_absent fun x hx => ?_
        rcases List.mem_cons.1 hx with rfl | hx
        · simp only; omega
        · have := hj x hx; simp only at this; omega
      · simp [mget]
    · split
      · rename_i he
        subst he
        split
        · rename_i hv
          rw [hv]
          refine mget_absent fun x hx => ?_
          have := hj x hx; simp only at this; omega
        · simp [mget]
      · rename_i hne
        simp only [mget, if_neg hne, ih hr]

/-- Writing a byte leaves every other byte. -/
theorem mget_mput_other (m : List Host.Cell) {a b : Nat} (v : Byte) (h : b ≠ a) : mget (mput m a v) b = mget m b := by
  induction m with
  | nil =>
    simp only [mput]
    split <;> simp [mget, h]
  | cons y r ih =>
    obtain ⟨j, w⟩ := y
    simp only [mput]
    split
    · split
      · rfl
      · simp [mget, h]
    · split
      · rename_i he
        subst he
        split <;> simp [mget, h]
      · simp only [mget, ih]

/-- Writing bytes keeps the canonical form. -/
theorem mwrite_wf {m : List Host.Cell} (h : Memory.wf m = true) (a : Nat) (bs : List Byte) :
    Memory.wf (mwrite m a bs) = true := by
  induction bs generalizing m a with
  | nil => exact h
  | cons b bs ih => exact ih (mput_wf h a b) (a + 1)

/-- Writing bytes leaves every byte outside them. -/
theorem mget_mwrite_other (m : List Host.Cell) (a : Nat) (bs : List Byte) (b : Nat) (h : b < a ∨ a + bs.length ≤ b) :
    mget (mwrite m a bs) b = mget m b := by
  induction bs generalizing m a with
  | nil => rfl
  | cons v bs ih =>
    simp only [List.length_cons] at h
    rw [mwrite, ih _ _ (by omega), mget_mput_other _ _ (by omega)]

/-- Written bytes read back. -/
theorem mget_mwrite_same {m : List Host.Cell} (h : Memory.wf m = true) (a : Nat) (bs : List Byte) (i : Nat)
    (hi : i < bs.length) : mget (mwrite m a bs) (a + i) = bs.getD i 0 := by
  induction bs generalizing m a i with
  | nil => simp at hi
  | cons v bs ih =>
    rw [mwrite]
    cases i with
    | zero => rw [mget_mwrite_other _ _ _ _ (by omega)]; simpa using mget_mput_same h a v
    | succ k =>
      have := ih (mput_wf h a v) (a + 1) k (by simpa using hi)
      rw [show a + (k + 1) = a + 1 + k by omega, this]
      simp

/-- Taking cells out keeps the canonical form. -/
theorem filter_wf {m : List Host.Cell} (h : Memory.wf m = true) (p : Host.Cell → Bool) : Memory.wf (m.filter p) = true := by
  rw [wf_iff] at h ⊢
  exact ⟨h.1.filter p, fun x hx => h.2 x (List.mem_filter.1 hx).1⟩

/-! ### Writes of the state -/

namespace State

@[simp] theorem setMarks_mem (s : State) (a n : Nat) (b : Bool) : (s.setMarks a n b).mem = s.mem := rfl

theorem wr_mem (s : State) (a : Nat) (bs : List Byte) (b : Bool) : (s.wr a bs b).mem = mwrite s.mem a bs := by
  unfold wr
  split
  · rename_i h
    rw [List.isEmpty_iff.1 h]; rfl
  · rfl

/-- A byte outside a write reads as before. -/
theorem mget_wr_other (s : State) (a : Nat) (bs : List Byte) (b : Bool) (k : Nat) (h : k < a ∨ a + bs.length ≤ k) :
    mget (s.wr a bs b).mem k = mget s.mem k := by
  rw [wr_mem, mget_mwrite_other _ _ _ _ h]

theorem wr_sound {s : State} (h : s.Sound) (a : Nat) (bs : List Byte) (b : Bool) : (s.wr a bs b).Sound := by
  unfold Sound at *
  rw [wr_mem]
  exact mwrite_wf h a bs

theorem wrNat_sound {s : State} (h : s.Sound) (a n v : Nat) : (s.wrNat a n v).Sound := wr_sound h _ _ _

@[simp] theorem touchMoves_mem (s : State) (p : Place) : (s.touchMoves p).mem = s.mem := by cases p <;> rfl

/-- A write that leaves for a home outside the module leaves memory to a later write-through. -/
@[simp] theorem away_mem (s : State) (h : HbmLoc) (pl st : Nat) (bs : List Byte) (b u : Bool) :
    (s.away h pl st bs b u).mem = s.mem := by
  unfold away
  split <;> rfl

/-- A write at its home writes at the place's flat address, or leaves memory to a later write-through. -/
theorem homeWr_mem (s : State) (p : Place) (bs : List Byte) (b u : Bool) :
    (s.homeWr p bs b u).mem = s.mem ∨ (s.homeWr p bs b u).mem = mwrite s.mem p.flat bs := by
  cases p with
  | hbm h pl st =>
    simp only [homeWr]
    split
    · exact .inr (wr_mem _ _ _ _)
    · exact .inl (away_mem _ _ _ _ _ _ _)
  | pool a => exact .inr (wr_mem _ _ _ _)
  | host a => exact .inr (wr_mem _ _ _ _)

theorem homeWr_sound {s : State} (h : s.Sound) (p : Place) (bs : List Byte) (b u : Bool) : (s.homeWr p bs b u).Sound := by
  unfold Sound at *
  rcases homeWr_mem s p bs b u with e | e <;> rw [e]
  · exact h
  · exact mwrite_wf h _ _

/-- What a home writes through it writes at its address. -/
theorem writeThrough_mem (s : State) (t : Through) : (s.writeThrough t).mem = mwrite s.mem t.dst t.data := by
  unfold writeThrough
  rw [touchMoves_mem, wr_mem]

theorem writeThrough_sound {s : State} (h : s.Sound) (t : Through) : (s.writeThrough t).Sound := by
  unfold Sound at *
  rw [writeThrough_mem]
  exact mwrite_wf h _ _

/-- A fold keeps what each of its steps keeps. -/
theorem foldl_sound {α : Type} {f : State → α → State} (step : ∀ s x, s.Sound → (f s x).Sound) (l : List α) {s : State}
    (h : s.Sound) : (l.foldl f s).Sound := by
  induction l generalizing s with
  | nil => exact h
  | cons x l ih => exact ih (step s x h)

theorem settleAt_sound {s : State} (h : s.Sound) (a n : Nat) : (s.settleAt a n).Sound :=
  foldl_sound (fun _ t h => writeThrough_sound h t) _ h

theorem store_sound {s : State} (h : s.Sound) (p : Place) (bs : List Byte) (b : Bool) : (s.store p bs b).Sound :=
  wr_sound (settleAt_sound h _ _) _ _ _

/-- Outside what the homes still hold for its lines and its own bytes a write leaves memory. -/
theorem mget_store_other (s : State) (p : Place) (bs : List Byte) (b : Bool) (k : Nat) (ht : s.through = [])
    (h : k < p.flat ∨ p.flat + bs.length ≤ k) : mget (s.store p bs b).mem k = mget s.mem k := by
  simp [store, settleAt, ht, mget_wr_other _ _ _ _ _ h]

theorem storeMoving_sound {s : State} (h : s.Sound) (p : Place) (bs : List Byte) : (s.storeMoving p bs).Sound := by
  unfold Sound storeMoving
  rw [touchMoves_mem]
  exact store_sound h p bs false

/-- What an atomic reads leaves memory sound: at most it lets other homes write through first. -/
theorem homeTake_sound {s : State} (h : s.Sound) (p : Place) (n : Nat) : (s.homeTake p n).2.2.Sound := by
  have hs (u : State) (hu : u.Sound) : (u.saw p n).Sound := by unfold saw; split <;> exact hu
  have ho : (s.homeOrder p n).2.Sound := by unfold homeOrder; split <;> exact h
  apply hs
  split
  · exact settleAt_sound ho _ _
  · exact ho

theorem homePut_sound {s : State} (h : s.Sound) (p : Place) (o : Nat) (bs : List Byte) : (s.homePut p o bs).Sound := by
  unfold homePut
  split
  · exact homeWr_sound (settleAt_sound h _ _) _ _ _ _
  · exact homeWr_sound h _ _ _ _

/-! ### Translations and control writes -/

theorem putEntry_sound {s : State} (h : s.Sound) (e : Nat × Nat) (v : Nat) : (s.putEntry e v).Sound := by
  unfold putEntry
  split
  · exact storeMoving_sound h _ _
  · exact h

/-- What follows an access keeps memory sound where the access and what is done with it do. -/
theorem andThen_sound {α β : Type} {g : Got α} {k : α → State → Got β} (hg : ∀ v u, g = .ok v u → u.Sound)
    (hk : ∀ v u w t, u.Sound → k v u = .ok w t → t.Sound) {w : β} {t : State} (e : g.andThen k = .ok w t) : t.Sound := by
  cases g with
  | ok v u => exact hk v u w t (hg v u rfl) e
  | fault r va => cases e
  | hold q => cases e

theorem tlbFill_sound {s t : State} (h : s.Sound) {die asid va : Nat} {v : Tlb} (e : s.tlbFill die asid va = .ok v t) : t.Sound := by
  unfold tlbFill at e
  repeat' split at e
  all_goals first
    | (injection e with _ e; subst e; exact h)
    | (injection e with _ e; subst e; apply putEntry_sound; exact h)
    | cases e

theorem tlbAgain_sound {s t : State} (h : s.Sound) {x v : Tlb} {va : Nat} (e : s.tlbAgain x va = .ok v t) : t.Sound :=
  tlbFill_sound (by exact h) e

theorem tlbDirty_sound {s t : State} (h : s.Sound) {x : Tlb} {v : Unit} (e : s.tlbDirty x = .ok v t) : t.Sound := by
  unfold tlbDirty at e
  split at e
  · injection e with _ e; subst e; exact h
  · refine andThen_sound (fun v u hu => ?_) (fun v u w t hu ht => ?_) e
    · split at hu
      · exact tlbAgain_sound h hu
      · injection hu with _ hu; subst hu; exact h
    · repeat' split at ht
      · cases ht
      · cases ht
      · injection ht with _ ht
        subst ht
        split
        · exact hu
        · exact storeMoving_sound (by exact hu) _ _

theorem tlbFresh_sound {s t : State} (h : s.Sound) {die asid va : Nat} {v : Tlb} (e : s.tlbFresh die asid va = .ok v t) :
    t.Sound := by
  refine andThen_sound (fun v u hu => tlbFill_sound h hu) (fun v u w t hu ht => ?_) e
  split at ht
  · exact tlbAgain_sound hu ht
  · injection ht with _ ht; subst ht; exact hu

theorem ctlTouch_sound {s : State} (h : s.Sound) (va : Nat) : (s.ctlTouch va).Sound := by
  unfold ctlTouch
  split
  · exact tlbFresh_sound h (by assumption)
  · exact h

theorem ctlUse_sound {s : State} (h : s.Sound) (l : List (Nat × Nat)) : (s.ctlUse l).Sound :=
  foldl_sound (fun _ va h => ctlTouch_sound h va) _ h

theorem ctlDirty_sound {s : State} (h : s.Sound) (va : Nat) : (s.ctlDirty va).Sound := by
  unfold ctlDirty
  split
  · rename_i e
    exact andThen_sound (fun _ _ hu => tlbFresh_sound h hu) (fun _ _ _ _ hu ht => tlbDirty_sound hu ht) e
  · exact h

theorem ctlPut_sound {s : State} (h : s.Sound) (va : Nat) (b : Byte) : (s.ctlPut va b).Sound := by
  unfold ctlPut
  split
  · exact storeMoving_sound (ctlDirty_sound h va) _ _
  · exact h

theorem ctlWr_sound {s : State} (h : s.Sound) (va : Nat) (bs : List Byte) : (s.ctlWr va bs).Sound := by
  induction bs generalizing s va with
  | nil => exact h
  | cons b bs ih => exact ih (ctlPut_sound h va b) _

theorem ctlWrNat_sound {s : State} (h : s.Sound) (va n v : Nat) : (s.ctlWrNat va n v).Sound := ctlWr_sound h _ _

end State

end Sys2Proof.Machine
end

