-- ==== Sys2Proof/Laws/Operands.lean ====
section
/-! SUPPORT. What reading an operand and taking a resource come to: the operation goes on, or a fault is taken. -/

namespace Sys2Proof.Machine.State

variable {s : State}

/-! ### Operands -/

theorem guarded_of_runs {g : BitVec 4} (h : s.runs g) (k : State) : s.guarded g k = k := by
  obtain ⟨h1, h2⟩ := h
  unfold clearP at h1
  unfold valP at h2
  simp [guarded, useP, h1, h2]

theorem guarded_of_skips {g : BitVec 4} (h : s.skips g) (k : State) : s.guarded g k = s := by
  obtain ⟨h1, h2⟩ := h
  unfold clearP at h1
  unfold valP at h2
  simp [guarded, useP, h1, h2]

theorem useG_clear {n : BitVec 6} (h : s.clearG n) (k : Word → State) : s.useG n k = k (s.valG n) := by
  unfold clearG at h
  simp [useG, h, valG]

theorem useP_clear {n : Nat} (h : s.clearP n) (k : Bool → State) : s.useP n k = k (s.valP n) := by
  unfold clearP at h
  simp [useP, h, valP]

theorem useM_clear {n : Nat} (h : s.clearM n) (k : BitVec 128 → State) : s.useM n k = k (s.valM n) := by
  unfold clearM at h
  simp [useM, h, valM]

theorem useV_clear {n : BitVec 6} {lanes : BitVec 128} (h : s.clearV n lanes) (k : List Half → State) :
    s.useV n lanes k = k (s.valV n) := by
  unfold clearV at h
  simp [useV, h, valV]

/-! ### Addresses -/

theorem usePool_ok {addr : Word} {n align detail off : Nat} (h : s.poolAddr addr n = .ok off) (ha : off % align = 0)
    (k : Nat → State) : s.usePool addr n align detail k = k off := by
  simp [usePool, h, ha]

theorem usePool_misaligned {addr : Word} {n align detail off : Nat} (h : s.poolAddr addr n = .ok off) (ha : off % align ≠ 0)
    (k : Nat → State) : s.usePool addr n align detail k = s.extentFault detail addr := by
  simp [usePool, h, ha]

theorem usePool_outside {addr : Word} {n align detail e : Nat} (h : s.poolAddr addr n = .error e)
    (k : Nat → State) : s.usePool addr n align detail k = s.extentFault e addr := by
  simp [usePool, h]

/-! ### Resources -/

theorem claimAll_free {code : Nat} {l : List (Res × Nat × Word)} (h : freeFor l s) (k : State → State) :
    s.claimAll code l k = k (reserved l s) := by
  induction l generalizing s with
  | nil => rfl
  | cons x l ih =>
    obtain ⟨r, b, w⟩ := x
    obtain ⟨h1, h2⟩ := h
    simp only [claimAll, claim, h1, ih h2, reserved]

theorem claimBanks_free {n : Nat} {accs : List (Nat × Nat)} (h : freeFor (s.banks n accs) s) (k : State → State) :
    s.claimBanks n accs k = k (reserved (s.banks n accs) s) := claimAll_free h k

theorem reserveLines_free {ls : List Located} (h : linesFree ls s) (k : State → State) :
    s.reserveLines ls k = k (linesTaken ls s).clearSc := by
  unfold reserveLines
  suffices hh : ∀ (t : State) (k : State → State), linesFree ls t → reserveLines.go t ls k = k (linesTaken ls t) from hh s _ h
  clear h
  induction ls with
  | nil => intro t k _; rfl
  | cons x l ih =>
    intro t k ht
    obtain ⟨a, n, b, c⟩ := x
    obtain ⟨h1, h2⟩ := ht
    simp only [reserveLines.go, h1, Bool.false_eq_true, if_false, ih _ _ h2, linesTaken]

/-! ### What reservations leave alone -/

theorem addClaim_ctxs (r : Res) (b : Nat) : (s.addClaim r b).ctxs = s.ctxs := rfl

theorem reserved_ctxs (l : List (Res × Nat × Word)) : (reserved l s).ctxs = s.ctxs := by
  induction l generalizing s with
  | nil => rfl
  | cons x l ih =>
    obtain ⟨r, b, w⟩ := x
    exact ih

theorem reserved_cur (l : List (Res × Nat × Word)) : (reserved l s).cur = s.cur := by
  induction l generalizing s with
  | nil => rfl
  | cons x l ih =>
    obtain ⟨r, b, w⟩ := x
    exact ih

theorem reserved_mem (l : List (Res × Nat × Word)) : (reserved l s).mem = s.mem := by
  induction l generalizing s with
  | nil => rfl
  | cons x l ih =>
    obtain ⟨r, b, w⟩ := x
    exact ih

theorem reserved_me (l : List (Res × Nat × Word)) : (reserved l s).me = s.me := by
  simp only [me, ctx, reserved_ctxs, reserved_cur]

theorem reserved_regs (l : List (Res × Nat × Word)) : (reserved l s).regs = s.regs := by simp only [regs, reserved_me]

/-- A resource that carries a reservation: a collision is taken, whatever would have followed. -/
theorem claim_held {code b : Nat} {r : Res} {c : Claim} (h : s.holder r b = some c) (w : Word) (k : State → State) :
    s.claim code r b w k = s.takeFault s.cur.ctx code 0 s.cur.slot w
      (Word.ofNat (tileOf c.ctx + c.slot * 2 ^ 12 + c.hcyc * 2 ^ 16)) true false := by
  simp only [claim, h]

/-! ### FIFOs -/

theorem claimFifo_ready {q n : Nat} {f : Nat → Nat} (h : s.fifoReady q n f = true) (k : State → State) :
    s.claimFifo q n f k = k (s.fifoClaimed q n f) := by simp only [claimFifo, h, if_true]

theorem claimFifo_underflow {q n : Nat} {f : Nat → Nat} (h : s.fifoReady q n f = false) (k : State → State) :
    s.claimFifo q n f k = s.slip 0x03 := by simp [claimFifo, h]

theorem reserveFifo_room {q n : Nat} {f : Nat → Nat} (h : s.fifoRoom q n f = true) (k : State → Nat → State) :
    s.reserveFifo q n f k = k (s.fifoReserved q n f) (s.regs.fifo q).wq := by simp only [reserveFifo, h, if_true]

theorem reserveFifo_overflow {q n : Nat} {f : Nat → Nat} (h : s.fifoRoom q n f = false) (k : State → Nat → State) :
    s.reserveFifo q n f k = s.slip 0x04 := by simp [reserveFifo, h]

/-! ### Array pairs -/

theorem useSpans_ok {l : List (Word × Nat × Nat × Nat)} (h : s.spansOk l) (k : State) : s.useSpans l k = k := by
  unfold useSpans
  have h1 : (l.find? fun (a, n, _, _) => (s.poolAddr a n).toOption.isNone) = none := by
    rw [List.find?_eq_none]
    intro x hx
    have := (h x hx).1
    simpa [Option.isSome_iff_ne_none] using this
  have h2 : (l.find? fun (a, _, al, _) => a.toNat % al != 0) = none := by
    rw [List.find?_eq_none]
    intro x hx
    have := (h x hx).2
    simpa using this
  simp only [h1, h2]

theorem granted_ok {pn : Nat} {upd : Bool} (h : s.grantedPair pn upd) (k : State) : s.granted pn upd k = k := by
  obtain ⟨h1, h2⟩ := h
  cases upd <;> simp_all [granted]

theorem analog_ok {pn : Nat} {upd : Bool} {l : List (Word × Nat × Nat × Nat)} (h : s.pairFree pn upd) (hs : s.spansOk l) (k : State) :
    s.analog pn upd false l k = k := by
  obtain ⟨h1, h2, h3, h4, h5⟩ := h
  have : ¬ 4 < s.pairPeak (s.pidOf pn) := by omega
  simp only [analog, h2, this, Bool.or_self, Bool.false_eq_true, decide_false, if_false, granted_ok h1, useSpans_ok hs, notHeld]
  rw [if_neg h4, if_neg h5]

/-! ### Items in flight -/

/-- An event of an item whose beat has come takes it out and applies it, where it is of the event's kind. -/
theorem onItem_due {c k : Nat} {it : Item} (h : s.due c k it) (p : Act → Bool) (f : State → Nat → Item → State) :
    s.onItem p f = if p it.act then f (s.without c it) c it else s := by
  obtain ⟨h0, h1, h2, h3⟩ := h
  simp only [onItem, onItemAt, takeItem, h0, h1, h2, h3, Bool.true_and]
  by_cases hp : p it.act = true <;> simp [hp, without]

/-- A result lands in the registers of its context, XSEED apart, and nothing else changes. -/
theorem resultLand_due {c k : Nat} {it : Item} (h : s.due c k it) (hr : it.act.isResult = true)
    (hx : ∀ pid v, it.act ≠ .xseed pid v) :
    execResultLand s = .next ((s.without c it).modRegs c fun r => r.land it.act) := by
  rw [execResultLand, onItem_due h, if_pos hr]
  split
  · rename_i pid v heq
    exact absurd heq (hx pid v)
  · rfl

/-- A store's bytes reach the pool. -/
theorem storePerform_due {c k : Nat} {it : Item} {tile : Nat} {l : List (Nat × List Byte × Bool)} (h : s.due c k it)
    (ha : it.act = .pool tile l) : execStorePerform s = .next ((s.without c it).wrChunks tile l) := by
  simp [execStorePerform, onItem_due h, ha, Act.isPool]

end Sys2Proof.Machine.State
end

