-- ==== Sys2Proof/Laws/PerInstr.lean ====
section
/-! SUPPORT. Statements made of each instruction as syntax, one lemma per constructor. -/

namespace Sys2Proof.Laws

/-- The opcode field of an encoded slot word is one its class's map assigns (R84). -/
def Assigned.Statement (i : Instr) : Prop :=
  ∀ w c, i.word = some w → i.slotClass? = some c → assignedOp c (w.extractLsb' 25 7).toNat = true

theorem Assigned.of_op {w : Half} {op : BitVec 7} {c : SlotClass} (h : w.extractLsb' 25 7 = op)
    (ho : assignedOp c op.toNat = true) : assignedOp c (w.extractLsb' 25 7).toNat = true := by
  rw [h]
  exact ho

namespace Assigned

theorem add g d a b m : Statement (.add g d a b m) := by
  intro w c hw hc
  cases hw
  cases hc
  exact of_op (lay_op _ _ _ _ _ _) rfl

theorem sub g d a b m : Statement (.sub g d a b m) := by
  intro w c hw hc
  cases hw
  cases hc
  exact of_op (lay_op _ _ _ _ _ _) rfl

theorem and g d a b : Statement (.and g d a b) := by
  intro w c hw hc
  cases hw
  cases hc
  exact of_op (lay_op _ _ _ _ _ _) rfl

theorem or g d a b : Statement (.or g d a b) := by
  intro w c hw hc
  cases hw
  cases hc
  exact of_op (lay_op _ _ _ _ _ _) rfl

theorem xor g d a b : Statement (.xor g d a b) := by
  intro w c hw hc
  cases hw
  cases hc
  exact of_op (lay_op _ _ _ _ _ _) rfl

theorem andn g d a b : Statement (.andn g d a b) := by
  intro w c hw hc
  cases hw
  cases hc
  exact of_op (lay_op _ _ _ _ _ _) rfl

theorem shl g d a b : Statement (.shl g d a b) := by
  intro w c hw hc
  cases hw
  cases hc
  exact of_op (lay_op _ _ _ _ _ _) rfl

theorem shr g d a b : Statement (.shr g d a b) := by
  intro w c hw hc
  cases hw
  cases hc
  exact of_op (lay_op _ _ _ _ _ _) rfl

theorem sar g d a b : Statement (.sar g d a b) := by
  intro w c hw hc
  cases hw
  cases hc
  exact of_op (lay_op _ _ _ _ _ _) rfl

theorem rotl g d a b : Statement (.rotl g d a b) := by
  intro w c hw hc
  cases hw
  cases hc
  exact of_op (lay_op _ _ _ _ _ _) rfl

theorem min g d a b : Statement (.min g d a b) := by
  intro w c hw hc
  cases hw
  cases hc
  exact of_op (lay_op _ _ _ _ _ _) rfl

theorem max g d a b : Statement (.max g d a b) := by
  intro w c hw hc
  cases hw
  cases hc
  exact of_op (lay_op _ _ _ _ _ _) rfl

theorem minn g d a b : Statement (.minn g d a b) := by
  intro w c hw hc
  cases hw
  cases hc
  exact of_op (lay_op _ _ _ _ _ _) rfl

theorem maxn g d a b : Statement (.maxn g d a b) := by
  intro w c hw hc
  cases hw
  cases hc
  exact of_op (lay_op _ _ _ _ _ _) rfl

theorem sel g d a b p : Statement (.sel g d a b p) := by
  intro w c hw hc
  cases hw
  cases hc
  exact of_op (lay_op _ _ _ _ _ _) rfl

theorem popc g d a : Statement (.popc g d a) := by
  intro w c hw hc
  cases hw
  cases hc
  exact of_op (lay_op _ _ _ _ _ _) rfl

theorem addi g d a i : Statement (.addi g d a i) := by
  intro w c hw hc
  cases hw
  cases hc
  exact of_op (layI_op _ _ _ _ _) rfl

theorem andi g d a i : Statement (.andi g d a i) := by
  intro w c hw hc
  cases hw
  cases hc
  exact of_op (layI_op _ _ _ _ _) rfl

theorem ori g d a i : Statement (.ori g d a i) := by
  intro w c hw hc
  cases hw
  cases hc
  exact of_op (layI_op _ _ _ _ _) rfl

theorem xori g d a i : Statement (.xori g d a i) := by
  intro w c hw hc
  cases hw
  cases hc
  exact of_op (layI_op _ _ _ _ _) rfl

theorem shli g d a i : Statement (.shli g d a i) := by
  intro w c hw hc
  cases hw
  cases hc
  exact of_op (layI_op _ _ _ _ _) rfl

theorem shri g d a i : Statement (.shri g d a i) := by
  intro w c hw hc
  cases hw
  cases hc
  exact of_op (layI_op _ _ _ _ _) rfl

theorem sari g d a i : Statement (.sari g d a i) := by
  intro w c hw hc
  cases hw
  cases hc
  exact of_op (layI_op _ _ _ _ _) rfl

theorem rotli g d a i : Statement (.rotli g d a i) := by
  intro w c hw hc
  cases hw
  cases hc
  exact of_op (layI_op _ _ _ _ _) rfl

theorem movi g d i : Statement (.movi g d i) := by
  intro w c hw hc
  cases hw
  cases hc
  exact of_op (layI_op _ _ _ _ _) rfl

theorem movhi g d a x3 : Statement (.movhi g d a x3) := by
  intro w c hw hc
  cases hw
  cases hc
  exact of_op (lay_op _ _ _ _ _ _) rfl

theorem clz g d a : Statement (.clz g d a) := by
  intro w c hw hc
  cases hw
  cases hc
  exact of_op (lay_op _ _ _ _ _ _) rfl

theorem ctz g d a : Statement (.ctz g d a) := by
  intro w c hw hc
  cases hw
  cases hc
  exact of_op (lay_op _ _ _ _ _ _) rfl

theorem bext g d a b u : Statement (.bext g d a b u) := by
  intro w c hw hc
  cases hw
  cases hc
  exact of_op (lay_op _ _ _ _ _ _) rfl

theorem bins g d a b : Statement (.bins g d a b) := by
  intro w c hw hc
  cases hw
  cases hc
  exact of_op (lay_op _ _ _ _ _ _) rfl

theorem sxt g d a w : Statement (.sxt g d a w) := by
  intro w c hw hc
  cases hw
  cases hc
  exact of_op (lay_op _ _ _ _ _ _) rfl

theorem zxt g d a w : Statement (.zxt g d a w) := by
  intro w c hw hc
  cases hw
  cases hc
  exact of_op (lay_op _ _ _ _ _ _) rfl

theorem mul g d a b m : Statement (.mul g d a b m) := by
  intro w c hw hc
  cases hw
  cases hc
  exact of_op (lay_op _ _ _ _ _ _) rfl

theorem mulh g d a b : Statement (.mulh g d a b) := by
  intro w c hw hc
  cases hw
  cases hc
  exact of_op (lay_op _ _ _ _ _ _) rfl

theorem mulhn g d a b : Statement (.mulhn g d a b) := by
  intro w c hw hc
  cases hw
  cases hc
  exact of_op (lay_op _ _ _ _ _ _) rfl

theorem muli g d a i : Statement (.muli g d a i) := by
  intro w c hw hc
  cases hw
  cases hc
  exact of_op (layI_op _ _ _ _ _) rfl

theorem div g d a b : Statement (.div g d a b) := by
  intro w c hw hc
  cases hw
  cases hc
  exact of_op (lay_op _ _ _ _ _ _) rfl

theorem divn g d a b : Statement (.divn g d a b) := by
  intro w c hw hc
  cases hw
  cases hc
  exact of_op (lay_op _ _ _ _ _ _) rfl

theorem rem g d a b : Statement (.rem g d a b) := by
  intro w c hw hc
  cases hw
  cases hc
  exact of_op (lay_op _ _ _ _ _ _) rfl

theorem remn g d a b : Statement (.remn g d a b) := by
  intro w c hw hc
  cases hw
  cases hc
  exact of_op (lay_op _ _ _ _ _ _) rfl

theorem cmp g d a b c : Statement (.cmp g d a b c) := by
  intro w c hw hc
  cases hw
  cases hc
  exact of_op (lay_op _ _ _ _ _ _) rfl

theorem cmpi g c p a i : Statement (.cmpi g c p a i) := by
  intro w c hw hc
  cases hw
  cases hc
  exact of_op (layI_op _ _ _ _ _) rfl

theorem pand g d a b : Statement (.pand g d a b) := by
  intro w c hw hc
  cases hw
  cases hc
  exact of_op (lay_op _ _ _ _ _ _) rfl

theorem por g d a b : Statement (.por g d a b) := by
  intro w c hw hc
  cases hw
  cases hc
  exact of_op (lay_op _ _ _ _ _ _) rfl

theorem pxor g d a b : Statement (.pxor g d a b) := by
  intro w c hw hc
  cases hw
  cases hc
  exact of_op (lay_op _ _ _ _ _ _) rfl

theorem pandn g d a b : Statement (.pandn g d a b) := by
  intro w c hw hc
  cases hw
  cases hc
  exact of_op (lay_op _ _ _ _ _ _) rfl

theorem pset g d a : Statement (.pset g d a) := by
  intro w c hw hc
  cases hw
  cases hc
  exact of_op (lay_op _ _ _ _ _ _) rfl

theorem psetAll g a : Statement (.psetAll g a) := by
  intro w c hw hc
  cases hw
  cases hc
  exact of_op (lay_op _ _ _ _ _ _) rfl

theorem pget g d a : Statement (.pget g d a) := by
  intro w c hw hc
  cases hw
  cases hc
  exact of_op (lay_op _ _ _ _ _ _) rfl

theorem pgetAll g d : Statement (.pgetAll g d) := by
  intro w c hw hc
  cases hw
  cases hc
  exact of_op (lay_op _ _ _ _ _ _) rfl

theorem fadd g d a b r : Statement (.fadd g d a b r) := by
  intro w c hw hc
  cases hw
  cases hc
  exact of_op (lay_op _ _ _ _ _ _) rfl

theorem fsub g d a b r : Statement (.fsub g d a b r) := by
  intro w c hw hc
  cases hw
  cases hc
  exact of_op (lay_op _ _ _ _ _ _) rfl

theorem fmul g d a b r : Statement (.fmul g d a b r) := by
  intro w c hw hc
  cases hw
  cases hc
  exact of_op (lay_op _ _ _ _ _ _) rfl

theorem fdiv g d a b r : Statement (.fdiv g d a b r) := by
  intro w c hw hc
  cases hw
  cases hc
  exact of_op (lay_op _ _ _ _ _ _) rfl

theorem fsqrt g d a r : Statement (.fsqrt g d a r) := by
  intro w c hw hc
  cases hw
  cases hc
  exact of_op (lay_op _ _ _ _ _ _) rfl

theorem fma g d a b r : Statement (.fma g d a b r) := by
  intro w c hw hc
  cases hw
  cases hc
  exact of_op (lay_op _ _ _ _ _ _) rfl

theorem fmin g d a b : Statement (.fmin g d a b) := by
  intro w c hw hc
  cases hw
  cases hc
  exact of_op (lay_op _ _ _ _ _ _) rfl

theorem fmax g d a b : Statement (.fmax g d a b) := by
  intro w c hw hc
  cases hw
  cases hc
  exact of_op (lay_op _ _ _ _ _ _) rfl

theorem fcmp g d a b c : Statement (.fcmp g d a b c) := by
  intro w c hw hc
  cases hw
  cases hc
  exact of_op (lay_op _ _ _ _ _ _) rfl

theorem fcvtBf16Fp32 g d a r : Statement (.fcvtBf16Fp32 g d a r) := by
  intro w c hw hc
  cases hw
  cases hc
  exact of_op (lay_op _ _ _ _ _ _) rfl

theorem fcvtFp32Bf16 g d a : Statement (.fcvtFp32Bf16 g d a) := by
  intro w c hw hc
  cases hw
  cases hc
  exact of_op (lay_op _ _ _ _ _ _) rfl

theorem faddBf16 g d a b r : Statement (.faddBf16 g d a b r) := by
  intro w c hw hc
  cases hw
  cases hc
  exact of_op (lay_op _ _ _ _ _ _) rfl

theorem fsubBf16 g d a b r : Statement (.fsubBf16 g d a b r) := by
  intro w c hw hc
  cases hw
  cases hc
  exact of_op (lay_op _ _ _ _ _ _) rfl

theorem fmulBf16 g d a b r : Statement (.fmulBf16 g d a b r) := by
  intro w c hw hc
  cases hw
  cases hc
  exact of_op (lay_op _ _ _ _ _ _) rfl

theorem fdivBf16 g d a b r : Statement (.fdivBf16 g d a b r) := by
  intro w c hw hc
  cases hw
  cases hc
  exact of_op (lay_op _ _ _ _ _ _) rfl

theorem fsqrtBf16 g d a r : Statement (.fsqrtBf16 g d a r) := by
  intro w c hw hc
  cases hw
  cases hc
  exact of_op (lay_op _ _ _ _ _ _) rfl

theorem fmaBf16 g d a b r : Statement (.fmaBf16 g d a b r) := by
  intro w c hw hc
  cases hw
  cases hc
  exact of_op (lay_op _ _ _ _ _ _) rfl

theorem fminBf16 g d a b : Statement (.fminBf16 g d a b) := by
  intro w c hw hc
  cases hw
  cases hc
  exact of_op (lay_op _ _ _ _ _ _) rfl

theorem fmaxBf16 g d a b : Statement (.fmaxBf16 g d a b) := by
  intro w c hw hc
  cases hw
  cases hc
  exact of_op (lay_op _ _ _ _ _ _) rfl

theorem fcmpBf16 g d a b c : Statement (.fcmpBf16 g d a b c) := by
  intro w c hw hc
  cases hw
  cases hc
  exact of_op (lay_op _ _ _ _ _ _) rfl

theorem br g i : Statement (.br g i) := by
  intro w c hw hc
  cases hw
  cases hc
  exact of_op (layI_op _ _ _ _ _) rfl

theorem brl g d i : Statement (.brl g d i) := by
  intro w c hw hc
  cases hw
  cases hc
  exact of_op (layI_op _ _ _ _ _) rfl

theorem brx g a : Statement (.brx g a) := by
  intro w c hw hc
  cases hw
  cases hc
  exact of_op (lay_op _ _ _ _ _ _) rfl

theorem brlx g d a : Statement (.brlx g d a) := by
  intro w c hw hc
  cases hw
  cases hc
  exact of_op (lay_op _ _ _ _ _ _) rfl

theorem loop g r x2 : Statement (.loop g r x2) := by
  intro w c hw hc
  cases hw
  cases hc
  exact of_op (lay_op _ _ _ _ _ _) rfl

theorem loopg g r a i : Statement (.loopg g r a i) := by
  intro w c hw hc
  cases hw
  cases hc
  exact of_op (layI_op _ _ _ _ _) rfl

theorem pin g i : Statement (.pin g i) := by
  intro w c hw hc
  cases hw
  cases hc
  exact of_op (layI_op _ _ _ _ _) rfl

theorem rdv g : Statement (.rdv g) := by
  intro w c hw hc
  cases hw
  cases hc
  exact of_op (lay_op _ _ _ _ _ _) rfl

theorem rdvfin g : Statement (.rdvfin g) := by
  intro w c hw hc
  cases hw
  cases hc
  exact of_op (lay_op _ _ _ _ _ _) rfl

theorem predwait g : Statement (.predwait g) := by
  intro w c hw hc
  cases hw
  cases hc
  exact of_op (lay_op _ _ _ _ _ _) rfl

theorem swapctx g : Statement (.swapctx g) := by
  intro w c hw hc
  cases hw
  cases hc
  exact of_op (lay_op _ _ _ _ _ _) rfl

theorem mfs g d u : Statement (.mfs g d u) := by
  intro w c hw hc
  cases hw
  cases hc
  exact of_op (lay_op _ _ _ _ _ _) rfl

theorem mts g u a : Statement (.mts g u a) := by
  intro w c hw hc
  cases hw
  cases hc
  exact of_op (lay_op _ _ _ _ _ _) rfl

theorem mtsi g u i : Statement (.mtsi g u i) := by
  intro w c hw hc
  cases hw
  cases hc
  exact of_op (layI_op _ _ _ _ _) rfl

theorem ficvt g d a f i r : Statement (.ficvt g d a f i r) := by
  intro w c hw hc
  cases hw
  cases hc
  exact of_op (lay_op _ _ _ _ _ _) rfl

theorem ifcvt g d a f i r : Statement (.ifcvt g d a f i r) := by
  intro w c hw hc
  cases hw
  cases hc
  exact of_op (lay_op _ _ _ _ _ _) rfl

theorem trig g : Statement (.trig g) := by
  intro w c hw hc
  cases hw
  cases hc
  exact of_op (lay_op _ _ _ _ _ _) rfl

theorem trap g i : Statement (.trap g i) := by
  intro w c hw hc
  cases hw
  cases hc
  exact of_op (layI_op _ _ _ _ _) rfl

theorem sburg g a : Statement (.sburg g a) := by
  intro w c hw hc
  cases hw
  cases hc
  exact of_op (lay_op _ _ _ _ _ _) rfl

theorem waitk g k i : Statement (.waitk g k i) := by
  intro w c hw hc
  cases hw
  cases hc
  exact of_op (layI_op _ _ _ _ _) rfl

theorem waitkReg g k a : Statement (.waitkReg g k a) := by
  intro w c hw hc
  cases hw
  cases hc
  exact of_op (lay_op _ _ _ _ _ _) rfl

theorem draw g d : Statement (.draw g d) := by
  intro w c hw hc
  cases hw
  cases hc
  exact of_op (lay_op _ _ _ _ _ _) rfl

theorem vadd g d a b m : Statement (.vadd g d a b m) := by
  intro w c hw hc
  cases hw
  cases hc
  exact of_op (lay_op _ _ _ _ _ _) rfl

theorem vsub g d a b m : Statement (.vsub g d a b m) := by
  intro w c hw hc
  cases hw
  cases hc
  exact of_op (lay_op _ _ _ _ _ _) rfl

theorem vmul g d a b m : Statement (.vmul g d a b m) := by
  intro w c hw hc
  cases hw
  cases hc
  exact of_op (lay_op _ _ _ _ _ _) rfl

theorem vmulh g d a b m : Statement (.vmulh g d a b m) := by
  intro w c hw hc
  cases hw
  cases hc
  exact of_op (lay_op _ _ _ _ _ _) rfl

theorem vmulhn g d a b m : Statement (.vmulhn g d a b m) := by
  intro w c hw hc
  cases hw
  cases hc
  exact of_op (lay_op _ _ _ _ _ _) rfl

theorem vmin g d a b m : Statement (.vmin g d a b m) := by
  intro w c hw hc
  cases hw
  cases hc
  exact of_op (lay_op _ _ _ _ _ _) rfl

theorem vmax g d a b m : Statement (.vmax g d a b m) := by
  intro w c hw hc
  cases hw
  cases hc
  exact of_op (lay_op _ _ _ _ _ _) rfl

theorem vminn g d a b m : Statement (.vminn g d a b m) := by
  intro w c hw hc
  cases hw
  cases hc
  exact of_op (lay_op _ _ _ _ _ _) rfl

theorem vmaxn g d a b m : Statement (.vmaxn g d a b m) := by
  intro w c hw hc
  cases hw
  cases hc
  exact of_op (lay_op _ _ _ _ _ _) rfl

theorem vand g d a b m : Statement (.vand g d a b m) := by
  intro w c hw hc
  cases hw
  cases hc
  exact of_op (lay_op _ _ _ _ _ _) rfl

theorem vor g d a b m : Statement (.vor g d a b m) := by
  intro w c hw hc
  cases hw
  cases hc
  exact of_op (lay_op _ _ _ _ _ _) rfl

theorem vxor g d a b m : Statement (.vxor g d a b m) := by
  intro w c hw hc
  cases hw
  cases hc
  exact of_op (lay_op _ _ _ _ _ _) rfl

theorem vandn g d a b m : Statement (.vandn g d a b m) := by
  intro w c hw hc
  cases hw
  cases hc
  exact of_op (lay_op _ _ _ _ _ _) rfl

theorem vshl g d a b m : Statement (.vshl g d a b m) := by
  intro w c hw hc
  cases hw
  cases hc
  exact of_op (lay_op _ _ _ _ _ _) rfl

theorem vshr g d a b m : Statement (.vshr g d a b m) := by
  intro w c hw hc
  cases hw
  cases hc
  exact of_op (lay_op _ _ _ _ _ _) rfl

theorem vsar g d a b m : Statement (.vsar g d a b m) := by
  intro w c hw hc
  cases hw
  cases hc
  exact of_op (lay_op _ _ _ _ _ _) rfl

theorem vadds g d a b m : Statement (.vadds g d a b m) := by
  intro w c hw hc
  cases hw
  cases hc
  exact of_op (lay_op _ _ _ _ _ _) rfl

theorem vaddsn g d a b m : Statement (.vaddsn g d a b m) := by
  intro w c hw hc
  cases hw
  cases hc
  exact of_op (lay_op _ _ _ _ _ _) rfl

theorem vsubs g d a b m : Statement (.vsubs g d a b m) := by
  intro w c hw hc
  cases hw
  cases hc
  exact of_op (lay_op _ _ _ _ _ _) rfl

theorem vsubsn g d a b m : Statement (.vsubsn g d a b m) := by
  intro w c hw hc
  cases hw
  cases hc
  exact of_op (lay_op _ _ _ _ _ _) rfl

theorem vadd16 g d a b m : Statement (.vadd16 g d a b m) := by
  intro w c hw hc
  cases hw
  cases hc
  exact of_op (lay_op _ _ _ _ _ _) rfl

theorem vsub16 g d a b m : Statement (.vsub16 g d a b m) := by
  intro w c hw hc
  cases hw
  cases hc
  exact of_op (lay_op _ _ _ _ _ _) rfl

theorem vadds16 g d a b m : Statement (.vadds16 g d a b m) := by
  intro w c hw hc
  cases hw
  cases hc
  exact of_op (lay_op _ _ _ _ _ _) rfl

theorem vsubs16 g d a b m : Statement (.vsubs16 g d a b m) := by
  intro w c hw hc
  cases hw
  cases hc
  exact of_op (lay_op _ _ _ _ _ _) rfl

theorem vmul16 g d a b m : Statement (.vmul16 g d a b m) := by
  intro w c hw hc
  cases hw
  cases hc
  exact of_op (lay_op _ _ _ _ _ _) rfl

theorem vabs g d a k m : Statement (.vabs g d a k m) := by
  intro w c hw hc
  cases hw
  cases hc
  exact of_op (lay_op _ _ _ _ _ _) rfl

theorem vneg g d a k m : Statement (.vneg g d a k m) := by
  intro w c hw hc
  cases hw
  cases hc
  exact of_op (lay_op _ _ _ _ _ _) rfl

theorem vsel g d a b m : Statement (.vsel g d a b m) := by
  intro w c hw hc
  cases hw
  cases hc
  exact of_op (lay_op _ _ _ _ _ _) rfl

theorem vmov g d a m : Statement (.vmov g d a m) := by
  intro w c hw hc
  cases hw
  cases hc
  exact of_op (lay_op _ _ _ _ _ _) rfl

theorem vmovScalar g d a m : Statement (.vmovScalar g d a m) := by
  intro w c hw hc
  cases hw
  cases hc
  exact of_op (lay_op _ _ _ _ _ _) rfl

theorem vmovi g d i m : Statement (.vmovi g d i m) := by
  intro w c hw hc
  cases hw
  cases hc
  exact of_op (layJ_op _ _ _ _ _) rfl

theorem vshli g d a n m : Statement (.vshli g d a n m) := by
  intro w c hw hc
  cases hw
  cases hc
  exact of_op (lay_op _ _ _ _ _ _) rfl

theorem vsari g d a n m : Statement (.vsari g d a n m) := by
  intro w c hw hc
  cases hw
  cases hc
  exact of_op (lay_op _ _ _ _ _ _) rfl

theorem vcmpeq g d a b m : Statement (.vcmpeq g d a b m) := by
  intro w c hw hc
  cases hw
  cases hc
  exact of_op (lay_op _ _ _ _ _ _) rfl

theorem vcmpne g d a b m : Statement (.vcmpne g d a b m) := by
  intro w c hw hc
  cases hw
  cases hc
  exact of_op (lay_op _ _ _ _ _ _) rfl

theorem vcmplt g d a b m : Statement (.vcmplt g d a b m) := by
  intro w c hw hc
  cases hw
  cases hc
  exact of_op (lay_op _ _ _ _ _ _) rfl

theorem vcmple g d a b m : Statement (.vcmple g d a b m) := by
  intro w c hw hc
  cases hw
  cases hc
  exact of_op (lay_op _ _ _ _ _ _) rfl

theorem vcmpltn g d a b m : Statement (.vcmpltn g d a b m) := by
  intro w c hw hc
  cases hw
  cases hc
  exact of_op (lay_op _ _ _ _ _ _) rfl

theorem vcmplen g d a b m : Statement (.vcmplen g d a b m) := by
  intro w c hw hc
  cases hw
  cases hc
  exact of_op (lay_op _ _ _ _ _ _) rfl

theorem vfcmpeq g f d a b m : Statement (.vfcmpeq g f d a b m) := by
  intro w c hw hc
  cases hw
  cases hc
  exact of_op (lay_op _ _ _ _ _ _) rfl

theorem vfcmplt g f d a b m : Statement (.vfcmplt g f d a b m) := by
  intro w c hw hc
  cases hw
  cases hc
  exact of_op (lay_op _ _ _ _ _ _) rfl

theorem vfcmple g f d a b m : Statement (.vfcmple g f d a b m) := by
  intro w c hw hc
  cases hw
  cases hc
  exact of_op (lay_op _ _ _ _ _ _) rfl

theorem mand g d a b : Statement (.mand g d a b) := by
  intro w c hw hc
  cases hw
  cases hc
  exact of_op (lay_op _ _ _ _ _ _) rfl

theorem mor g d a b : Statement (.mor g d a b) := by
  intro w c hw hc
  cases hw
  cases hc
  exact of_op (lay_op _ _ _ _ _ _) rfl

theorem mxor g d a b : Statement (.mxor g d a b) := by
  intro w c hw hc
  cases hw
  cases hc
  exact of_op (lay_op _ _ _ _ _ _) rfl

theorem mandn g d a b : Statement (.mandn g d a b) := by
  intro w c hw hc
  cases hw
  cases hc
  exact of_op (lay_op _ _ _ _ _ _) rfl

theorem mpop g d a m : Statement (.mpop g d a m) := by
  intro w c hw hc
  cases hw
  cases hc
  exact of_op (lay_op _ _ _ _ _ _) rfl

theorem mset g d a b : Statement (.mset g d a b) := by
  intro w c hw hc
  cases hw
  cases hc
  exact of_op (lay_op _ _ _ _ _ _) rfl

theorem msetRange g d a b : Statement (.msetRange g d a b) := by
  intro w c hw hc
  cases hw
  cases hc
  exact of_op (lay_op _ _ _ _ _ _) rfl

theorem msetPat g d x2 : Statement (.msetPat g d x2) := by
  intro w c hw hc
  cases hw
  cases hc
  exact of_op (lay_op _ _ _ _ _ _) rfl

theorem vburg g a m : Statement (.vburg g a m) := by
  intro w c hw hc
  cases hw
  cases hc
  exact of_op (lay_op _ _ _ _ _ _) rfl

theorem vfadd g d a b m : Statement (.vfadd g d a b m) := by
  intro w c hw hc
  cases hw
  cases hc
  exact of_op (lay_op _ _ _ _ _ _) rfl

theorem vfsub g d a b m : Statement (.vfsub g d a b m) := by
  intro w c hw hc
  cases hw
  cases hc
  exact of_op (lay_op _ _ _ _ _ _) rfl

theorem vfmul g d a b m : Statement (.vfmul g d a b m) := by
  intro w c hw hc
  cases hw
  cases hc
  exact of_op (lay_op _ _ _ _ _ _) rfl

theorem vfma g d a b m : Statement (.vfma g d a b m) := by
  intro w c hw hc
  cases hw
  cases hc
  exact of_op (lay_op _ _ _ _ _ _) rfl

theorem vfmin g d a b m : Statement (.vfmin g d a b m) := by
  intro w c hw hc
  cases hw
  cases hc
  exact of_op (lay_op _ _ _ _ _ _) rfl

theorem vfmax g d a b m : Statement (.vfmax g d a b m) := by
  intro w c hw hc
  cases hw
  cases hc
  exact of_op (lay_op _ _ _ _ _ _) rfl

theorem vbadd g d a b m : Statement (.vbadd g d a b m) := by
  intro w c hw hc
  cases hw
  cases hc
  exact of_op (lay_op _ _ _ _ _ _) rfl

theorem vbsub g d a b m : Statement (.vbsub g d a b m) := by
  intro w c hw hc
  cases hw
  cases hc
  exact of_op (lay_op _ _ _ _ _ _) rfl

theorem vbmul g d a b m : Statement (.vbmul g d a b m) := by
  intro w c hw hc
  cases hw
  cases hc
  exact of_op (lay_op _ _ _ _ _ _) rfl

theorem vbfma g d a b m : Statement (.vbfma g d a b m) := by
  intro w c hw hc
  cases hw
  cases hc
  exact of_op (lay_op _ _ _ _ _ _) rfl

theorem vbfmaRs g d a b m : Statement (.vbfmaRs g d a b m) := by
  intro w c hw hc
  cases hw
  cases hc
  exact of_op (lay_op _ _ _ _ _ _) rfl

theorem vcvt g d a k r m : Statement (.vcvt g d a k r m) := by
  intro w c hw hc
  cases hw
  cases hc
  exact of_op (lay_op _ _ _ _ _ _) rfl

theorem vqdxb g d a f z m : Statement (.vqdxb g d a f z m) := by
  intro w c hw hc
  cases hw
  cases hc
  exact of_op (lay_op _ _ _ _ _ _) rfl

theorem vdqdxb g d a f h m : Statement (.vdqdxb g d a f h m) := by
  intro w c hw hc
  cases hw
  cases hc
  exact of_op (lay_op _ _ _ _ _ _) rfl

theorem vqmx g d a f t m : Statement (.vqmx g d a f t m) := by
  intro w c hw hc
  cases hw
  cases hc
  exact of_op (lay_op _ _ _ _ _ _) rfl

theorem vdqmx g d a t f h m : Statement (.vdqmx g d a t f h m) := by
  intro w c hw hc
  cases hw
  cases hc
  exact of_op (lay_op _ _ _ _ _ _) rfl

theorem vexp g d a f m : Statement (.vexp g d a f m) := by
  intro w c hw hc
  cases hw
  cases hc
  exact of_op (lay_op _ _ _ _ _ _) rfl

theorem vlog g d a f m : Statement (.vlog g d a f m) := by
  intro w c hw hc
  cases hw
  cases hc
  exact of_op (lay_op _ _ _ _ _ _) rfl

theorem vrcp g d a f m : Statement (.vrcp g d a f m) := by
  intro w c hw hc
  cases hw
  cases hc
  exact of_op (lay_op _ _ _ _ _ _) rfl

theorem vrsqrt g d a f m : Statement (.vrsqrt g d a f m) := by
  intro w c hw hc
  cases hw
  cases hc
  exact of_op (lay_op _ _ _ _ _ _) rfl

theorem vsqrt g d a f m : Statement (.vsqrt g d a f m) := by
  intro w c hw hc
  cases hw
  cases hc
  exact of_op (lay_op _ _ _ _ _ _) rfl

theorem vtanh g d a f m : Statement (.vtanh g d a f m) := by
  intro w c hw hc
  cases hw
  cases hc
  exact of_op (lay_op _ _ _ _ _ _) rfl

theorem vsigm g d a f m : Statement (.vsigm g d a f m) := by
  intro w c hw hc
  cases hw
  cases hc
  exact of_op (lay_op _ _ _ _ _ _) rfl

theorem vsin g d a f m : Statement (.vsin g d a f m) := by
  intro w c hw hc
  cases hw
  cases hc
  exact of_op (lay_op _ _ _ _ _ _) rfl

theorem vcos g d a f m : Statement (.vcos g d a f m) := by
  intro w c hw hc
  cases hw
  cases hc
  exact of_op (lay_op _ _ _ _ _ _) rfl

theorem vfdiv g d a b m : Statement (.vfdiv g d a b m) := by
  intro w c hw hc
  cases hw
  cases hc
  exact of_op (lay_op _ _ _ _ _ _) rfl

theorem xpprob g d a b m : Statement (.xpprob g d a b m) := by
  intro w c hw hc
  cases hw
  cases hc
  exact of_op (lay_op _ _ _ _ _ _) rfl

theorem vxshl g d a k m : Statement (.vxshl g d a k m) := by
  intro w c hw hc
  cases hw
  cases hc
  exact of_op (lay_op _ _ _ _ _ _) rfl

theorem vxshr g d a k m : Statement (.vxshr g d a k m) := by
  intro w c hw hc
  cases hw
  cases hc
  exact of_op (lay_op _ _ _ _ _ _) rfl

theorem vxrotl g d a k m : Statement (.vxrotl g d a k m) := by
  intro w c hw hc
  cases hw
  cases hc
  exact of_op (lay_op _ _ _ _ _ _) rfl

theorem vxrotr g d a k m : Statement (.vxrotr g d a k m) := by
  intro w c hw hc
  cases hw
  cases hc
  exact of_op (lay_op _ _ _ _ _ _) rfl

theorem vxbcast g d a c m : Statement (.vxbcast g d a c m) := by
  intro w c hw hc
  cases hw
  cases hc
  exact of_op (lay_op _ _ _ _ _ _) rfl

theorem vredsum g d a f m : Statement (.vredsum g d a f m) := by
  intro w c hw hc
  cases hw
  cases hc
  exact of_op (lay_op _ _ _ _ _ _) rfl

theorem vredmin g d a t m : Statement (.vredmin g d a t m) := by
  intro w c hw hc
  cases hw
  cases hc
  exact of_op (lay_op _ _ _ _ _ _) rfl

theorem vredmax g d a t m : Statement (.vredmax g d a t m) := by
  intro w c hw hc
  cases hw
  cases hc
  exact of_op (lay_op _ _ _ _ _ _) rfl

theorem vredsumi g d a t m : Statement (.vredsumi g d a t m) := by
  intro w c hw hc
  cases hw
  cases hc
  exact of_op (lay_op _ _ _ _ _ _) rfl

theorem vscan g d a n u e m : Statement (.vscan g d a n u e m) := by
  intro w c hw hc
  cases hw
  cases hc
  exact of_op (lay_op _ _ _ _ _ _) rfl

theorem vperm g d a b m : Statement (.vperm g d a b m) := by
  intro w c hw hc
  cases hw
  cases hc
  exact of_op (lay_op _ _ _ _ _ _) rfl

theorem vslideup g d a k m : Statement (.vslideup g d a k m) := by
  intro w c hw hc
  cases hw
  cases hc
  exact of_op (lay_op _ _ _ _ _ _) rfl

theorem vslidedn g d a k m : Statement (.vslidedn g d a k m) := by
  intro w c hw hc
  cases hw
  cases hc
  exact of_op (lay_op _ _ _ _ _ _) rfl

theorem vcompress g d a m : Statement (.vcompress g d a m) := by
  intro w c hw hc
  cases hw
  cases hc
  exact of_op (lay_op _ _ _ _ _ _) rfl

theorem vexpand g d a m : Statement (.vexpand g d a m) := by
  intro w c hw hc
  cases hw
  cases hc
  exact of_op (lay_op _ _ _ _ _ _) rfl

theorem visect g d a b m : Statement (.visect g d a b m) := by
  intro w c hw hc
  cases hw
  cases hc
  exact of_op (lay_op _ _ _ _ _ _) rfl

theorem mma g z : Statement (.mma g z) := by
  intro w c hw hc
  cases hw
  cases hc
  exact of_op (lay_op _ _ _ _ _ _) rfl

theorem mmaZs g z : Statement (.mmaZs g z) := by
  intro w c hw hc
  cases hw
  cases hc
  exact of_op (lay_op _ _ _ _ _ _) rfl

theorem mmad g z : Statement (.mmad g z) := by
  intro w c hw hc
  cases hw
  cases hc
  exact of_op (lay_op _ _ _ _ _ _) rfl

theorem mmadZs g z : Statement (.mmadZs g z) := by
  intro w c hw hc
  cases hw
  cases hc
  exact of_op (lay_op _ _ _ _ _ _) rfl

theorem mmx g b a z : Statement (.mmx g b a z) := by
  intro w c hw hc
  cases hw
  cases hc
  exact of_op (lay_op _ _ _ _ _ _) rfl

theorem mmxZs g b a z : Statement (.mmxZs g b a z) := by
  intro w c hw hc
  cases hw
  cases hc
  exact of_op (lay_op _ _ _ _ _ _) rfl

theorem zclr g z : Statement (.zclr g z) := by
  intro w c hw hc
  cases hw
  cases hc
  exact of_op (lay_op _ _ _ _ _ _) rfl

theorem zld g a f z : Statement (.zld g a f z) := by
  intro w c hw hc
  cases hw
  cases hc
  exact of_op (lay_op _ _ _ _ _ _) rfl

theorem zst g a z : Statement (.zst g a z) := by
  intro w c hw hc
  cases hw
  cases hc
  exact of_op (lay_op _ _ _ _ _ _) rfl

theorem zstb g a r z : Statement (.zstb g a r z) := by
  intro w c hw hc
  cases hw
  cases hc
  exact of_op (lay_op _ _ _ _ _ _) rfl

theorem qdrop g a i : Statement (.qdrop g a i) := by
  intro w c hw hc
  cases hw
  cases hc
  exact of_op (layI_op _ _ _ _ _) rfl

theorem xfwd g d a k f p : Statement (.xfwd g d a k f p) := by
  intro w c hw hc
  cases hw
  cases hc
  exact of_op (lay_op _ _ _ _ _ _) rfl

theorem xbwd g d a k f p : Statement (.xbwd g d a k f p) := by
  intro w c hw hc
  cases hw
  cases hc
  exact of_op (lay_op _ _ _ _ _ _) rfl

theorem xupd g l a k p : Statement (.xupd g l a k p) := by
  intro w c hw hc
  cases hw
  cases hc
  exact of_op (lay_op _ _ _ _ _ _) rfl

theorem xxfer g l a k u w p : Statement (.xxfer g l a k u w p) := by
  intro w c hw hc
  cases hw
  cases hc
  exact of_op (lay_op _ _ _ _ _ _) rfl

theorem xwin g a k p : Statement (.xwin g a k p) := by
  intro w c hw hc
  cases hw
  cases hc
  exact of_op (lay_op _ _ _ _ _ _) rfl

theorem xwinX g w k p x4 : Statement (.xwinX g w k p x4) := by
  intro w c hw hc
  cases hw
  cases hc
  exact of_op (lay_op _ _ _ _ _ _) rfl

theorem xgain g a k p : Statement (.xgain g a k p) := by
  intro w c hw hc
  cases hw
  cases hc
  exact of_op (lay_op _ _ _ _ _ _) rfl

theorem xseed g a k p : Statement (.xseed g a k p) := by
  intro w c hw hc
  cases hw
  cases hc
  exact of_op (lay_op _ _ _ _ _ _) rfl

theorem xrst g l k p : Statement (.xrst g l k p) := by
  intro w c hw hc
  cases hw
  cases hc
  exact of_op (lay_op _ _ _ _ _ _) rfl

theorem xstat g d k u p : Statement (.xstat g d k u p) := by
  intro w c hw hc
  cases hw
  cases hc
  exact of_op (lay_op _ _ _ _ _ _) rfl

theorem ld g d a b u x5 : Statement (.ld g d a b u x5) := by
  intro w c hw hc
  cases hw
  cases hc
  exact of_op (lay_op _ _ _ _ _ _) rfl

theorem st g d a b u x5 : Statement (.st g d a b u x5) := by
  intro w c hw hc
  cases hw
  cases hc
  exact of_op (lay_op _ _ _ _ _ _) rfl

theorem vld g d a b x4 : Statement (.vld g d a b x4) := by
  intro w c hw hc
  cases hw
  cases hc
  exact of_op (lay_op _ _ _ _ _ _) rfl

theorem vldBc g d a b x4 : Statement (.vldBc g d a b x4) := by
  intro w c hw hc
  cases hw
  cases hc
  exact of_op (lay_op _ _ _ _ _ _) rfl

theorem vst g d a b x4 : Statement (.vst g d a b x4) := by
  intro w c hw hc
  cases hw
  cases hc
  exact of_op (lay_op _ _ _ _ _ _) rfl

theorem vldb g d a b t x5 : Statement (.vldb g d a b t x5) := by
  intro w c hw hc
  cases hw
  cases hc
  exact of_op (lay_op _ _ _ _ _ _) rfl

theorem vstb g d a b t x5 : Statement (.vstb g d a b t x5) := by
  intro w c hw hc
  cases hw
  cases hc
  exact of_op (lay_op _ _ _ _ _ _) rfl

theorem gath g d a b c : Statement (.gath g d a b c) := by
  intro w c hw hc
  cases hw
  cases hc
  exact of_op (lay_op _ _ _ _ _ _) rfl

theorem scat g d a b c : Statement (.scat g d a b c) := by
  intro w c hw hc
  cases hw
  cases hc
  exact of_op (lay_op _ _ _ _ _ _) rfl

theorem drain g : Statement (.drain g) := by
  intro w c hw hc
  cases hw
  cases hc
  exact of_op (lay_op _ _ _ _ _ _) rfl

theorem msend g d a b : Statement (.msend g d a b) := by
  intro w c hw hc
  cases hw
  cases hc
  exact of_op (lay_op _ _ _ _ _ _) rfl

theorem mcast g d a b : Statement (.mcast g d a b) := by
  intro w c hw hc
  cases hw
  cases hc
  exact of_op (lay_op _ _ _ _ _ _) rfl

theorem dsend g d a b : Statement (.dsend g d a b) := by
  intro w c hw hc
  cases hw
  cases hc
  exact of_op (lay_op _ _ _ _ _ _) rfl

theorem qld g n q a x4 : Statement (.qld g n q a x4) := by
  intro w c hw hc
  cases hw
  cases hc
  exact of_op (lay_op _ _ _ _ _ _) rfl

theorem qldDxb8 g n q a b x5 : Statement (.qldDxb8 g n q a b x5) := by
  intro w c hw hc
  cases hw
  cases hc
  exact of_op (lay_op _ _ _ _ _ _) rfl

theorem qldMx8 g n q a b x5 : Statement (.qldMx8 g n q a b x5) := by
  intro w c hw hc
  cases hw
  cases hc
  exact of_op (lay_op _ _ _ _ _ _) rfl

theorem hrd g d a b x4 : Statement (.hrd g d a b x4) := by
  intro w c hw hc
  cases hw
  cases hc
  exact of_op (lay_op _ _ _ _ _ _) rfl

theorem hrdQ g q a b x4 : Statement (.hrdQ g q a b x4) := by
  intro w c hw hc
  cases hw
  cases hc
  exact of_op (lay_op _ _ _ _ _ _) rfl

theorem hrdg g d a b : Statement (.hrdg g d a b) := by
  intro w c hw hc
  cases hw
  cases hc
  exact of_op (lay_op _ _ _ _ _ _) rfl

theorem hrdgQ g q a b : Statement (.hrdgQ g q a b) := by
  intro w c hw hc
  cases hw
  cases hc
  exact of_op (lay_op _ _ _ _ _ _) rfl

theorem hrdt g q a b : Statement (.hrdt g q a b) := by
  intro w c hw hc
  cases hw
  cases hc
  exact of_op (lay_op _ _ _ _ _ _) rfl

theorem hwr g d a b x4 : Statement (.hwr g d a b x4) := by
  intro w c hw hc
  cases hw
  cases hc
  exact of_op (lay_op _ _ _ _ _ _) rfl

theorem cfill g f a b : Statement (.cfill g f a b) := by
  intro w c hw hc
  cases hw
  cases hc
  exact of_op (lay_op _ _ _ _ _ _) rfl

theorem acpy g t a e k : Statement (.acpy g t a e k) := by
  intro w c hw hc
  cases hw
  cases hc
  exact of_op (lay_op _ _ _ _ _ _) rfl

theorem aatom g t a e k : Statement (.aatom g t a e k) := by
  intro w c hw hc
  cases hw
  cases hc
  exact of_op (lay_op _ _ _ _ _ _) rfl

theorem ared g t a e k : Statement (.ared g t a e k) := by
  intro w c hw hc
  cases hw
  cases hc
  exact of_op (lay_op _ _ _ _ _ _) rfl

theorem arestripe g t a e k : Statement (.arestripe g t a e k) := by
  intro w c hw hc
  cases hw
  cases hc
  exact of_op (lay_op _ _ _ _ _ _) rfl

theorem acoll g t a e k : Statement (.acoll g t a e k) := by
  intro w c hw hc
  cases hw
  cases hc
  exact of_op (lay_op _ _ _ _ _ _) rfl

theorem amcast g t a e k : Statement (.amcast g t a e k) := by
  intro w c hw hc
  cases hw
  cases hc
  exact of_op (lay_op _ _ _ _ _ _) rfl

theorem xckpt g t a e k : Statement (.xckpt g t a e k) := by
  intro w c hw hc
  cases hw
  cases hc
  exact of_op (lay_op _ _ _ _ _ _) rfl

theorem xprog g t a e k : Statement (.xprog g t a e k) := by
  intro w c hw hc
  cases hw
  cases hc
  exact of_op (lay_op _ _ _ _ _ _) rfl

theorem xcal g t a e k : Statement (.xcal g t a e k) := by
  intro w c hw hc
  cases hw
  cases hc
  exact of_op (lay_op _ _ _ _ _ _) rfl

theorem xsym g t a e k : Statement (.xsym g t a e k) := by
  intro w c hw hc
  cases hw
  cases hc
  exact of_op (lay_op _ _ _ _ _ _) rfl

theorem barinit g t a e k : Statement (.barinit g t a e k) := by
  intro w c hw hc
  cases hw
  cases hc
  exact of_op (lay_op _ _ _ _ _ _) rfl

theorem bararv g t a e k : Statement (.bararv g t a e k) := by
  intro w c hw hc
  cases hw
  cases hc
  exact of_op (lay_op _ _ _ _ _ _) rfl

theorem barwait g t a e k : Statement (.barwait g t a e k) := by
  intro w c hw hc
  cases hw
  cases hc
  exact of_op (lay_op _ _ _ _ _ _) rfl

theorem fence g t u e k : Statement (.fence g t u e k) := by
  intro w c hw hc
  cases hw
  cases hc
  exact of_op (lay_op _ _ _ _ _ _) rfl

theorem bundleFetch : Statement .bundleFetch := fun _ _ h _ => nomatch h

theorem emptyBundle : Statement .emptyBundle := fun _ _ h _ => nomatch h

theorem halyardBeat : Statement .halyardBeat := fun _ _ h _ => nomatch h

theorem resultLand : Statement .resultLand := fun _ _ h _ => nomatch h

theorem drawCounterAdvance : Statement .drawCounterAdvance := fun _ _ h _ => nomatch h

theorem storePerform : Statement .storePerform := fun _ _ h _ => nomatch h

theorem branchTakenRedirect : Statement .branchTakenRedirect := fun _ _ h _ => nomatch h

theorem loopIterationStep : Statement .loopIterationStep := fun _ _ h _ => nomatch h

theorem hoistEntry : Statement .hoistEntry := fun _ _ h _ => nomatch h

theorem contextSwitchStart : Statement .contextSwitchStart := fun _ _ h _ => nomatch h

theorem meshFlitDelivery : Statement .meshFlitDelivery := fun _ _ h _ => nomatch h

theorem crossDieDelivery : Statement .crossDieDelivery := fun _ _ h _ => nomatch h

theorem ucieFlitRetry : Statement .ucieFlitRetry := fun _ _ h _ => nomatch h

theorem hbmLineCommand : Statement .hbmLineCommand := fun _ _ h _ => nomatch h

theorem hbmLineLand : Statement .hbmLineLand := fun _ _ h _ => nomatch h

theorem hbmLinePerform : Statement .hbmLinePerform := fun _ _ h _ => nomatch h

theorem fifoPositionLand : Statement .fifoPositionLand := fun _ _ h _ => nomatch h

theorem codeFrameFillComplete : Statement .codeFrameFillComplete := fun _ _ h _ => nomatch h

theorem mmaAccumulatorLand : Statement .mmaAccumulatorLand := fun _ _ h _ => nomatch h

theorem arrayReadResult : Statement .arrayReadResult := fun _ _ h _ => nomatch h

theorem arrayPulseSlot : Statement .arrayPulseSlot := fun _ _ h _ => nomatch h

theorem transferDigitalPhase : Statement .transferDigitalPhase := fun _ _ h _ => nomatch h

theorem trainComplete : Statement .trainComplete := fun _ _ h _ => nomatch h

theorem engineCommandStart : Statement .engineCommandStart := fun _ _ h _ => nomatch h

theorem arrayEngineStart : Statement .arrayEngineStart := fun _ _ h _ => nomatch h

theorem engineCommandCompletion : Statement .engineCommandCompletion := fun _ _ h _ => nomatch h

theorem reductionEpochClose : Statement .reductionEpochClose := fun _ _ h _ => nomatch h

theorem burgeeVerdict : Statement .burgeeVerdict := fun _ _ h _ => nomatch h

theorem peerTimeout : Statement .peerTimeout := fun _ _ h _ => nomatch h

theorem staleForwardingExpiry : Statement .staleForwardingExpiry := fun _ _ h _ => nomatch h

theorem fabricFlitReceive : Statement .fabricFlitReceive := fun _ _ h _ => nomatch h

theorem hostBar4Access : Statement .hostBar4Access := fun _ _ h _ => nomatch h

theorem hostAtomicop : Statement .hostAtomicop := fun _ _ h _ => nomatch h

theorem doorbellWrite : Statement .doorbellWrite := fun _ _ h _ => nomatch h

theorem candidateAdmission : Statement .candidateAdmission := fun _ _ h _ => nomatch h

theorem dispatchDecision : Statement .dispatchDecision := fun _ _ h _ => nomatch h

theorem pagesResolved : Statement .pagesResolved := fun _ _ h _ => nomatch h

theorem sliceDispatch : Statement .sliceDispatch := fun _ _ h _ => nomatch h

theorem sliceCompletion : Statement .sliceCompletion := fun _ _ h _ => nomatch h

theorem graphKernelNode : Statement .graphKernelNode := fun _ _ h _ => nomatch h

theorem graphCondNode : Statement .graphCondNode := fun _ _ h _ => nomatch h

theorem graphLoopNode : Statement .graphLoopNode := fun _ _ h _ => nomatch h

theorem graphWaitNode : Statement .graphWaitNode := fun _ _ h _ => nomatch h

theorem graphWaitPoll : Statement .graphWaitPoll := fun _ _ h _ => nomatch h

theorem graphSignalNode : Statement .graphSignalNode := fun _ _ h _ => nomatch h

theorem graphStepLimit : Statement .graphStepLimit := fun _ _ h _ => nomatch h

theorem cpLockstepMismatch : Statement .cpLockstepMismatch := fun _ _ h _ => nomatch h

theorem cpRestartComplete : Statement .cpRestartComplete := fun _ _ h _ => nomatch h

theorem queueUnpark : Statement .queueUnpark := fun _ _ h _ => nomatch h

theorem translationInvalidate : Statement .translationInvalidate := fun _ _ h _ => nomatch h

theorem seqLockstepMismatch : Statement .seqLockstepMismatch := fun _ _ h _ => nomatch h

theorem rewind : Statement .rewind := fun _ _ h _ => nomatch h

theorem sliceFailureCompletion : Statement .sliceFailureCompletion := fun _ _ h _ => nomatch h

theorem preemptRequest : Statement .preemptRequest := fun _ _ h _ => nomatch h

theorem preemptFreeze : Statement .preemptFreeze := fun _ _ h _ => nomatch h

theorem safePointWatchdogExpiry : Statement .safePointWatchdogExpiry := fun _ _ h _ => nomatch h

theorem contextSaveComplete : Statement .contextSaveComplete := fun _ _ h _ => nomatch h

theorem contextRestore : Statement .contextRestore := fun _ _ h _ => nomatch h

theorem gangRestart : Statement .gangRestart := fun _ _ h _ => nomatch h

theorem thermalTrip : Statement .thermalTrip := fun _ _ h _ => nomatch h

theorem thermalTripClear : Statement .thermalTripClear := fun _ _ h _ => nomatch h

theorem pairThermalHold : Statement .pairThermalHold := fun _ _ h _ => nomatch h

theorem pairRetire : Statement .pairRetire := fun _ _ h _ => nomatch h

theorem geometryDrainBegin : Statement .geometryDrainBegin := fun _ _ h _ => nomatch h

theorem geoctlAck : Statement .geoctlAck := fun _ _ h _ => nomatch h

theorem pwrlimWrite : Statement .pwrlimWrite := fun _ _ h _ => nomatch h

theorem wdogWrite : Statement .wdogWrite := fun _ _ h _ => nomatch h

theorem calperWrite : Statement .calperWrite := fun _ _ h _ => nomatch h

theorem registerWrite : Statement .registerWrite := fun _ _ h _ => nomatch h

theorem calibrationTimer : Statement .calibrationTimer := fun _ _ h _ => nomatch h

theorem moduleReset : Statement .moduleReset := fun _ _ h _ => nomatch h

theorem getVersion : Statement .getVersion := fun _ _ h _ => nomatch h

theorem getCapabilities : Statement .getCapabilities := fun _ _ h _ => nomatch h

theorem negotiateAlgorithms : Statement .negotiateAlgorithms := fun _ _ h _ => nomatch h

theorem getDigests : Statement .getDigests := fun _ _ h _ => nomatch h

theorem getCertificate : Statement .getCertificate := fun _ _ h _ => nomatch h

theorem challenge : Statement .challenge := fun _ _ h _ => nomatch h

theorem getMeasurements : Statement .getMeasurements := fun _ _ h _ => nomatch h

theorem pldmBaseDiscovery : Statement .pldmBaseDiscovery := fun _ _ h _ => nomatch h

theorem pldmPlatformMonitoring : Statement .pldmPlatformMonitoring := fun _ _ h _ => nomatch h

theorem pldmFirmwareUpdate : Statement .pldmFirmwareUpdate := fun _ _ h _ => nomatch h

theorem readFaults : Statement .readFaults := fun _ _ h _ => nomatch h

theorem readGeometry : Statement .readGeometry := fun _ _ h _ => nomatch h

theorem regAccess : Statement .regAccess := fun _ _ h _ => nomatch h

theorem resetDie : Statement .resetDie := fun _ _ h _ => nomatch h

theorem resetModule : Statement .resetModule := fun _ _ h _ => nomatch h

theorem targWrite : Statement .targWrite := fun _ _ h _ => nomatch h

theorem powerLoss : Statement .powerLoss := fun _ _ h _ => nomatch h

theorem fabricUp : Statement .fabricUp := fun _ _ h _ => nomatch h

end Assigned

end Sys2Proof.Laws
end

