-- ==== Sys2Proof/Tests/Slice0.lean ====
section
/-! SUPPORT. Tests: ill-formed terms refused, words written from the spec's tables decoded, single steps with results worked by
hand from the rules, and for each statement a state and operands that meet its hypotheses. -/

set_option maxRecDepth 100000
set_option Elab.async false

namespace Sys2Proof.Tests

open Sys2Proof Sys2Proof.Machine Sys2Proof.Machine.State

/-! ### Operand values that no encoding admits (R79), one term for each check -/

theorem test_refused_scalar_operands :
    [Instr.add 0 32 0 0 0, .add 0 0 32 0 0, .add 0 0 0 32 0, .add 0 0 0 0 7, .shli 0 0 0 64, .sxt 0 0 0 3, .cmp 0 16 0 0 0,
      .pand 0 16 0 0, .pand 0 0 16 0, .pand 0 0 0 16, .pget 0 0 16, .fadd 0 0 0 0 4, .faddBf16 0 0 0 0 5, .ficvt 0 0 0 0 0 4,
      .ifcvt 0 0 0 0 0 4, .ifcvt 0 0 0 1 0 5, .loop 0 0 0xFFFF, .loopg 0 0 0 (.short 0), .loopg 0 0 0 (.ext 0x10000),
      .mfs 0 0 0x0F, .mfs 0 0 0x14, .mts 0 0x0F 0, .mtsi 0 0x14 (.short 0)].all (fun i => !(i.wellFormed 8)) = true := by decide

theorem test_refused_vector_operands :
    [Instr.vabs 0 0 0 4 0, .vmovScalar 0 0 32 0, .mand 0 8 0 0, .mand 0 0 8 0, .mpop 0 32 0 0, .mset 0 8 0 0, .msetPat 0 8 0,
      .vcvt 0 0 0 0 5 0, .vcvt 0 0 0 1 1 0, .vcvt 0 0 0 2 4 0, .vqdxb 0 0 1 0 0 0, .vqmx 0 0 63 0 0 0, .xpprob 0 0 0 32 0,
      .vredsum 0 32 0 0 0].all (fun i => !(i.wellFormed 8)) = true := by decide

theorem test_refused_matrix_and_memory_operands :
    [Instr.mma 0 4, .zld 0 32 0 0, .zld 0 0 0 4, .zstb 0 0 5 0, .qdrop 0 2 0, .qdrop 0 0 65, .xupd 0 0 0 0 0, .xrst 0 0 0 0,
      .xxfer 0 0 0 0 0 0 0, .xstat 0 0 0 6 0, .ld 0 0 0 0 7 none, .st 0 0 0 0 4 none, .acpy 0 0 32 0 0, .acpy 0 0 0 0 1,
      .fence 0 0 5 0 0, .fence 0 0 0 0 1].all (fun i => !(i.wellFormed 4)) = true := by decide

theorem test_refused_bounds_are_exact :
    [Instr.add 0 31 31 31 6, .shli 0 0 0 63, .sxt 0 0 0 2, .cmp 0 15 31 31 7, .pand 0 15 15 15, .fadd 0 0 0 0 3, .faddBf16 0 0 0 0 4,
      .ifcvt 0 0 0 1 0 4, .loop 0 0 0x10000, .loopg 0 0 0 (.ext 0xFFFF), .mfs 0 0 0x0E, .mfs 0 0 0x10, .mfs 0 0 0x13, .vabs 0 0 0 3 0,
      .mand 0 7 7 7, .vqdxb 0 0 62 0 0 0, .mma 0 3, .qdrop 0 1 64, .xstat 0 0 0 5 0, .ld 0 0 0 0 6 none, .fence 0 0 4 1 15].all
        (fun i => i.wellFormed 4) = true := by decide

/-! ### Words laid out by R77 and R78: op, guard, d, a, b, mod -/

theorem test_decode_integer :
    decodeSlot 8 0 (0x00#7 ++ 3#4 ++ 5#6 ++ 6#6 ++ 7#6 ++ 4#3) none = .ok (.add 3 5 6 7 4) ∧
    decodeSlot 8 0 (0x03#7 ++ 0#4 ++ 31#6 ++ 1#6 ++ 2#6 ++ 0#3) none = .ok (.or 0 31 1 2) ∧
    decodeSlot 8 0 (0x0E#7 ++ 0#4 ++ 1#6 ++ 2#6 ++ 3#6 ++ 4#3) none = .ok (.sel 0 1 2 3 4) ∧
    decodeSlot 8 0 (0x14#7 ++ 0#4 ++ 1#6 ++ 2#6 ++ 63#9) none = .ok (.shli 0 1 2 63) ∧
    decodeSlot 8 0 (0x19#7 ++ 0#4 ++ 1#6 ++ 2#6 ++ 0#9) (some 0xDEADBEEF) = .ok (.movhi 0 1 2 0xDEADBEEF) ∧
    decodeSlot 8 0 (0x19#7 ++ 0#4 ++ 1#6 ++ 2#6 ++ 0#9) none = .error 0x0C ∧
    decodeSlot 8 0 (0x24#7 ++ 0#4 ++ 1#6 ++ 2#6 ++ 3#6 ++ 0#3) none = .ok (.div 0 1 2 3) ∧
    decodeSlot 8 0 (0x24#7 ++ 0#4 ++ 1#6 ++ 2#6 ++ 3#6 ++ 1#3) none = .error 0x0A := by decide

theorem test_decode_predicates_and_float :
    decodeSlot 8 0 (0x34#7 ++ 0#4 ++ 0#6 ++ 9#6 ++ 0#6 ++ 1#3) none = .ok (.psetAll 0 9) ∧
    decodeSlot 8 0 (0x35#7 ++ 0#4 ++ 9#6 ++ 0#6 ++ 0#6 ++ 1#3) none = .ok (.pgetAll 0 9) ∧
    decodeSlot 8 0 (0x36#7 ++ 0#4 ++ 1#6 ++ 2#6 ++ 3#6 ++ 3#3) none = .ok (.fadd 0 1 2 3 3) ∧
    decodeSlot 8 0 (0x76#7 ++ 0#4 ++ 1#6 ++ 2#6 ++ 3#6 ++ 4#3) none = .ok (.faddBf16 0 1 2 3 4) ∧
    decodeSlot 8 0 (0x3E#7 ++ 0#4 ++ 15#6 ++ 2#6 ++ 3#6 ++ 3#3) none = .ok (.fcmp 0 15 2 3 3) ∧
    decodeSlot 8 0 (0x4C#7 ++ 0#4 ++ 1#6 ++ 2#6 ++ 0#2 ++ 1#1 ++ 5#3 ++ 2#3) none = .ok (.ficvt 0 1 2 1 5 2) := by decide

theorem test_decode_control_and_system :
    decodeSlot 8 0 (0x40#7 ++ 2#4 ++ 0#12 ++ 0x1F0#9) none = .ok (.br 2 (.short 0x1F0)) ∧
    decodeSlot 8 0 (0x44#7 ++ 0#4 ++ 0#5 ++ 1#1 ++ 0#15) (some 0x00200004) = .ok (.loop 0 1 0x00200004) ∧
    decodeSlot 8 0 (0x46#7 ++ 0#4 ++ 0#12 ++ 100#9) none = .ok (.pin 0 (.short 100)) ∧
    decodeSlot 8 0 (0x49#7 ++ 0#4 ++ 3#6 ++ 0x0B#6 ++ 0#9) none = .ok (.mfs 0 3 0x0B) ∧
    decodeSlot 8 0 (0x49#7 ++ 0#4 ++ 3#6 ++ 0x0F#6 ++ 0#9) none = .error 0x0B ∧
    decodeSlot 8 0 (0x53#7 ++ 0#4 ++ 0#12 ++ 511#9) none = .ok (.trap 0 511) ∧
    decodeSlot 8 0 (0x2A#7 ++ 0#25) none = .error 0x08 := by decide

theorem test_decode_vector :
    decodeSlot 8 2 (0x0F#7 ++ 0#4 ++ 63#6 ++ 62#6 ++ 61#6 ++ 7#3) none = .ok (.vsar 0 63 62 61 7) ∧
    decodeSlot 8 1 (0x1D#7 ++ 0#4 ++ 5#6 ++ 0x800#12 ++ 2#3) none = .ok (.vmovi 0 5 (.short 0x800) 2) ∧
    decodeSlot 8 1 (0x26#7 ++ 0#4 ++ 0#2 ++ 1#1 ++ 3#3 ++ 7#6 ++ 8#6 ++ 2#3) none = .ok (.vfcmpeq 0 1 3 7 8 2) ∧
    decodeSlot 8 1 (0x3B#7 ++ 0#4 ++ 1#6 ++ 2#6 ++ 3#3 ++ 2#3 ++ 1#3) none = .ok (.vcvt 0 1 2 3 2 1) ∧
    decodeSlot 8 1 (0x60#7 ++ 0#4 ++ 1#6 ++ 2#6 ++ 0#5 ++ 1#1 ++ 3#3) none = .ok (.vredsum 0 1 2 1 3) ∧
    decodeSlot 8 1 (0x52#7 ++ 0#4 ++ 1#6 ++ 2#6 ++ 0#3 ++ 3#3 ++ 0#3) none = .error 0x09 ∧
    decodeSlot 8 2 (0x52#7 ++ 0#4 ++ 1#6 ++ 2#6 ++ 0#3 ++ 3#3 ++ 0#3) none = .ok (.vxrotl 0 1 2 3 0) := by decide

theorem test_decode_matrix_and_array :
    decodeSlot 4 3 (0x00#7 ++ 0#4 ++ 0#18 ++ 3#3) none = .ok (.mma 0 3) ∧
    decodeSlot 4 3 (0x00#7 ++ 0#4 ++ 0#18 ++ 4#3) none = .error 0x0B ∧
    decodeSlot 8 3 (0x0A#7 ++ 0#4 ++ 0#6 ++ 1#6 ++ 64#9) none = .ok (.qdrop 0 1 64) ∧
    decodeSlot 8 3 (0x10#7 ++ 0#4 ++ 1#6 ++ 2#6 ++ 1#1 ++ 0#4 ++ 1#1 ++ 5#3) none = .ok (.xfwd 0 1 2 1 1 5) ∧
    decodeSlot 8 3 (0x14#7 ++ 0#4 ++ 0xA#6 ++ 0#6 ++ 0#1 ++ 0#5 ++ 2#3) (some 0x12345678) = .ok (.xwinX 0 0xA 0 2 0x12345678) ∧
    decodeSlot 8 3 (0x17#7 ++ 0#4 ++ 3#6 ++ 0#6 ++ 1#1 ++ 0#5 ++ 7#3) none = .ok (.xrst 0 3 1 7) := by decide

theorem test_decode_memory_and_commands :
    decodeSlot 8 4 (0x00#7 ++ 0#4 ++ 1#6 ++ 2#6 ++ 3#6 ++ 6#3) (some 0xFFFFFFF8) = .ok (.ld 0 1 2 3 6 (some 0xFFFFFFF8)) ∧
    decodeSlot 8 5 (0x01#7 ++ 0#4 ++ 1#6 ++ 2#6 ++ 3#6 ++ 3#3) none = .ok (.st 0 1 2 3 3 none) ∧
    decodeSlot 8 4 (0x10#7 ++ 0#4 ++ 1#6 ++ 2#6 ++ 3#6 ++ 0#3) none = .error 0x09 ∧
    decodeSlot 8 5 (0x10#7 ++ 0#4 ++ 1#6 ++ 2#6 ++ 3#6 ++ 0#3) none = .ok (.msend 0 1 2 3) ∧
    decodeSlot 8 4 (0x20#7 ++ 0#4 ++ 1#6 ++ 2#6 ++ 3#6 ++ 0#3) none = .ok (.hrd 0 1 2 3 none) ∧
    decodeSlot 8 4 (0x30#7 ++ 0#4 ++ 63#6 ++ 31#6 ++ 0#1 ++ 1#1 ++ 15#4 ++ 0#3) none = .ok (.acpy 0 63 31 1 15) ∧
    decodeSlot 8 4 (0x3D#7 ++ 0#4 ++ 63#6 ++ 0#3 ++ 4#3 ++ 0#1 ++ 0#1 ++ 0#4 ++ 0#3) none = .ok (.fence 0 63 4 0 0) := by decide

/-! ### States for the tests -/

/-- A context of tile 0 whose next bundle is for beat 100, with every pair granted. -/
def busy : Ctx :=
  { run := .running
    part := lonePart
    nextAt := 100
    rs := true
    sc := true
    xgrant := BitVec.allOnes 32 }

/-- The machine at beat 100 with that context alone, issuing. -/
def lone (x : Ctx := busy) (ev : List Nat := []) : State :=
  { State.reset with
    beat := 100
    boot := .over
    ctxs := [(0, x)]
    gangs := [(0, loneGang 0)]
    frames := [(0, ⟨some 0, true⟩)]
    ev := ev }

/-- The same with values in general registers. -/
def withG (g : Table Word) : State := lone { busy with regs := { g := g } }

/-- An item of that context in flight whose beat has come, and the state that is about to take it. -/
def item (a : Act) : Item := ⟨100, 0, 0, 0, 90, false, a, 0, false⟩
def flying (a : Act) : State := lone { busy with items := [item a] } [0, 0]

theorem test_flying_is_due (a : Act) : (flying a).due 0 0 (item a) := ⟨rfl, rfl, rfl, rfl⟩

/-- Whether reservations are free, as a value. -/
def freeB : List (Res × Nat × Word) → State → Bool
  | [], _ => true
  | (r, b, _) :: l, s => (s.holder r b).isNone && freeB l (s.addClaim r b)

theorem freeFor_of_freeB {l : List (Res × Nat × Word)} {s : State} (h : freeB l s = true) : freeFor l s := by
  induction l generalizing s with
  | nil => trivial
  | cons x l ih =>
    obtain ⟨r, b, w⟩ := x
    rw [freeB, Bool.and_eq_true] at h
    exact ⟨Option.isNone_iff_eq_none.mp h.1, ih h.2⟩

/-- The number of a bank reservation, by beat, tile and bank; and whether the numbers of a list rise from a bound, and to which. -/
def code (r : Res) (b : Nat) : Option Nat :=
  match r with
  | .bank t k => if t < 1024 ∧ k < 16 then some ((b * 1024 + t) * 16 + k) else none
  | _ => none

def rise : Nat → List (Res × Nat × Word) → Option Nat
  | lo, [] => some lo
  | lo, (r, b, _) :: l =>
    match code r b with
    | some n => if lo ≤ n then rise (n + 1) l else none
    | none => none

/-- Every reservation of the gang has a number below a bound. -/
def Below (lo : Nat) (s : State) : Prop := ∀ c ∈ s.myGang.claims, ∃ n, code c.res c.beat = some n ∧ n < lo

theorem myGang_addClaim (s : State) (r : Res) (b : Nat) : (s.addClaim r b).myGang.claims =
    ⟨r, b, s.cur.ctx, s.cur.slot, s.beat, s.hcyc s.cur.ctx⟩ :: (s.myGang.claims.filter fun c => s.beat ≤ c.beat) := by
  simp [addClaim, modGang, setGang, myGang, gang, me, ctx, tget_tset_same]

theorem freeFor_of_rise {l : List (Res × Nat × Word)} {lo hi : Nat} {s : State} (h : rise lo l = some hi) (hs : Below lo s) :
    freeFor l s ∧ Below hi (reserved l s) := by
  induction l generalizing s lo with
  | nil => cases h; exact ⟨trivial, hs⟩
  | cons x l ih =>
    obtain ⟨r, b, w⟩ := x
    rw [rise] at h
    cases hc : code r b with
    | none => simp [hc] at h
    | some n =>
      simp only [hc] at h
      split at h
      case isFalse => cases h
      case isTrue hn =>
        have hb : Below (n + 1) (s.addClaim r b) := by
          intro c hm
          rw [myGang_addClaim] at hm
          rcases List.mem_cons.mp hm with rfl | hm
          · exact ⟨n, hc, Nat.lt_succ_self n⟩
          · obtain ⟨k, h1, h2⟩ := hs c (List.mem_filter.mp hm).1
            exact ⟨k, h1, by omega⟩
        have := ih h hb
        refine ⟨⟨?_, this.1⟩, this.2⟩
        have hr : s.rivals r = s.myGang.claims := by cases r <;> first | rfl | simp [code] at hc
        rw [holder, hr, List.find?_eq_none]
        intro c hm hx
        simp only [Bool.and_eq_true, decide_eq_true_eq] at hx
        obtain ⟨k, h1, h2⟩ := hs c hm
        rw [hx.1, hx.2, hc] at h1
        cases h1
        omega

/-- Rising reservations are free where the gang has none. -/
theorem free1 {l : List (Res × Nat × Word)} {s : State} (h : (rise 0 l).isSome = true) (hs : s.myGang.claims = []) : freeFor l s := by
  obtain ⟨hi, h⟩ := Option.isSome_iff_exists.mp h
  exact (freeFor_of_rise h (by simp [Below, hs])).1

/-- The same for a second list, after a first. -/
theorem free2 {l m : List (Res × Nat × Word)} {s : State} (h : ((rise 0 l).bind fun n => rise n m).isSome = true)
    (hs : s.myGang.claims = []) : freeFor m (reserved l s) := by
  obtain ⟨hi, h⟩ := Option.isSome_iff_exists.mp h
  obtain ⟨n, h1, h2⟩ := Option.bind_eq_some_iff.mp h
  exact (freeFor_of_rise h2 (freeFor_of_rise h1 (by simp [Below, hs])).2).1

def linesB : List Located → State → Bool
  | [], _ => true
  | (_, n, h, _) :: l, s => !(lineBad s.geom s.myGang.lines h.unit h.bank (s.beat + n)) && linesB l (s.addLine h (s.beat + n))

theorem linesFree_of_linesB {l : List Located} {s : State} (h : linesB l s = true) : linesFree l s := by
  induction l generalizing s with
  | nil => trivial
  | cons x l ih =>
    obtain ⟨a, n, b, c⟩ := x
    rw [linesB, Bool.and_eq_true, Bool.not_eq_true'] at h
    exact ⟨h.1, ih h.2⟩

/-! ### Hypotheses are met: encodings and the step -/

theorem test_witness_EncodeThenDecode :
    ((Instr.or 0 0 0 0).wellFormed 8 = true ∧ encode (.or 0 0 0 0) = some (.S, 0x06000000, none) ∧ slotClass 0 = .S ∧
      slotForbidden 0 3 = false) ∧
    ((Instr.vxrotl 0 63 62 7 7).wellFormed 8 = true ∧ slotClass 2 = .V ∧ slotForbidden 2 0x52 = false ∧
      encode (.vxrotl 0 63 62 7 7) = some (.V, 0x52#7 ++ 0#4 ++ 63#6 ++ 62#6 ++ 7#6 ++ 7#3, none)) := by decide +kernel

theorem test_witness_DecodeThenEncode :
    (decodeSlot 8 0 0x30010000 (some 0xFFFFFFFF) = .ok (.movi 0 2 (.ext 0xFFFFFFFF)) ∧ xForm (slotClass 0) 0x18 = true) ∧
    decodeSlot 8 1 (0x2E#7 ++ 0#4 ++ 1#6 ++ 2#6 ++ 3#6 ++ 0#3) (some 5) = .ok (.mset 0 1 2 3) := by decide +kernel

/-- A template byte at an address of the code frame of tile 0. -/
def template (pc : Nat) (t : Byte) : State := (lone { busy with regs := { pc := BitVec.ofNat 16 pc } }).wr (storeAt 0 pc) [t] false

theorem test_witness_BundleBoundaries :
    (64 < 60 + bundleLen 0x01 ∧ ¬ 64 < 59 + bundleLen 0x01) ∧
    ([(60, 0x01#8), (64, 0), (63, 0), (1, 0)].all fun (pc, t) => (template pc t).frameValid 0 pc &&
      !((template pc t).marked (storeAt 0 pc) 1) && (template pc t).code 0 pc == t && (template pc t).regs.pc.toNat == pc) = true := by
  decide +kernel

theorem test_witness_NopLandsNothing :
    lone.reads2 0 0 0 ∧ lone.cur.idle = none ∧ lone.cur.pin = none ∧ lone.cur.drain = false := by
  unfold reads2 reads1 runs clearG clearP
  decide +kernel

/-- The word of `or` placed where the next step fetches it. -/
def placed : State := State.reset.withFetchWord 32 0x06000000

theorem test_witness_StepRunsDecodedInstruction :
    State.reset.pick = .event .moduleReset [Config.bootFailure State.reset.fresh % 6] ∧
    (placed.pick = .issue 0 ∧ (placed.aim 0).frameValid 0 (placed.aim 0).regs.pc.toNat = true ∧
      (placed.aim 0).marked (storeAt 0 (placed.aim 0).regs.pc.toNat) 1 = false ∧
      (placed.aim 0).fetched = .bundle ⟨[(0, .or 0 0 0 0)], none, 5⟩ ∧ (placed.aim 0).pastLoop 0 = false ∧
      ((placed.aim 0).stage ⟨[(0, .or 0 0 0 0)], none, 5⟩).poisonSlot [(0, .or 0 0 0 0)] = none) ∧
    (lone { busy with regs := { marks := [(keyG 1, true)] } }).poisonSlot [(0, .or 0 0 1 0)] ≠ none ∧
    exec (.or 0 0 0 0) (lone.modCur fun u => { u with slot := 0 }) = .next (lone.modCur fun u => { u with slot := 0 }) := by
  refine ⟨rfl, by decide, fun h => ?_, rfl⟩
  have e : ((lone { busy with regs := { marks := [(keyG 1, true)] } }).poisonSlot [(0, .or 0 0 1 0)]).isSome = true := by decide +kernel
  rw [h] at e
  cases e

theorem test_witness_EveryStepGoesOn :
    State.reset.power = true ∧ ({ State.reset with power := false } : State).inputs = [] ∧
    ({ State.reset with
      power := false
      inputs := [⟨0, .moduleReset, []⟩] } : State).inputs ≠ [] := by decide +kernel

theorem test_witness_MemoryStaysCanonical :
    (State.reset.Sound ∧ State.reset.goesOn) ∧ (placed.Sound ∧ placed.goesOn) := by
  refine ⟨⟨rfl, _, rfl⟩, ⟨rfl, _, rfl⟩⟩

/-- A frozen gang with a read held, which is to happen now as its gang runs on. -/
def heldRead : State :=
  let g : Gang := { loneGang 0 with fz := some ⟨50, .preempt, none⟩ }
  { lone { busy with items := [{ item (.vldHalf 0 0) with rt := true }] } with gangs := [(0, g)] }

theorem test_witness_NothingDueIsPassedOver :
    heldRead.power = true ∧ heldRead.boot = .over ∧ heldRead.pick = .event .halyardBeat [] ∧ 0 ∈ tkeys heldRead.ctxs ∧
    { item (.vldHalf 0 0) with rt := true } ∈ (heldRead.ctx 0).items ∧
    heldRead.itemDue 0 { item (.vldHalf 0 0) with rt := true } = true := by decide +kernel

/-! ### Scalar and vector operands -/

theorem test_witness_scalar_reads :
    lone.reads3 0 0 31 16 ∧ lone.clearG 63 ∧ lone.runs 0 ∧ lone.skips 1 ∧ lone.skips 15 ∧ (∀ n, n < 16 → lone.clearP n) := by
  unfold reads3 reads2 reads1 runs skips clearG clearP
  decide +kernel

theorem test_witness_IntegerRegisterResults : lone.reads2 0 1 31 ∧ lone.clearP 7 := by
  unfold reads2 reads1 runs clearG clearP
  decide +kernel

theorem test_witness_ArithmeticModifier :
    lone.reads2 0 1 2 ∧
    ((0x00#7 ++ 0#22 ++ 7#3 : Half).extractLsb' 25 7).toNat = 0x00 ∧ (0x00#7 ++ 0#22 ++ 7#3 : Half).extractLsb' 0 3 = 7 ∧
    ((0x20#7 ++ 0#4 ++ 31#6 ++ 31#6 ++ 31#6 ++ 6#3 : Half).extractLsb' 25 7).toNat = 0x20 ∧
    (0x20#7 ++ 0#4 ++ 31#6 ++ 31#6 ++ 31#6 ++ 6#3 : Half).extractLsb' 0 3 ≠ 7 ∧
    (∀ k ∈ [15, 9, 3], ((0x20#7 ++ 0#4 ++ 31#6 ++ 31#6 ++ 31#6 ++ 6#3 : Half).extractLsb' k 6).toNat < 32) := by
  unfold reads2 reads1 runs clearG clearP
  decide +kernel

theorem test_witness_ImmediateAndFieldResults : lone.reads1 0 1 ∧ lone.clearG 2 ∧ lone.clearG 31 := by
  unfold reads1 runs clearG clearP
  decide +kernel

theorem test_witness_DivisionRule :
    ((3 : Word) ≠ 0 ∧ ¬ ((-7 : Word).toInt = -2 ^ 63 ∧ (3 : Word).toInt = -1)) ∧
    ((0x8000000000000000 : Word).toInt = -2 ^ 63 ∧ (-1 : Word).toInt = -1) ∧ lone.reads2 0 1 2 := by
  unfold reads2 reads1 runs clearG clearP
  decide +kernel

theorem test_witness_CompareRule :
    lone.reads2 0 1 2 ∧
    (0x28#7 ++ 0#4 ++ 16#6 ++ 0#15 : Half).extractLsb' 25 7 = 0x28 ∧ 16 ≤ ((0x28#7 ++ 0#4 ++ 16#6 ++ 0#15 : Half).extractLsb' 15 6).toNat := by
  unfold reads2 reads1 runs clearG clearP
  decide +kernel

theorem test_witness_CompareImmediateRule : lone.reads1 0 31 ∧ (31#6).toNat < 32 := by
  unfold reads1 runs clearG clearP
  decide +kernel

theorem test_witness_PredicateResults :
    lone.runs 0 ∧ lone.clearP 1 ∧ lone.clearP 15 ∧ lone.reads1 0 1 ∧ (∀ n, n < 16 → lone.clearP n) := by
  unfold reads1 runs clearG clearP
  decide +kernel

theorem test_witness_ScalarFloatResults : lone.reads2 0 1 2 ∧ lone.clearG 3 := by
  unfold reads2 reads1 runs clearG clearP
  decide +kernel

theorem test_witness_BranchResults :
    lone.branchForbidden = false ∧ lone.runs 0 ∧ lone.clearG 1 ∧ lone.skips 15 := by
  unfold runs skips clearG clearP
  decide +kernel

theorem test_witness_LoopAndPinResults : lone.me.delay = none ∧ lone.runs 0 ∧ lone.clearG 1 := by
  unfold runs clearG clearP
  decide +kernel

theorem test_witness_RendezvousResults : lone.me.delay = none ∧ lone.runs 0 ∧ lone.clearG 31 := by
  unfold runs clearG clearP
  decide +kernel

theorem test_witness_SystemResults :
    lone.reads1 0 31 ∧ (0x07#6 ∈ [0x07#6, 0x08#6, 0x09#6, 0x0A#6, 0x11#6] ∧ 0x10#6 ∉ [0x07#6, 0x08#6, 0x09#6, 0x0A#6, 0x11#6]) ∧
    (sregAssigned 0x10 = true ∧ sregAssigned 0x0F = false ∧ sregAssigned 0x14 = false ∧ sregAssigned 63 = false ∧ (31#6).toNat < 32) := by
  unfold reads1 runs clearG clearP
  decide +kernel

theorem test_witness_VectorIntegerResults : lone.vreads2 0 0 1 63 ∧ lone.vreads2 0 7 1 2 := by
  unfold vreads2 vreads1 vreads0 runs clearP clearM clearV
  decide +kernel

theorem test_witness_VectorMoveResults :
    lone.vreads1 0 1 63 ∧ lone.clearG 31 ∧ lone.clearV 2 (~~~(lone.valM 1)) := by
  unfold vreads1 vreads0 runs clearP clearM clearV clearG
  decide +kernel

theorem test_witness_VectorCompareAndMaskResults :
    lone.vreads2 0 0 1 2 ∧ lone.clearM 1 ∧ lone.clearM 7 ∧ lone.reads2 0 1 2 := by
  unfold vreads2 vreads1 vreads0 reads2 reads1 runs clearP clearM clearV clearG
  decide +kernel

theorem test_witness_VectorFloatResults : lone.vreads3 0 0 1 2 3 ∧ lone.clearG 4 := by
  unfold vreads3 vreads2 vreads1 vreads0 runs clearP clearM clearV clearG
  decide +kernel

theorem test_witness_QuantiseResults :
    lone.vreads0 0 0 ∧ lone.clearV 62 (clusterMask (lone.valM 0)) ∧ lone.clearV 63 (clusterMask (lone.valM 0)) ∧
    lone.clearV 1 (blockLanes (lone.valM 0)) := by
  unfold vreads0 runs clearP clearM clearV
  decide +kernel

theorem test_witness_quantised_blocks :
    (Ex.nan true ∈ [Ex.nan true] ∧ ∀ x ∈ [Ex.zero], x.isZero = true) ∧
    ((∀ g, Ex.nan g ∉ [Ex.fin true 3 1, .inf false]) ∧ (∃ x ∈ [Ex.fin true 3 1, .inf false], x.isZero = false) ∧
      (∃ n, Ex.inf n ∈ [Ex.fin true 3 1, .inf false]) ∧ ∀ n, Ex.inf n ∉ [Ex.fin true 3 1]) :=
  ⟨⟨by simp, by decide⟩, by simp, ⟨_, List.mem_cons_self, by decide⟩, ⟨false, by simp⟩, by simp⟩

theorem test_witness_PermuteResults :
    lone.vreads1 0 0 1 ∧ lone.clearV 2 (lone.valM 0) ∧ lone.clearV 1 (BitVec.allOnes 128) := by
  unfold vreads1 vreads0 runs clearP clearM clearV
  decide +kernel

theorem test_witness_ReductionResults :
    lone.vreads1 0 1 1 ∧ (List.replicate 128 (1 : Half)).length = 128 ∧ (0 < 2 ∧ 1 < 2) ∧ [(127, (1 : Half))][0]? = some (127, 1) := by
  unfold vreads1 vreads0 runs clearP clearM clearV
  decide +kernel

/-! ### The matrix unit and the arrays -/

/-- Both FIFOs with 32 positions landed, and an MMA issued 32 beats ago. -/
def fed : State :=
  let q : Fifo := { wq := 32 }
  lone { busy with regs := { q0 := q, q1 := q, lastMma := some 68 } }

/-- A FIFO that awaits its sixth entry, and an MMA issued 31 beats ago. -/
def awaiting : State := lone { busy with regs := { q1 := { wq := 6, land := [(5, 101)] } } }
def hasty : State := lone { busy with regs := { lastMma := some 69 } }

theorem test_witness_MatrixResults :
    fed.runs 0 ∧ (fed.regs.lastMma.any fun l => fed.hcyc fed.cur.ctx < l + 32) = false ∧ fed.fifoReady 0 32 id = true ∧
    (fed.fifoClaimed 0 32 id).fifoReady 1 32 id = true ∧ (32#9 ≠ 0 ∧ fed.fifoReady (1#6).toNat (32#9).toNat (fun _ => 0) = true) ∧
    (tfind (lone.regs.fifo 1).land 5 = none ∧ (tfind (awaiting.regs.fifo 1).land 5).isSome = true) ∧
    (hasty.runs 0 ∧ (hasty.regs.lastMma.any fun l => hasty.hcyc hasty.cur.ctx < l + 32) = true) := by
  unfold runs clearP
  decide +kernel

/-- Address of the scratchpad's first byte, and of its last 4 KiB. -/
def padLo : Word := 0x10000
def padHi : Word := 0x6F000

theorem test_witness_AccumulatorMoves :
    ∀ a ∈ [padLo, padHi], (withG [(1, a)]).reads1 0 1 ∧ (withG [(1, a)]).poolOk ((withG [(1, a)]).valG 1) (256 * 16) 256 a.toNat ∧
      freeFor ((withG [(1, a)]).groupBanks 1 16 a.toNat) (withG [(1, a)]) ∧
      freeFor ((withG [(1, a)]).groupBanks 25 16 a.toNat) (withG [(1, a)]) ∧
      (withG [(1, a)]).poolOk ((withG [(1, a)]).valG 1) (256 * 8) 256 a.toNat ∧
      freeFor ((withG [(1, a)]).groupBanks 1 8 a.toNat) (withG [(1, a)]) ∧
      freeFor ((withG [(1, a)]).groupBanks 33 8 a.toNat) (withG [(1, a)]) := by
  have e (a : Word) (h : a ∈ [padLo, padHi]) : a = padLo ∨ a = padHi := by simpa using h
  intro a h
  rcases e a h with rfl | rfl <;>
  exact ⟨⟨⟨rfl, rfl⟩, rfl⟩, ⟨rfl, rfl⟩, free1 (by decide +kernel) rfl, free1 (by decide +kernel) rfl, ⟨rfl, rfl⟩,
    free1 (by decide +kernel) rfl, free1 (by decide +kernel) rfl⟩

/-- Array operands: source at the scratchpad's start, destination 4 KiB on, a line for a transfer. -/
def arrays : State := withG [(1, 0x11000), (2, 0x10000), (3, 511)]

theorem test_witness_pairs_free :
    arrays.pairFree (pairNo 0 0) true ∧ arrays.pairFree (pairNo 1 7) false ∧ arrays.grantedPair (pairNo 1 7) true := by
  unfold pairFree grantedPair
  decide +kernel

theorem test_witness_ArrayOperationResults :
    (arrays.reads2 0 1 2 ∧ arrays.pairFree (pairNo 0 0) false ∧
      ∀ bwd, arrays.spansOk (arrays.readSpans bwd 0 (arrays.valG 1) (arrays.valG 2) false) ∧
        freeFor (arrays.inputBanks (arrays.readOp bwd 0 (arrays.valG 1) (arrays.valG 2) false)) arrays ∧
        freeFor (arrays.outputBanks (arrays.readOp bwd 0 (arrays.valG 1) (arrays.valG 2) false) (arrays.readLens bwd 0 false).2)
          (reserved (arrays.inputBanks (arrays.readOp bwd 0 (arrays.valG 1) (arrays.valG 2) false)) arrays)) ∧
    (arrays.pairFree (pairNo 1 7) true ∧ arrays.spansOk (arrays.updateSpans 15 (arrays.valG 2)) ∧
      freeFor (arrays.inputBanks (arrays.updateOp 15 (arrays.valG 2) 63)) arrays) ∧
    arrays.transferBad 15 (arrays.valG 3) true = false ∧
    ((arrays.readOp false 0 0 0 false).kind ≤ 1 ∧ (arrays.readOp false 0 0 0 false).dxb = false ∧
      (arrays.readOp true 0 0 0 true).kind ≤ 1 ∧ (arrays.readOp true 0 0 0 true).dxb = true ∧ (arrays.updateOp 15 0 63).kind = 2) := by
  refine ⟨⟨⟨⟨⟨rfl, rfl⟩, rfl⟩, rfl⟩, ?_, ?_⟩, ⟨?_, ?_, free1 (by decide +kernel) rfl⟩, by decide +kernel, by decide +kernel⟩
  · unfold pairFree grantedPair
    decide +kernel
  · intro bwd
    cases bwd <;> refine ⟨?_, free1 (by decide +kernel) rfl, free2 (by decide +kernel) rfl⟩ <;> unfold spansOk <;> decide +kernel
  · unfold pairFree grantedPair
    decide +kernel
  · unfold spansOk
    decide +kernel

theorem test_witness_PairRegisterResults :
    (withG [(1, 0xFFFFFFFFF)]).reads1 0 1 ∧ (withG []).grantedPair (pairNo 1 7) true ∧
    ((0x7FC01FF00 : Word).toNat < 2 ^ 36 ∧ (windowOf (0x0000001FF : Word).toNat).valid = true) ∧
    (windowOf (0#4 ++ 0x1FF#32).toNat).valid = true ∧ ((0xF4100 : Word).toNat < 2 ^ 20 ∧ gammaValid (0xF4100 : Word).toNat = true) ∧
    lone.occupied (lone.pidOf 15) = false ∧ (lone.pair (lone.pidOf 15)).pstate ≠ 1 ∧ (lone.pair (lone.pidOf 15)).pstate ≠ 2 := by
  unfold reads1 runs clearG clearP grantedPair
  decide +kernel

/-! ### Tile memory, sends and HBM -/

theorem test_witness_LoadStoreResults :
    let s := withG [(1, 0x6FFF8), (2, 0x6FE00), (3, 0x6FFC0)]
    (s.reads2 0 1 0 ∧ s.poolOk (memAddr 1 0 none (s.valG 1) (s.valG 0)) 8 8 0x6FFF8 ∧ freeFor (s.banks 0 [(0x6FFF8, 8)]) s ∧
      freeFor (s.banks 1 [(0x6FFF8, 8)]) s) ∧
    (s.poolOk (memAddr 2 0 none (s.valG 2) (s.valG 0)) 512 16 0x6FE00 ∧ freeFor (s.banks 0 [(0x6FE00, 256)]) s ∧
      freeFor (s.banks 1 [(0x6FF00, 256)]) (reserved (s.banks 0 [(0x6FE00, 256)]) s) ∧
      freeFor (s.banks 1 [(0x6FE00, 256)]) s ∧ freeFor (s.banks 2 [(0x6FF00, 256)]) (reserved (s.banks 1 [(0x6FE00, 256)]) s)) ∧
    s.poolOk (memAddr 3 0 none (s.valG 3) (s.valG 0)) 64 16 0x6FFC0 ∧ freeFor (s.banks 0 [(0x6FFC0, 64)]) s :=
  ⟨⟨⟨⟨⟨rfl, rfl⟩, rfl⟩, rfl⟩, ⟨rfl, rfl⟩, free1 (by decide +kernel) rfl, free1 (by decide +kernel) rfl⟩,
    ⟨⟨rfl, rfl⟩, free1 (by decide +kernel) rfl, free2 (by decide +kernel) rfl, free1 (by decide +kernel) rfl,
      free2 (by decide +kernel) rfl⟩, ⟨rfl, rfl⟩, free1 (by decide +kernel) rfl⟩

/-- Payload and scale addresses; offsets of the sixteen words of cluster 7 of v1. -/
def gathering : State :=
  lone { busy with regs :=
    { g := [(1, 0x10000), (2, 0x20000)]
      v := [(1, (List.range 16).map fun i => (112 + i, BitVec.ofNat 32 (4 * i)))] } }

/-- The blocks of eight clusters, and the words of sixteen lanes, that these addresses give. -/
def eightBlocks : List (Nat × Nat × Nat) := (List.range 8).map fun c => (c, 0x10000 + 32 * c, 0x20000 + 2 * c)
def sixteenWords : List Nat := (List.range 16).map fun i => 0x10000 + 4 * i

theorem test_witness_BlockAndGatherResults :
    (gathering.reads2 0 1 2 ∧ gathering.blockAddrs (gathering.valG 1) (gathering.valG 2) 2 (xOff none) = .ok eightBlocks ∧
      (∀ n, n ≤ 1 → freeFor (gathering.banks n (eightBlocks.map fun (_, p, _) => (p, 32))) gathering ∧
        freeFor (gathering.banks (n + 1) (eightBlocks.map fun (_, _, q) => (q, 2)))
          (reserved (gathering.banks n (eightBlocks.map fun (_, p, _) => (p, 32))) gathering))) ∧
    (gathering.clearV 1 (laneMask (List.range' (16 * (7#3).toNat) 16)) ∧
      gathering.gatherAddrs (gathering.valG 1) (((gathering.valV 1).drop (16 * (7#3).toNat)).take 16) = .ok sixteenWords ∧
      ∀ n, n ≤ 1 → freeFor (gathering.banks n (sixteenWords.map fun o => (o, 4))) gathering) := by
  have hc : gathering.myGang.claims = [] := rfl
  have h1 : ∀ n, n ≤ 1 → ((rise 0 (gathering.banks n (eightBlocks.map fun (_, p, _) => (p, 32)))).bind fun k =>
      rise k (gathering.banks (n + 1) (eightBlocks.map fun (_, _, q) => (q, 2)))).isSome = true := by decide +kernel
  have h2 : ∀ n, n ≤ 1 → (rise 0 (gathering.banks n (eightBlocks.map fun (_, p, _) => (p, 32)))).isSome = true := by decide +kernel
  have h3 : ∀ n, n ≤ 1 → (rise 0 (gathering.banks n (sixteenWords.map fun o => (o, 4)))).isSome = true := by decide +kernel
  refine ⟨⟨?_, by decide +kernel, fun n hn => ⟨free1 (h2 n hn) hc, free2 (h1 n hn) hc⟩⟩, ?_, by decide +kernel,
    fun n hn => free1 (h3 n hn) hc⟩
  · unfold reads2 reads1 runs clearG clearP
    decide +kernel
  · unfold clearV
    decide +kernel

/-- A gang of tiles 0 and 1 of die 0 and tile 256 of die 1, with one ring slot; g1 source, g2 destination, then what the sends name. -/
def sending : State :=
  let g : Gang := { loneGang 0 with members := [0, 2, 512], ringN := 1 }
  { withG [(1, 0x10000), (2, 0x20000), (3, 1), (4, 0x0100), (5, 256)] with gangs := [(0, g)] }

theorem test_witness_SendResults :
    let s := sending
    let u := reserved (s.banks 0 [(0x10000, 64)]) s
    (s.reads3 0 3 1 2 ∧ s.poolOk (s.valG 1) 64 16 0x10000 ∧ s.poolOk (s.valG 2) 64 16 0x20000 ∧ freeFor (s.banks 0 [(0x10000, 64)]) s) ∧
    ((s.valG 3).toNat < 1024 ∧ dieOf (s.valG 3).toNat = dieOf 0 ∧ s.memberOn (s.valG 3).toNat = some 2 ∧
      freeFor (u.meshLinks [2]) u ∧ freeFor (u.meshBanks [2] 0x20000) (reserved (u.meshLinks [2]) u)) ∧
    ((s.valG 4).toNat < 65536 ∧ (∀ t ∈ [0, 1], (s.memberOn t).isSome = true) ∧
      freeFor (u.meshLinks [0, 2]) u ∧ freeFor (u.meshBanks [0, 2] 0x20000) (reserved (u.meshLinks [0, 2]) u)) ∧
    (s.memberOn ((s.valG 5).toNat % 1024) = some 512 ∧ dieOf ((s.valG 5).toNat % 1024) ≠ dieOf 0 ∧
      bits (s.valG 5).toNat 16 7 < s.myGang.ringN ∧ freeFor (u.dieLinks 256 0) u ∧
      freeFor (bankClaims 256 (s.beat + 63) [(0x20000, 64)]) (reserved (u.dieLinks 256 0) u)) :=
  ⟨⟨⟨⟨⟨⟨rfl, rfl⟩, rfl⟩, rfl⟩, rfl⟩, ⟨rfl, rfl⟩, ⟨rfl, rfl⟩, free1 (by decide +kernel) rfl⟩,
    ⟨by decide +kernel, rfl, rfl, freeFor_of_freeB (by decide +kernel), freeFor_of_freeB (by decide +kernel)⟩,
    ⟨by decide +kernel, by decide +kernel, freeFor_of_freeB (by decide +kernel), freeFor_of_freeB (by decide +kernel)⟩,
    ⟨rfl, by decide +kernel, by decide +kernel, freeFor_of_freeB (by decide +kernel), freeFor_of_freeB (by decide +kernel)⟩⟩

theorem test_witness_StreamLoadResults :
    let s := withG [(1, 0x10000), (2, 0x20000)]
    let es := qldGroups 32 (s.regs.fifo 0).wq 0x10000 0 0
    let eb := qldGroups 32 (s.regs.fifo 0).wq 0x10000 0x20000 4
    let u := s.fifoReserved 0 32 (fun r => s.beat + r / 4 + 5)
    let ub := s.fifoReserved 0 32 (fun r => s.beat + 2 * (r / 4) + 6)
    (s.reads2 0 1 2 ∧ s.poolOk (s.valG 1 + xOff none) (64 * 32) 16 0x10000 ∧
      s.fifoRoom 0 32 (fun r => s.beat + r / 4 + 5) = true ∧ freeFor (u.plainBanks es) u) ∧
    (s.poolOk (s.valG 1 + xOff none) (64 * 32) 32 0x10000 ∧ s.poolAddr (s.valG 2) (4 * 32) = .ok 0x20000 ∧
      s.fifoRoom 0 32 (fun r => s.beat + 2 * (r / 4) + 6) = true ∧ freeFor (ub.blockBanks 4 eb) ub) :=
  ⟨⟨⟨⟨⟨rfl, rfl⟩, rfl⟩, rfl⟩, ⟨rfl, rfl⟩, by decide +kernel, free1 (by decide +kernel) rfl⟩,
    ⟨⟨rfl, rfl⟩, rfl, by decide +kernel, free1 (by decide +kernel) rfl⟩⟩

/-- A one-line transfer to or from extent 1, which lies in one bank group of stack 0: g1 its address, g2 the descriptor with an
interval of one beat, g3 the pool side, g4 the interval of `cfill`. -/
def hbm : State :=
  let e : Extent := { len := 0x10000, valid := true, wr := true, kind := 1, place := 0x0001F000 }
  lone { busy with
    regs := { g := [(1, 0x0100000000000000), (2, 0x100), (3, 0x10000), (4, 0xFF00)] }
    extents := [(1, e)] }

/-- The one line and the pool side that these operands name. -/
def oneLine : List Located := [(0, 0, ⟨0, 0, 0, 0⟩, 0)]

theorem test_witness_HbmPoolResults :
    let s := hbm
    let u := (linesTaken oneLine s).clearSc
    s.reads3 0 3 1 2 ∧ (lineDesc (s.valG 2)).ok = true ∧
    (∀ w, s.locate w (strided (s.valG 1 + xOff none) (lineDesc (s.valG 2))) (poolSides (s.valG 3) (lineDesc (s.valG 2))) =
      .ok (oneLine, [0x10000])) ∧ linesFree oneLine s ∧
    (freeFor (u.readBanks oneLine [0x10000]) u ∧ freeFor ((reserved (u.readBanks oneLine [0x10000]) u).ringClaims false oneLine)
      (reserved (u.readBanks oneLine [0x10000]) u)) ∧
    (freeFor (u.writeBanks oneLine [0x10000]) u ∧ freeFor ((reserved (u.writeBanks oneLine [0x10000]) u).ringClaims true oneLine)
      (reserved (u.writeBanks oneLine [0x10000]) u)) := by
  refine ⟨⟨⟨⟨⟨rfl, rfl⟩, rfl⟩, rfl⟩, rfl⟩, rfl, fun w => by cases w <;> decide +kernel, linesFree_of_linesB (by decide +kernel),
    ⟨free1 (by decide +kernel) rfl, freeFor_of_freeB (by decide +kernel)⟩, ⟨free1 (by decide +kernel) rfl, freeFor_of_freeB (by decide +kernel)⟩⟩

/-- The index list of a gather lies in the pool: HS of the descriptor names its place. -/
def indexed : State :=
  let e : Extent := { len := 0x10000, valid := true, wr := true, kind := 1, place := 0x0001F000 }
  lone { busy with
    regs := { g := [(1, 0x0100000000000000), (2, 0x10000100), (3, 0x20000)] }
    extents := [(1, e)] }

/-- The indices of that gather, and its banks. -/
def indexLines (s : State) : List (Nat × Nat × Word) :=
  (List.range (lineDesc (s.valG 2)).n).map fun l =>
    (l, l * (lineDesc (s.valG 2)).sp, s.valG 1 + 64 * Word.ofNat (leNat (s.rdPool (0x10000 + 4 * l) 4)))

theorem test_witness_gather_lines :
    let s := indexed
    let i := s.banks 0 [(16 * (lineDesc (s.valG 2)).hs, 4 * (lineDesc (s.valG 2)).n)]
    let u := (linesTaken oneLine s).clearSc
    let v := (linesTaken oneLine (s.fifoReserved 0 1 (s.landAt oneLine))).clearSc
    (s.reads3 0 3 1 2 ∧ s.poolOk (Word.ofNat (16 * (lineDesc (s.valG 2)).hs)) (4 * (lineDesc (s.valG 2)).n) 4 0x10000 ∧
      s.poolMarked 0x10000 (4 * (lineDesc (s.valG 2)).n) = false) ∧
    (s.locate false (indexLines s) (poolSides (s.valG 3) (lineDesc (s.valG 2))) = .ok (oneLine, [0x20000]) ∧
      s.locate false (indexLines s) [] = .ok (oneLine, [])) ∧ linesFree oneLine s ∧
    (freeFor (i ++ u.readBanks oneLine [0x20000]) u ∧
      freeFor ((reserved (i ++ u.readBanks oneLine [0x20000]) u).ringClaims false oneLine)
        (reserved (i ++ u.readBanks oneLine [0x20000]) u)) ∧
    (s.fifoRoom 0 1 (s.landAt oneLine) = true ∧ linesFree oneLine (s.fifoReserved 0 1 (s.landAt oneLine)) ∧ freeFor i v ∧
      freeFor ((reserved i v).ringClaims false oneLine) (reserved i v)) := by
  refine ⟨⟨⟨⟨⟨⟨rfl, rfl⟩, rfl⟩, rfl⟩, rfl⟩, ⟨by decide +kernel, by decide +kernel⟩, by decide +kernel⟩,
    ⟨by decide +kernel, by decide +kernel⟩, linesFree_of_linesB (by decide +kernel),
    ⟨free1 (by decide +kernel) rfl, freeFor_of_freeB (by decide +kernel)⟩,
    ⟨by decide +kernel, linesFree_of_linesB (by decide +kernel), free1 (by decide +kernel) rfl, freeFor_of_freeB (by decide +kernel)⟩⟩

theorem test_witness_HbmToFifoResults :
    let s := hbm
    let room (n : Nat) (at' : Nat → Nat) : Prop :=
      let u := s.fifoReserved 0 n at'
      let v := (linesTaken oneLine u).clearSc
      s.fifoRoom 0 n at' = true ∧ linesFree oneLine u ∧ freeFor [] v ∧ freeFor (v.ringClaims false oneLine) v
    s.reads2 0 1 2 ∧ s.locate false (strided (s.valG 1 + xOff none) (lineDesc (s.valG 2))) [] = .ok (oneLine, []) ∧
    s.locate false (strided (s.valG 1) (lineDesc (s.valG 2))) [] = .ok (oneLine, []) ∧ room 1 (s.landAt oneLine) ∧
    room 32 (fun _ => s.beat + s.lastLand oneLine) := by
  refine ⟨⟨⟨⟨rfl, rfl⟩, rfl⟩, rfl⟩, by decide +kernel, by decide +kernel,
    ⟨by decide +kernel, linesFree_of_linesB (by decide +kernel), trivial, freeFor_of_freeB (by decide +kernel)⟩,
    ⟨by decide +kernel, linesFree_of_linesB (by decide +kernel), trivial, freeFor_of_freeB (by decide +kernel)⟩⟩

/-- The located lines of a code-frame fill from extent 1, an interval of 255 beats. -/
def frameLines : List Located :=
  match hbm.locate false (strided (hbm.valG 1) ⟨64, 0xFF, 1, 0, true⟩) [] with
  | .ok (ls, _) => ls
  | .error _ => []

theorem test_witness_frame_fill :
    hbm.reads2 0 1 4 ∧ (hbm.valG 4).toNat = 256 * 0xFF ∧ (tget {} hbm.frames (16 * 0 + (0#4).toNat)).owner = some 0 ∧
    hbm.locate false (strided (hbm.valG 1) ⟨64, 0xFF, 1, 0, true⟩) [] = .ok (frameLines, []) ∧ frameLines.length = 64 ∧
    linesFree frameLines hbm ∧
    freeFor ((linesTaken frameLines hbm).clearSc.ringClaims false frameLines) (linesTaken frameLines hbm).clearSc := by
  refine ⟨⟨⟨⟨rfl, rfl⟩, rfl⟩, rfl⟩, by decide +kernel, by decide +kernel, by decide +kernel, by decide +kernel,
    linesFree_of_linesB (by decide +kernel), freeFor_of_freeB (by decide +kernel)⟩

/-! ### Engine commands -/

/-- A block of 64 bytes from fields: offset and value. -/
def block (fs : List (Nat × Nat)) : List Byte := leBytes 64 (fs.foldl (fun n (o, v) => n + v * 2 ^ (8 * o)) 0)

/-- A block at the scratchpad's start, named by g1, with open extent 1 and a privileged address space. -/
def commanding (fs : List (Nat × Nat)) : State :=
  let e : Extent := { len := 0x10000, valid := true, wr := true, kind := 2 }
  { lone { busy with
      regs := { g := [(1, 0x10000)] }
      extents := [(1, e)] } with asidDir := hbmBase }.wr (poolAt 0 0x10000) (block fs) false |>.wr hbmBase [3] false

/-- The checks of a block, as a value. -/
def blockOk (op : Nat) (fs : List (Nat × Nat)) (bad : State → Cmd → Bool) (areas : Cmd → List Area) : Bool :=
  let s := commanding fs
  !((s.readCmd op 0x10000 1 15).badCommon || bad s (s.readCmd op 0x10000 1 15)) &&
    (s.me.areaFault (areas (s.readCmd op 0x10000 1 15))).isNone && !(s.poolMarked 0x10000 64) &&
    decide (s.poolAddr (s.valG 1) 64 = .ok 0x10000) && (rise 0 (s.banks 0 [(0x10000, 64)])).isSome && decide (s.myGang.claims = []) &&
    decide (s.regs.isMarked (keyP (preg s.regs.rotpos 0)) = false ∧ s.valP 0 = true) &&
    decide (s.regs.isMarked (keyG (greg s.regs.rotpos 1)) = false) && decide (State.outstanding s.me < 64)

theorem commandOk_of_blockOk {op : Nat} {fs : List (Nat × Nat)} {bad : State → Cmd → Bool} {areas : Cmd → List Area}
    (h : blockOk op fs bad areas = true) : (commanding fs).commandOk op 0 1 1 15 0x10000 (bad (commanding fs)) areas := by
  simp only [blockOk, Bool.and_eq_true, Bool.not_eq_true', Option.isNone_iff_eq_none, decide_eq_true_eq] at h
  obtain ⟨⟨⟨⟨⟨⟨⟨⟨h1, h2⟩, h3⟩, h4⟩, h5⟩, h6⟩, h7⟩, h8⟩, h9⟩ := h
  exact ⟨⟨h7, h8⟩, ⟨h4, by decide⟩, h3, h1, h9, h2, free1 h5 h6⟩

theorem test_witness_CommandIssueResults :
    (commanding [(0x08, 0x20000), (0x10, 0x30000), (0x18, 64), (0x1C, 0xFFFF)]).commandOk 0x30 0 1 1 15 0x10000 Cmd.copyBad
      Cmd.copyAreas ∧
    (commanding [(0, 0x10), (0x08, 0x20000)]).commandOk 0x31 0 1 1 15 0x10000 Cmd.atomBad
      (fun c => [⟨c.w 0x08, c.atomBytes, true, true, c.atomBytes⟩]) ∧
    (commanding [(0, 0x20), (0x08, 0x20000), (0x10, 2 ^ 56), (0x18, 64)]).commandOk 0x32 0 1 1 15 0x10000 Cmd.redBad
      (fun c => [⟨c.w 0x08, c.f 0x18 4, false, true, 1⟩, ⟨c.w 0x10, c.f 0x18 4, true, false, redBytes (bits (c.f 0 1) 4 4)⟩]) ∧
    (commanding [(0, 1)]).commandOk 0x33 0 1 1 15 0x10000 (Cmd.moveBad (commanding [(0, 1)])) (fun _ => []) ∧
    (commanding [(0, 1)]).commandOk 0x34 0 1 1 15 0x10000 Cmd.collBad Cmd.collAreas ∧
    (commanding [(0, 2), (0x08, 2 ^ 56), (0x10, 2 ^ 56 + 64), (0x20, 64)]).commandOk 0x34 0 1 1 15 0x10000 Cmd.collBad Cmd.collAreas ∧
    (commanding [(0x08, 2 ^ 56), (0x20, 64)]).commandOk 0x35 0 1 1 15 0x10000 Cmd.castBad
      (fun c => [⟨c.w 0x08, c.f 0x20 4, false, false, 1⟩]) := by
  refine ⟨commandOk_of_blockOk (bad := fun _ => Cmd.copyBad) (by decide +kernel),
    commandOk_of_blockOk (bad := fun _ => Cmd.atomBad) (by decide +kernel),
    commandOk_of_blockOk (bad := fun _ => Cmd.redBad) (by decide +kernel),
    commandOk_of_blockOk (bad := fun s c => Cmd.moveBad s c) (by decide +kernel),
    commandOk_of_blockOk (bad := fun _ => Cmd.collBad) (by decide +kernel),
    commandOk_of_blockOk (bad := fun _ => Cmd.collBad) (by decide +kernel),
    commandOk_of_blockOk (bad := fun _ => Cmd.castBad) (by decide +kernel)⟩

theorem test_witness_barrier_and_array_commands :
    (commanding [(0x08, 2 ^ 56), (0x10, 1)]).commandOk 0x3A 0 1 1 15 0x10000 (Cmd.barBad true) (Cmd.barAreas true) ∧
    (commanding [(0x08, 2 ^ 56)]).commandOk 0x3B 0 1 1 15 0x10000 (Cmd.barBad false) (Cmd.barAreas true) ∧
    (commanding [(0x08, 2 ^ 56)]).commandOk 0x3C 0 1 1 15 0x10000 (Cmd.barBad false) (Cmd.barAreas false) ∧
    ((commanding [(0x10, 2 ^ 56)]).commandOk 0x36 0 1 1 15 0x10000 Cmd.arrBad Cmd.arrAreas ∧
      (commanding [(0x10, 2 ^ 56)]).grantedPair ((commanding [(0x10, 2 ^ 56)]).readCmd 0x36 0x10000 1 15).pairNo false) ∧
    ((commanding [(0, 0x1000F), (0x10, 2 ^ 56), (0x22, 0x3F80)]).commandOk 0x37 0 1 1 15 0x10000 Cmd.arrBad Cmd.arrAreas ∧
      (commanding [(0, 15)]).grantedPair ((commanding [(0, 15)]).readCmd 0x38 0x10000 1 15).pairNo true) ∧
    (commanding [(0, 15)]).commandOk 0x38 0 1 1 15 0x10000 Cmd.arrBad Cmd.arrAreas ∧
    (commanding [(0, 15)]).commandOk 0x39 0 1 1 15 0x10000 Cmd.arrBad Cmd.arrAreas := by
  refine ⟨commandOk_of_blockOk (bad := fun _ => Cmd.barBad true) (by decide +kernel),
    commandOk_of_blockOk (bad := fun _ => Cmd.barBad false) (by decide +kernel),
    commandOk_of_blockOk (bad := fun _ => Cmd.barBad false) (by decide +kernel),
    ⟨commandOk_of_blockOk (bad := fun _ => Cmd.arrBad) (by decide +kernel), ?_⟩,
    ⟨commandOk_of_blockOk (bad := fun _ => Cmd.arrBad) (by decide +kernel), ?_⟩,
    commandOk_of_blockOk (bad := fun _ => Cmd.arrBad) (by decide +kernel),
    commandOk_of_blockOk (bad := fun _ => Cmd.arrBad) (by decide +kernel)⟩ <;> unfold grantedPair <;> decide +kernel

/-- A context with `n` commands outstanding. -/
def outstanding (n : Nat) : State :=
  lone { busy with cmds := (List.range n).map fun i => (i + 1, { op := 0x3D, issued := 90, wake := 91 }) }

theorem test_witness_fences :
    ((outstanding 63).runs 0 ∧ State.outstanding (outstanding 63).me < 64) ∧ 64 ≤ State.outstanding (outstanding 64).me := by
  unfold runs clearP
  decide +kernel

/-! ### Guards, faults, returns and frames -/

theorem test_witness_FalseGuardHasNoEffect :
    (encode (.or 15 1 2 3) = some (.S, 0x03#7 ++ 15#4 ++ 1#6 ++ 2#6 ++ 3#6 ++ 0#3, none) ∧ lone.skips 15 ∧ 0x03 ∉ [0x40, 0x41, 0x42, 0x43]) ∧
    (encode (.rdv 15) = some (.S, 0x47#7 ++ 15#4 ++ 0#21, none) ∧ lone.me.delay = none) := by
  unfold skips clearP
  decide

/-- A context that has been replayed `n` times, with SC live or without. -/
def replayed (n : BitVec 16 := 2) (sc : Bool := true) : State :=
  lone { busy with
    rply := n
    sc := sc }

/-- A record taken in this beat: a rewind's, or a slice fault's. -/
def filing (code : Nat) : State :=
  { lone with taken := [{ beat := 100, seq := 0, src := 0, code := code, cls := 1, detail := 0, slot := 0, pc := 0 }] }

theorem test_lone_thawed (gid : Nat) : (lone.gang gid).fz = none := by
  have h : lone.gangs = [(0, loneGang 0)] := rfl
  rw [gang, h, tget]
  split <;> rfl

theorem test_witness_FaultsAreTaken :
    (lone.faultNow (tileOf 0) = none ∧ rewindable 0x05 false = false ∧ lone.gangFrozen (lone.before 0).gang = false) ∧
    (∀ sc, (replayed 2 sc).faultNow (tileOf 0) = none ∧ rewindable 0x0B false = true ∧ ((replayed 2 sc).before 0).rs = true ∧
      ((replayed 2 sc).before 0).sc = sc ∧ (∀ m ∈ ((replayed 2 sc).gang 0).members, ((replayed 2 sc).before m).rs = true) ∧
      ((replayed 2 sc).ctx 0).rply.toNat < 3 ∧ (replayed 2 sc).gangFrozen ((replayed 2 sc).before 0).gang = false) ∧
    ((replayed 3).faultNow (tileOf 0) = none ∧ ((replayed 3).before 0).sc = true ∧ 3 ≤ ((replayed 3).ctx 0).rply.toNat) ∧
    ((∀ code, (filing code).taken = [{ beat := 100, seq := 0, src := 0, code := code, cls := 1, detail := 0, slot := 0, pc := 0 }]) ∧
      ∀ code gid f, ((filing code).gang gid).fz = some f → f.why = .trap → f.beat ≠ (filing code).beat + 1) := by
  refine ⟨by decide, fun sc => by cases sc <;> decide, by decide, fun code => rfl, fun code gid f h => ?_⟩
  have e : (filing code).gang gid = lone.gang gid := rfl
  rw [e, test_lone_thawed] at h
  cases h

/-- A context whose rewind's replay beat has come, and a frozen gang that may restart. -/
def rewinding : State := lone { busy with
  run := .rewinding
  rew := some 20
  rewAt := 20 } [0]
def gangRewinding : State :=
  let x : Ctx := { busy with
    run := .rewinding
    rew := some 20
    rewAt := 20
    rewAll := true }
  { lone { x with xsnap := [(3, 7, 8)] } [0] with
    ctxs := [(0, { x with xsnap := [(3, 7, 8)] }), (2, { x with xsnap := [(19, 5, 6)] })]
    gangs := [(0, { loneGang 0 with members := [0, 2] })] }
def frozen : State :=
  { lone busy [0] with gangs := [(0, { loneGang 0 with fz := some ⟨80, .trap, some 100⟩ })] }

theorem test_witness_ReturnsRestore :
    (rewinding.arg 0 = 0 ∧ rewinding.rewindDue 0 = true ∧ (rewinding.ctx 0).rewAll = false) ∧
    (gangRewinding.arg 0 = 0 ∧ gangRewinding.rewindDue 0 = true ∧ (gangRewinding.ctx 0).rewAll = true ∧
      (gangRewinding.gang 0).members.filter (fun m => (gangRewinding.ctx m).run = .rewinding) = [0, 2] ∧ [0, 2].Nodup ∧
      ([0, 2].flatMap fun m => (gangRewinding.ctx m).xsnap.map fun x => x.1).Nodup ∧
      (3, 7, 8) ∈ (gangRewinding.ctx 0).xsnap) ∧
    (frozen.arg 0 = 0 ∧ (frozen.gang 0).fz = some ⟨80, .trap, some 100⟩ ∧ frozen.restartDue 0 = true ∧
      (frozen.gang 0).members.Nodup ∧ 0 ∈ (frozen.gang 0).members ∧ (frozen.ctx 0).gang = 0 ∧ (frozen.ctx 0).run = .running ∧
      (frozen.ctx 0).hbase ≤ 80) := by decide +kernel

/-- A poisoned g1, an address past the scratchpad, and misaligned ones. -/
def poisoned : State := lone { busy with regs := { marks := [(keyG 1, true)] } }
def outside : State := withG [(1, 0x70000), (2, 0x0200000000000000), (3, 0x10004), (4, 0x10008)]

/-- Extents 3 and 4 of one HBM page each, the second writable. -/
def extended : State :=
  lone { busy with extents := [(3, { len := 4096, valid := true, kind := 1 }), (4, { len := 4096, valid := true, kind := 1, wr := true })] }

theorem test_witness_OperandAndAddressFaults :
    (poisoned.runs 0 ∧ poisoned.regs.isMarked (keyG (greg poisoned.regs.rotpos (1#6).toNat)) = true) ∧
    (outside.reads2 0 1 0 ∧ outside.poolAddr (memAddr 1 0 none (outside.valG 1) (outside.valG 0)) 1 = .error 0x06 ∧
      outside.poolAddr (memAddr 2 0 none (outside.valG 2) (outside.valG 0)) 8 = .error 0x01 ∧
      outside.poolAddr (memAddr 1 0 none (outside.valG 1) (outside.valG 0)) 512 = .error 0x06 ∧
      (outside.poolAddr (memAddr 3 0 none (outside.valG 3) (outside.valG 0)) 8 = .ok 0x10004 ∧ 0x10004 % 8 ≠ 0) ∧
      (outside.poolAddr (memAddr 4 0 none (outside.valG 4) (outside.valG 0)) 512 = .ok 0x10008 ∧ 0x10008 % 16 ≠ 0)) ∧
    ((0x70000 : Word).extractLsb' 56 8 = 0 ∧ (0x0300000000000000 : Word).extractLsb' 56 8 ≠ 0) ∧
    ((tget {} extended.me.extents 2).valid = false ∧ (tget {} extended.me.extents 3).valid = true ∧
      (tget {} extended.me.extents 3).kind = 1 ∧ (tget {} extended.me.extents 3).wr = false ∧
      (tget {} extended.me.extents 4).wr = true ∧ (tget {} extended.me.extents 4).len < 4000 + 97 ∧ 4000 + 96 ≤ (tget {} extended.me.extents 4).len) := by
  unfold reads2 reads1 runs clearG clearP
  decide +kernel

/-- A delay bundle; a pair without update, without any grant, held, hot, occupied. -/
def delayed : State := lone { busy with delay := some ⟨true, 0, 2⟩ }
def granting (x : BitVec 32) (ps : BitVec 2) (ops : Table AnOp) : State :=
  { lone { busy with
      xgrant := x
      ops := ops } with pairs := [(0, { pstate := ps })] }

/-- The first FIFO alone has 32 positions landed. -/
def halfFed : State := lone { busy with regs := { q0 := { wq := 32 } } }

theorem test_witness_PlaceAndResourceFaults :
    (delayed.branchForbidden = true ∧ delayed.me.delay ≠ none) ∧
    ((granting 0 0 []).runs 0 ∧ (granting 0 0 []).me.xgrant.getLsbD (2 * pairNo 0 0) = false) ∧
    ((granting 1 0 []).occupied ((granting 1 0 []).pidOf (pairNo 0 0)) = false ∧ (granting 1 0 []).pairPeak ((granting 1 0 []).pidOf 0) ≤ 4 ∧
      (granting 1 0 []).me.xgrant.getLsbD 0 = true ∧ (granting 1 0 []).me.xgrant.getLsbD 1 = false) ∧
    ((granting 3 1 []).me.xgrant.getLsbD 1 = true ∧ ((granting 3 1 []).pair ((granting 3 1 []).pidOf 0)).pstate = 1) ∧
    ((granting 3 2 []).me.xgrant.getLsbD 1 = true ∧ ((granting 3 2 []).pair ((granting 3 2 []).pidOf 0)).pstate = 2) ∧
    (granting 3 0 [(0, { kind := 0, pid := 0, first := 90, last := 153, win := 0 })]).occupied 0 = true ∧
    (lone.fifoReady 0 1 (fun _ => 0) = false ∧ lone.fifoRoom 0 65 (fun _ => 200) = false) ∧
    (lone.addClaim (.bank 0 5) 100).holder (.bank 0 5) 100 = some ⟨.bank 0 5, 100, 0, 0xFF, 100, 100⟩ ∧
    ((withG [(1, 0x10050)]).poolAddr (memAddr 1 0 none ((withG [(1, 0x10050)]).valG 1) 0) 8 = .ok 0x10050 ∧ 0x10050 % 8 = 0 ∧
      0x10050 / 16 % 16 = 5) ∧
    (fed.fifoReady 0 32 id = true ∧ (halfFed.fifoReady 0 32 id = true ∧ (halfFed.fifoClaimed 0 32 id).fifoReady 1 32 id = false)) := by
  unfold runs clearP
  decide +kernel

/-- A list of reservations of which one is held is not free. -/
theorem not_freeFor_of_held {r : Res} {b : Nat} {v : Word} {l : List (Res × Nat × Word)} {s : State} (h : (s.holder r b).isSome = true) :
    ¬ freeFor ((r, b, v) :: l) s := fun f => by rw [f.1] at h; cases h

/-- The sends' gang with a bank of the source, one of the destination or a link held. -/
def heldSend (r : Res) (b : Nat) : State := sending.addClaim r b

theorem test_witness_sends_that_collide :
    let a := heldSend (.bank 0 0) 100
    let b := heldSend (.bank 1 0) 103
    let c := heldSend (.link 0 0) 102
    let u := reserved (b.banks 0 [(0x10000, 64)]) b
    let w := reserved (c.banks 0 [(0x10000, 64)]) c
    (a.faultNow (tileOf a.cur.ctx) = none ∧ a.memberOn (a.valG 3).toNat = some 2 ∧ ¬ freeFor (a.banks 0 [(0x10000, 64)]) a) ∧
    (freeFor (b.banks 0 [(0x10000, 64)]) b ∧ freeFor (u.meshLinks [2]) u ∧
      ¬ freeFor (u.meshBanks [2] 0x20000) (reserved (u.meshLinks [2]) u)) ∧
    (freeFor (c.banks 0 [(0x10000, 64)]) c ∧ ¬ freeFor (w.meshLinks [2]) w) :=
  ⟨⟨by decide +kernel, rfl, not_freeFor_of_held (by decide +kernel)⟩,
    ⟨freeFor_of_freeB (by decide +kernel), freeFor_of_freeB (by decide +kernel), not_freeFor_of_held (by decide +kernel)⟩,
    ⟨freeFor_of_freeB (by decide +kernel), not_freeFor_of_held (by decide +kernel)⟩⟩

theorem test_witness_SlotWordFrame :
    encode (.trig 0) = some (.S, 0x50#7 ++ 0#4 ++ 0#21, none) ∧ lone.cur.faulted = false ∧
    ∃ t, exec (.trig 0) lone = .next t ∧ t.cur.faulted = false :=
  ⟨by decide, rfl, _, rfl, by decide +kernel⟩

theorem test_witness_LandFrames :
    (31 ≠ 0 ∧ 15 ≠ 0 ∧ 7 ≠ 0) ∧ (127 ∉ ([(0, (5 : Half), false)] : List (Nat × Half × Bool)).map (·.1) ∧
      (([(0, (5 : Half), false), (127, 6, true)] : List (Nat × Half × Bool)).map (·.1)).Nodup) ∧
    (greg lone.regs.rotpos (0#6).toNat = 0 ∧ greg lone.regs.rotpos (31#6).toNat ≠ 0) ∧
    (preg lone.regs.rotpos 0 = 0 ∧ preg lone.regs.rotpos 15 ≠ 0) ∧ [(127, (1 : Half))] ≠ [] ∧ (0x20 : BitVec 6) ≠ 0 ∧
    ((([(1, true), (15, false)] : List (Nat × Bool)).map fun x => x.1).Nodup ∧
      7 ∉ ([(1, true), (15, false)] : List (Nat × Bool)).map (fun x => x.1) ∧
      keyP 7 ∉ ([(1, true), (15, false)] : List (Nat × Bool)).map (fun x => keyP x.1)) ∧
    (unitV 3 1 ∉ ([(0, (5 : Half), false)] : List (Nat × Half × Bool)).map (fun x => unitV 3 x.1)) ∧ 0 < 1 := by decide

theorem test_witness_StoreFrames :
    (∀ x ∈ [(0x10000, leBytes 8 5, false)], 0xFFFF < poolAt 0 x.1 ∨ poolAt 0 x.1 + x.2.1.length ≤ 0xFFFF) ∧
    (leBytes 64 7).length = 64 ∧ (0x10040 < poolAt 0 0x10000 ∨ poolAt 0 0x10000 + 64 ≤ 0x10040) ∧
    (hbmBase + 64 < hbmBase ∨ hbmBase + (leBytes 64 7).length ≤ hbmBase + 64) ∧
    (poolAt (tileOf 0) 0x10000 + (leBytes 64 7).length ≤ 0x10040 ∧ storeAt (tileOf 0) (4096 * 1 + 64 * 63) - 1 < storeAt 0 8128) ∧
    (∀ a ∈ [Act.pool 0 [(0x10000, leBytes 8 5, false)], .flit false 0 0x10000 (leBytes 64 7) [], .flit true 0 0x10000 (leBytes 64 7) [],
        .hbmPerform hbmBase (leBytes 64 7) false, .hbmLand 0 0 0x10000 0 (leBytes 64 7) false, .hbmLand 0 3 1 63 (leBytes 64 7) false,
        .g 1 5 false, .aout 0 7, .ain 0 0, .zstRead true 0 7 0x6F800 0 0 0, .zland 7 [] []], (flying a).due 0 0 (item a)) ∧
    ((Act.zland 7 [] []).isMatrix = true ∧ State.markedRow (lone.ctx 0).regs 7 = none) ∧
    (Act.g 1 5 false).isResult = true ∧ lone.Sound :=
  ⟨by decide, by decide, by decide, by decide, by decide, fun a _ => test_flying_is_due a, by decide +kernel, rfl, rfl⟩

/-! ### The machine's own events -/

theorem test_witness_AccessEvents :
    (∀ a ∈ [Act.g 31 5 true, .xseed 16383 7, .draws 3, .pool 1023 [(0x7FFFF, [1], true)], .flit false 0 0 (leBytes 64 1) [true, false, true, false],
        .flit true 256 0 (leBytes 64 1) [], .arrive false 0, .arrive true 512, .hbmRead hbmBase 191 0 0x10000 0, .hbmWrite hbmBase 0 0x10000,
        .hbmLand hbmBase 0 0x10000 0 (leBytes 64 1) true, .hbmLand hbmBase 1 0 63 (leBytes 64 1) false,
        .hbmLand hbmBase 3 15 63 (leBytes 64 1) false, .hbmPerform hbmBase (leBytes 64 1) false, .fifo 1 [(63, 5, 0, true)],
        .vldHalf 127 0x10100, .frame 0 15 false, .frame 0 0 true], (flying a).due 0 0 (item a)) ∧
    ((Act.g 31 5 true).isResult = true ∧ ∀ pid v, Act.g 31 5 true ≠ .xseed pid v) :=
  ⟨fun a _ => test_flying_is_due a, rfl, fun _ _ => Act.noConfusion⟩

/-- The loop of a body at 64 to 80, stepping, with its end bundle behind. -/
def looping (count : Nat) : State :=
  lone { busy with
    loopStep := true
    regs := { loops := [⟨64, 80, count, true⟩] } } [0]

/-- An empty bundle of 257 cycles staged, and a taken branch whose delay bundles have issued. -/
def idling : State := { lone with cur := { idle := some 255, len := 2 } }
def redirected : State := lone { busy with redirect := some 0x40 } [0]

theorem test_witness_SequencerEvents :
    ((placed.aim 0).frameValid 0 0 = true ∧ (placed.aim 0).fetched = .bundle ⟨[(0, .or 0 0 0 0)], none, 5⟩ ∧
      (placed.aim 0).pastLoop 0 = false) ∧
    ((template 0 0).frameValid 0 0 = true ∧ (template 0 0).fetched = .bad ⟨0x02, 0x02, 0xFF⟩) ∧
    (lone { busy with regs := { pc := 0x1000 } }).frameValid 0 0x1000 = false ∧
    (idling.cur.idle = some 255 ∧ idling.cur.pin = none ∧ idling.cur.drain = false ∧ idling.cur.jump = none) ∧
    (lone.taken = [] ∧ ∀ gid f, (lone.gang gid).fz = some f → f.why = .trap → f.beat ≠ lone.beat + 1) ∧
    (redirected.arg 0 = 0 ∧ (redirected.ctx 0).redirect = some 0x40 ∧ redirected.pickSeq = some (.event .branchTakenRedirect [0])) ∧
    (looping 2).pickSeq = some (.event .loopIterationStep [0]) ∧
    (((looping 2).ctx 0).regs.loops = [⟨64, 80, 2, true⟩] ∧ ((looping 1).ctx 0).regs.loops = [⟨64, 80, 1, true⟩]) := by
  refine ⟨by decide +kernel, by decide +kernel, by decide +kernel, by decide, ⟨rfl, fun gid f h => ?_⟩, by decide +kernel,
    by decide +kernel, by decide⟩
  rw [test_lone_thawed] at h
  cases h

/-- Rows of an MMA, all zero. -/
def zeros : List (BitVec 512 × BitVec 32) := List.replicate 32 (0, 0)

/-- An analog operation about to read its input group `r`: a forward read of 1 row, or an update of 512 rows and columns. -/
def reading (kind r : Nat) : State :=
  lone { busy with
    items := [item (.ain 0 r)]
    ops := [(0, { kind := kind, pid := 0, first := 90, last := 200, win := (if kind = 2 then 0xFF803FE00 else 0), src := 0x10000 })] } [0, 0]

theorem test_witness_MatrixAndArrayEvents :
    (∀ a ∈ [Act.mmaRead 0 false false false 7 0 0 31 [] [], .mmaRead 2 true true true 0 63 63 0 [] [], .zland 7 [(1023, 1)] [31],
        .mmaAcc 0 false false false 7 zeros zeros, .zldRow true 7 0x10000 7 [] [] 0, .zldRow false 0 0x10000 14 [] [] 0,
        .zstRead false 0 7 0x10000 0 0 0, .zstRead true 4 7 0x10000 0 0 0, .aout 0 7, .pulse 0 62, .digital 0, .train 0],
      (flying a).due 0 0 (item a)) ∧
    (∀ a r, (((flying a).without 0 (item a)).ctx 0).regs.isMarked (unitQ 0 r) = false) ∧
    (∀ a z, State.markedRow (((flying a).without 0 (item a)).ctx 0).regs z = none) ∧
    (zeros.length = 32 ∧ (item (.zland 7 [(1023, 1)] [31])).bad = false ∧ ([((1023 : Nat), (1 : Half))].map (·.1)).Nodup) ∧
    (∀ g, g < 16 → lone.marked (poolAt (tileOf 0) (0x10000 + 256 * g)) 256 = false) ∧
    ((((reading 0 0).op 0 0).inputs.find? fun x => x.1 = 0) = some (0, 0x10000, 4) ∧ ((reading 0 0).op 0 0).lastInput = 0) ∧
    ((((reading 2 15).op 0 0).inputs.find? fun x => x.1 = 15) = some (15, 0x10000 + 2048 + 1792, 256) ∧
      ((reading 2 15).op 0 0).lastInput = 15 ∧ (((reading 2 0).op 0 0).inputs.find? fun x => x.1 = 0) = some (0, 0x10000, 256)) ∧
    (List.replicate 64 (Ex.zero)).length = 64 ∧
    (Ex.ofBits .bf16 0x3F80 = .fin false 128 (-7) ∧ Ex.ofBits .bf16 0xBF80 = .fin true 128 (-7) ∧ 0x3F80 < 32768 ∧
      Ex.ofBits .bf16 0x7F80 = .inf false ∧ Ex.ofBits .bf16 0x7FC0 = .nan false) := by
  have h (a : Act) : (((flying a).without 0 (item a)).ctx 0).regs.marks = [] := by
    unfold without
    split <;> rfl
  refine ⟨fun a _ => test_flying_is_due a, fun a r => ?_, fun a z => ?_, by decide, by decide +kernel, by decide, by decide, by decide,
    by decide⟩
  · rw [Regs.isMarked, h]
    rfl
  · simp [State.markedRow, h]

/-- Command 1 of the context of tile 0, after a producer that has completed with a status; its event. -/
def command1 (k : Cmd) (st : Nat) (ps : BitVec 2) : State :=
  { lone { busy with cmds := [(1, k), (2, { op := 0x30, issued := 80, wake := 81, status := st })] } [0, 1] with
    pairs := [(0, { pstate := ps })] }

def copyCmd : Cmd := { op := 0x30, issued := 90, wake := 91, prods := [2] }
def arrayCmd : Cmd := { op := 0x38, issued := 90, wake := 91 }

/-- The context's queue has an RCB, which no page holds. -/
def held422 : State :=
  { command1 copyCmd 1 0 with gangs := [(0, { loneGang 0 with slice := { b0 := some 0, chain := [0x40000] } })] }

theorem test_witness_EngineEvents :
    ((command1 copyCmd 1 0).cmdReady 0 1 = true ∧ (command1 copyCmd 1 0).chainStatus 0 copyCmd = none ∧
      (command1 copyCmd 1 0).cmd 0 1 = copyCmd) ∧
    ((command1 copyCmd 3 0).cmdReady 0 1 = true ∧ (command1 copyCmd 3 0).chainStatus 0 copyCmd = some (3, 0)) ∧
    ((command1 arrayCmd 1 2).arrReady 0 1 = true ∧ (command1 arrayCmd 1 2).chainStatus 0 arrayCmd = none ∧
      ((command1 arrayCmd 1 2).pair (enginePair 0 arrayCmd)).pstate = 2) ∧
    ((command1 arrayCmd 1 0).arrReady 0 1 = true ∧ ((command1 arrayCmd 1 0).pair (enginePair 0 arrayCmd)).pstate ≠ 2) ∧
    (∀ op ∈ [0x30, 0x38, 0x3D], ({ command1 { arrayCmd with
      op := op
      started := true } 1 0 with beat := 1000 }).cmdDue 0 1 = true) ∧
    (command1 { arrayCmd with op := 0x3D } 1 0).mustWait 0 { arrayCmd with op := 0x3D } = false ∧
    (copyCmd.op ≠ 0x3D ∧ 0x0B < 0x10 ∧ 0x0B ≠ 0 ∧ copyCmd.cnt ≠ some 3) ∧
    ((command1 { copyCmd with op := 0x34 } 3 0).cmdReady 0 1 = true ∧ (command1 { copyCmd with op := 0x34 } 3 0).syncColl 0 1 = false ∧
      (command1 { copyCmd with op := 0x34, blk := [2] } 5 0).cmdReady 0 1 = true ∧
      (command1 { copyCmd with op := 0x34, blk := [2] } 5 0).chainStatus 0 { copyCmd with op := 0x34, blk := [2] } ≠ some (3, 0) ∧
      (command1 { copyCmd with op := 0x34, blk := [2] } 5 0).syncColl 0 1 = true) ∧
    (({ command1 { copyCmd with op := 0x34, blk := [2] } 3 0 with beat := 448 } : State).cmdReady 0 1 = true ∧
      ({ command1 { copyCmd with op := 0x34, blk := [2] } 3 0 with beat := 448 } : State).groupReady 0 = true ∧
      ({ command1 { copyCmd with op := 0x34, blk := [2] } 3 0 with beat := 448, grptab := 2 ^ 30 } : State).groupReady 0 = false) ∧
    (({ command1 { copyCmd with started := true, ending := some (1, 0) } 1 0 with beat := 1000 }).cmdDue 0 1 = true ∧
      ({ command1 { copyCmd with started := true, ending := some (1, 0) } 1 0 with beat := 1000 }).cmd 0 1 =
        { copyCmd with started := true, ending := some (1, 0) }) ∧
    ((command1 copyCmd 1 0).endWaits 0 1 1 = false ∧ ((command1 copyCmd 1 0).addClaim (.bank 0 3) 100).endWaits 0 1 1 = true ∧
      ({ command1 copyCmd 1 0 with forwards := [⟨65536, 0, 0, 0, 1, 0, false, [], none, some (0, 1)⟩] } : State).endWaits 0 1 1 = false) ∧
    ((held422.holdRuns 0 0x10 = [(0x40016, 2)] ∧ held422.ctlReady (held422.holdRuns 0 0x10) = false ∧ held422.endWaits 0 1 0x10 = true)) := by
  refine ⟨by decide +kernel, by decide +kernel, by decide +kernel, ⟨?_, by decide +kernel⟩, by decide +kernel, by decide +kernel, by decide,
    by decide +kernel, by decide +kernel, by decide +kernel, by decide +kernel⟩
  have h : (command1 arrayCmd 1 0).heldOn (dieOf (tileOf 0)) = 0 := by decide +kernel
  have hl : (command1 arrayCmd 1 0).livePairs = 16384 := by decide +kernel
  have hc : 0 < (command1 arrayCmd 1 0).engineCap := by
    rw [engineCap, hl]
    exact Nat.lt_of_lt_of_le Nat.one_pos (Nat.le_max_left _ _)
  unfold arrReady
  rw [h, decide_eq_true hc]
  decide +kernel

/-! ### Control memory, fabric, host and scheduling -/

/-- Bytes of the control space, which the tables below map on one bank group. -/
def put (va n v : Nat) (s : State) : State := s.wr (hbmBase + va) (leBytes n v) false

/-- A 2 MiB page of the control space, writable, accessed, dirty and open to the host, at beat 448, in the open interval, of a module that runs. -/
def control : State :=
  ({ lone with
      beat := 448
      asidDir := hbmBase + 0x2000
      qtab := 0x10000
      grptab := 0x50000
      hstat := 1 }) |> put 0 8 0x1001 |> put 0x1000 8 0x3001 |> put 0x3000 8 0x0201F0000000002F |> put 0x2000 8 1 |> put 0x2008 4 0x0001F000

/-- Queue 0 in a state, with one entry to come. -/
def queued (st : Nat) : State :=
  control |> put 0x10000 8 0x20000 |> put 0x10008 8 0x30000 |> put 0x10010 8 0x40000 |> put 0x10018 4 (0x0404 + 65536 * st) |>
    put 0x1001C 4 1

/-- The same with a root RCB that overrides every field. -/
def rooted (st : Nat) : State :=
  queued st |> put 0x40008 4 255 |> put 0x4000F 1 1 |> put 0x40010 2 7 |> put 0x40014 2 16

def okB {α : Type} : Got α → Bool
  | .ok _ _ => true
  | _ => false

def faultB {α : Type} : Got α → Option (Nat × Nat)
  | .fault r x => some (r, x)
  | _ => none

theorem ok_of_isOk {α : Type} {g : Got α} (h : okB g = true) : ∃ v t, g = .ok v t := by
  cases g with
  | ok v t => exact ⟨v, t, rfl⟩
  | fault _ => cases h
  | hold => cases h

theorem test_control_space : (control.ctlPlace 0x12345).map Place.flat = some (hbmBase + 0x12345) := by decide +kernel

/-- An instance of group 0 with this module's part of two, or both. -/
def instance1 (n : Nat) : Inst :=
  { gid := 0
    k := 0
    first := 28
    ranks := (List.range n).map fun r => (r, ⟨2, 2, 4, 0, 0, 0, 5⟩)
    cmd := some (0, 1) }

/-- A flit on port 17 with a link sequence number, of an operation, LCRC good or not. -/
def flitIn (good lseq op : Nat) : State := { lone with ev := [17, good, lseq, 5, 7, 3, 3, 0, 0, 0, 0, 0, 0, op, 1, 9] }

/-- A copy piece received: sender's command, its address, its marks and 64 bytes; and who waits for the machine. -/
def pieceIn : Sent :=
  { port := 0, dfn := 5, sfn := 7, vc := 0, asid := 0, op := msgCopy, words := [0, 1, 2, 0x60000, 0, 0], data := leBytes 64 1 }
def received : State := { control with rxWait := [{ n := 4, flit := pieceIn }] }

/-- The host's access to BAR4: read or write, offset, bytes. -/
def hosted (l : List Nat) : State := { control with ev := l }

theorem test_instance_full : State.Inst.full (instance1 2) = true ∧ State.Inst.full (instance1 1) = false := by
  constructor <;> simp [State.Inst.full, State.Inst.data, instance1, State.Joined.bytes, List.range, List.range.loop]

theorem test_witness_FabricAndHostEvents :
    ((flitIn 0 0 0).arg 1 = 0 ∧ (flitIn 1 0 msgAck).arg 1 ≠ 0 ∧ (flitIn 1 0 msgAck).arrived.op = msgAck ∧
      (flitIn 1 0 msgRetry).arrived.op = msgRetry ∧ (flitIn 1 7 0).arrived.lseq = 7 ∧
      tget 0 ((flitIn 1 7 0).takeBack (flitIn 1 7 0).arrived).rxSeq 17 = 0 ∧
      tget 0 ((flitIn 1 0 0).takeBack (flitIn 1 0 0).arrived).rxSeq 17 = (flitIn 1 0 0).arrived.lseq ∧
      (flitIn 1 0 0).arrived.port < 18 ∧ (flitIn 1 0 0).arrived.vc = 3 ∧ (flitIn 1 0 0).arrived.nl = 3) ∧
    (({ lone with ev := [18, 1] }).arrived.port = 18 ∧ ({ lone with ev := [17, 1, 0, 0, 0, 0, 4] }).arrived.nl = 4) ∧
    (lone.ev = [] ∧ received.rxDue { n := 4, flit := pieceIn } = true ∧
      okB (({ received with asker := .flit 4 } : State).message pieceIn) = true ∧ pieceIn.op = msgCopy ∧
      okB (received.vwrite 0 0 0x60000 (State.withMarks 0 (leBytes 64 1))) = true) ∧
    (lone.lineHeld 0 0 = false ∧ ({ lone with heldWrites := [{ asid := 0, va := 0, data := [] }] }).lineHeld 0 0 = true) ∧
    (({ lone with insts := [instance1 2] }).inst 0 0 = some (instance1 2) ∧ (instance1 2).cmd = some (0, 1)) ∧
    (({ control with insts := [instance1 1] } |> put 0x50004 4 420).inst 0 0 = some (instance1 1) ∧
      ({ control with insts := [instance1 1] } |> put 0x50004 4 420).groupTmo 0 = 420 ∧
      (instance1 1).first + 420 ≤ control.beat) ∧
    ((hosted [0, 0x60000, 8]).arg 0 ≠ 1 ∧ okB ((hosted [0, 0x60000, 8]).vread 0 0 0x60000 8) = true ∧
      (hosted [1, 0x60000, 2, 1, 2]).arg 0 = 1 ∧ okB ((hosted [1, 0x60000, 2, 1, 2]).vwrite 0 0 0x60000 (State.clean [1, 2])) = true) ∧
    ((faultB ((hosted [0, 2 ^ 30, 8]).vread 0 0 (2 ^ 30) 8)).isSome = true ∧
      (faultB ((hosted [1, 2 ^ 30, 1, 1]).vwrite 0 0 (2 ^ 30) (State.clean [1]))).isSome = true) ∧
    ((0x60000 : Nat) % 8 = 0 ∧ okB (control.xlate 0 0 0x60000 true) = true ∧
      control.marked (hbmBase + 0x60000) 8 = false ∧ control.sysaOf 0 0 (2 ^ 30) = false) ∧
    (control.qtab ≠ 0 ∧ control.ctlReady (control.bellRuns 0 3) = true ∧ control.bells = [] ∧ (hosted [0, 4, 3]).arg 1 = 4 ∧
      (hosted [0, 4, 3]).arg 3 ≠ 1 ∧ (hosted [0, 4, 3]).arg 0 % 4 = 0 ∧ lone.ctlReady (lone.bellRuns 0 3) = false) ∧
    (control.queueBad 0 = true ∧ (queued 1).queueBad 0 = false ∧ (queued 1).qField 0 0x1A 1 = 1 ∧ (queued 3).queueBad 0 = false ∧
      (queued 3).qField 0 0x1A 1 = 3 ∧ (queued 1).overruns 0 16 = false ∧ (queued 1).overruns 0 17 = true ∧
      (queued 1).chainOf ((queued 1).qField 0 0x10 8) = none ∧ (rooted 1).overruns 0 17 = true ∧
      (rooted 1).chainOf ((rooted 1).qField 0 0x10 8) = some [0x40000] ∧ (rooted 1).queueBad 0 = false) := by decide +kernel

theorem test_witness_VerdictRule :
    ((5 : Word) ∈ [5, 5, (7 : Word)] ∧ [5, 5, (7 : Word)].length < 2 * votes [5, 5, 7] 5) ∧ ∀ m, 2 * votes [5, (7 : Word)] m ≤ 2 := by
  refine ⟨by decide, fun m => ?_⟩
  by_cases h5 : m = 5
  · subst h5
    decide
  by_cases h7 : m = 7
  · subst h7
    decide
  have h5' : (5 : Word) ≠ m := fun h => h5 h.symm
  have h7' : (7 : Word) ≠ m := fun h => h7 h.symm
  have e : [(5 : Word), 7].filter (fun x => x = m) = [] := List.filter_eq_nil_iff.mpr (by simp; exact ⟨h5', h7'⟩)
  rw [votes, e]
  decide

/-! ### Steps of engine commands, by command -/

/-- Whether an access is answered so. -/
def gotB {α : Type} (g : Got α) (p : α → State → Bool) : Bool :=
  match g with
  | .ok v t => p v t
  | _ => false

/-- A command of tile 0 that has started, with fields of its block. -/
def cmdOf (op : Nat) (fs : List (Nat × Nat)) : Cmd := { op := op, blk := block fs, pos := 0x10000, issued := 90, wake := 91, started := true }

/-- Open extents of a near page, a host page without SYSA and one with it. -/
def opened (base : BitVec 57) : Extent := { len := 0x10000, valid := true, wr := true, kind := 2, base := base }

/-- That command, of module 5, alone in an open interval, with other commands beside it, group 0 of modules 5 and 9, and pages of the host
at 4 MiB and 6 MiB of the control space. -/
def engine (k : Cmd) (more : List (Nat × Cmd) := []) : State :=
  { control with
    ctxs := [(0, { busy with
      cmds := (1, k) :: more
      extents := [(1, opened 0x60000), (2, opened 0x400000), (3, opened 0x600000)] })]
    fnum := 5
    pairs := [(0, {})]
    ev := [0, 1] } |> put 0x3010 8 0x010000000000003F |> put 0x3018 8 0x030000000000003F |> put 0x50000 2 2 |> put 0x50010 2 5 |>
    put 0x50012 2 9

def ext (n o : Nat) : Nat := n * 2 ^ 56 + o

/-- The state in which its step is made, and that the step is due. -/
def stepOf (k : Cmd) (more : List (Nat × Cmd) := []) : State := (engine k more).asCmd 0 1
def dueB (k : Cmd) (more : List (Nat × Cmd) := []) : Bool := (engine k more).cmdDue 0 1 && (engine k more).cmd 0 1 == k

/-- An earlier fence of every scope that has still to complete, and an earlier command with an access to come. -/
def fenceCmd : Cmd := { op := 0x3D, scope := 4, issued := 80, wake := 81, started := true }
def earlier : Cmd := { op := 0x30, blk := block [(8, 0x11000), (0x10, 0x12000), (0x18, 64), (0x1C, 0xFFFF)], issued := 80, wake := 81, started := true }

/-- An atomic's place is answered so; the same for a barrier. -/
def atomB (k : Cmd) (p : Place → State → Bool) : Bool :=
  dueB k && !((stepOf k).mustWait 0 k) && gotB ((stepOf k).place 0 (k.w 0x08) 0 (k.op != 0x3C)) p

def notHeld (k : Cmd) (p : Place) (t : State) : Bool := !(t.fenced 0 k.issued (State.homeSpot p)) && !(t.placeBusy 0 p k.atomBytes)

theorem test_witness_engine_atoms :
    [ -- an atomic that orders waits; its word near, held by a fence, of the host without SYSA and with it, marked
      dueB (cmdOf 0x31 [(0, 0x0280), (8, 0x12000)]) [(2, earlier)] &&
        (stepOf (cmdOf 0x31 [(0, 0x0280), (8, 0x12000)]) [(2, earlier)]).mustWait 0 (cmdOf 0x31 [(0, 0x0280), (8, 0x12000)]),
      atomB (cmdOf 0x31 [(8, 0x12000)]) fun p t => notHeld (cmdOf 0x31 []) p t && decide (p.flat < hostBase) && t.through.isEmpty &&
        !(t.marked p.flat 4) && p.home == 0,
      atomB (cmdOf 0x31 [(0, 1), (8, ext 1 0), (0x18, 9)]) fun p t => notHeld (cmdOf 0x31 []) p t && decide (p.flat < hostBase) &&
        t.rdNat p.flat 4 != 9,
      dueB (cmdOf 0x31 [(8, 0x12000)]) [(2, fenceCmd)] && gotB ((stepOf (cmdOf 0x31 [(8, 0x12000)]) [(2, fenceCmd)]).place 0 0x12000 0 true)
        fun p t => t.fenced 0 90 (State.homeSpot p),
      atomB (cmdOf 0x31 [(8, ext 2 0)]) fun p t => notHeld (cmdOf 0x31 []) p t && decide (hostBase ≤ p.flat) &&
        !(t.sysaOf 0 0 (t.lineBase 0 (BitVec.ofNat 64 (ext 2 0)) 0)),
      atomB (cmdOf 0x31 [(0, 2), (8, ext 3 0)]) fun p t => notHeld (cmdOf 0x31 []) p t && decide (hostBase ≤ p.flat) &&
        t.sysaOf 0 0 (t.lineBase 0 (BitVec.ofNat 64 (ext 3 0)) 0) && t.through.isEmpty,
      gotB (({ stepOf (cmdOf 0x31 [(8, 0x12000)]) with marks := [(markKey (poolAt 0 0x12000), true)] } : State).place 0 0x12000 0 true)
        fun p t => t.marked p.flat 4,
      -- the objects of barriers: near with each of the phases, counts, and kinds; of the host; marked
      (stepOf (cmdOf 0x3A [(0, 4), (8, 0x12000)]) [(2, earlier)]).mustWait 0 (cmdOf 0x3A [(0, 4), (8, 0x12000)]),
      [0x3A, 0x3B, 0x3C].all fun op => atomB (cmdOf op [(8, 0x12000), (0x10, 0)]) fun p t =>
        !(t.fenced 0 90 (State.homeSpot p)) && decide (p.flat < hostBase) && t.through.isEmpty && !(t.marked p.flat 16) &&
          leNat ((t.rd p.flat 16).drop 8 |>.take 4) == 0 && (leNat ((t.rd p.flat 16).drop 4 |>.take 4) + 1) % 2 ^ 32 != leNat ((t.rd p.flat 16).take 4),
      [0x3B, 0x3C].all fun op => atomB (cmdOf op [(8, 0x12000), (0x10, 1)]) fun p t =>
        leNat ((t.rd p.flat 16).drop 8 |>.take 4) != (cmdOf op [(0x10, 1)]).f 0x10 4,
      gotB (((stepOf (cmdOf 0x3B [(8, 0x12000)])) |>.wr (poolAt 0 0x12000) [1] false).place 0 0x12000 0 true) fun p t =>
        (leNat ((t.rd p.flat 16).drop 4 |>.take 4) + 1) % 2 ^ 32 == leNat ((t.rd p.flat 16).take 4),
      atomB (cmdOf 0x3B [(8, ext 3 0)]) fun p t => !(t.fenced 0 90 (State.homeSpot p)) && decide (hostBase ≤ p.flat),
      gotB (({ stepOf (cmdOf 0x3C [(8, 0x12000)]) with marks := [(markKey (poolAt 0 0x12000), true)] } : State).place 0 0x12000 0 false)
        fun p t => t.marked p.flat 16,
      -- fences
      dueB { fenceCmd with issued := 90 } && !((stepOf { fenceCmd with issued := 90 }).mustWait 0 { fenceCmd with issued := 90 }),
      (stepOf { fenceCmd with issued := 90 } [(2, earlier)]).mustWait 0 { fenceCmd with issued := 90 } ].all id = true := by decide +kernel

/-- A copy of 64 bytes inside the module; one to module 9; a gather of two rows of 32 bytes. -/
def copying : List (Nat × Nat) := [(8, 0x11000), (0x10, 0x12000), (0x18, 64), (0x1C, 0xFFFF)]
def farCopy : List (Nat × Nat) := [(8, 0x11000), (0x10, 0x60000), (0x18, 64), (0x1C, 9)]
def gathers : List (Nat × Nat) := [(0, 1), (8, 0x11000), (0x10, 0x12000), (0x18, 32), (0x1C, 0x0002FFFF), (0x20, 0x13000), (0x2C, 32)]

/-- The runs of a copy's first unit are read so. -/
def runsB (k : Cmd) (p : List (Byte × Bool) → State → Bool) : Bool :=
  let n := min 64 (k.copyLen - 64 * k.prog)
  let runs := State.copyRuns k n (64 * k.prog) n
  ((stepOf k).nextIndex 0 k runs).isNone && match State.readRuns 0 k runs (stepOf k) with
    | .ok l _ t => p l t
    | _ => false

theorem test_witness_engine_copies :
    [ dueB (cmdOf 0x30 farCopy) && ({ engine (cmdOf 0x30 farCopy) with fnum := 0xFFFF } : State).fnum == 0xFFFF,
      dueB { cmdOf 0x30 farCopy with asked := 1 } && (cmdOf 0x30 copying).f 0x1C 2 == 0xFFFF,
      dueB { cmdOf 0x30 farCopy with out := [(0x60000, [(5, false)])] } && !((stepOf (cmdOf 0x30 farCopy)).fenced 0 90 hostBase),
      dueB { cmdOf 0x30 copying with prog := 1 } && min 64 ((cmdOf 0x30 copying).copyLen - 64) == 0,
      dueB { cmdOf 0x30 copying with stop := some (0x03, 0) },
      dueB (cmdOf 0x30 gathers) && (stepOf (cmdOf 0x30 gathers)).nextIndex 0 (cmdOf 0x30 gathers)
        (State.copyRuns (cmdOf 0x30 gathers) 64 0 64) == some 0 && gotB ((stepOf (cmdOf 0x30 gathers)).aread 0 90 0x13000 0 4) fun _ _ => true,
      dueB (cmdOf 0x30 copying) && runsB (cmdOf 0x30 copying) fun l t => l.length == 64 && !((cmdOf 0x30 copying).far (stepOf (cmdOf 0x30 copying))) &&
        gotB (t.copyWrite 0 (cmdOf 0x30 copying) 0 (State.flipped [] 0 l)) fun _ _ => true,
      dueB (cmdOf 0x30 farCopy) && runsB (cmdOf 0x30 farCopy) fun l _ => l.length == 64 && (cmdOf 0x30 farCopy).far (stepOf (cmdOf 0x30 farCopy)),
      runsB { cmdOf 0x30 gathers with idx := [(0, 0, true)] } fun l _ => l.isEmpty,
      -- what ends a copy, and what it reads and writes in its own pool
      (copying.map (·.1)).length == 4 && (cmdOf 0x30 [(0, 16), (0x28, 7)]).f 0x28 4 == 7 && ((cmdOf 0x30 [(0, 16)]).f 0 1).testBit 4,
      [0, 1, 2].all fun m => (cmdOf 0x30 [(0, m), (0x18, 32), (0x1E, 2)]).f 0x18 4 == 32 && bits ((cmdOf 0x30 [(0, m)]).f 0 1) 0 2 == m,
      (match State.readRuns 0 (cmdOf 0x30 copying) [(none, 0, 64)] control with | .ok l st _ => st == 0 && l.length == 64 | _ => false) &&
        control.through.isEmpty && gotB (control.copyWrite 0 (cmdOf 0x30 copying) 0 (State.clean [1, 2])) fun _ _ => true ].all id = true := by
  decide +kernel

/-- A reduction of 64 bytes into a window of group 0 at 0x60000; the same as the source of a multicast, and of collectives. -/
def reducing : List (Nat × Nat) := [(8, 0x11000), (0x10, ext 1 0), (0x18, 64)]
def windowed (k : Cmd) (rop : Nat := 0) : State := { stepOf k with windows := [⟨5, 0, 0x60000, 64, 0, rop, 0⟩] }

/-- A step that finds this module a rank of group 0, with the command as it was; and one whose table page is not there. -/
def rankB (k : Cmd) (p : State → Bool) : Bool :=
  let t := (stepOf k).groupUse 0
  dueB k && (stepOf k).groupReady 0 && t.rankOf 0 t.fnum.toNat == some 0 && t.cmd 0 1 == k && (t.ctx 0).asid.toNat == 0 && p t

theorem test_witness_engine_groups :
    [ dueB (cmdOf 0x32 reducing) && ((stepOf (cmdOf 0x32 reducing)).winOf 0 ((stepOf (cmdOf 0x32 reducing)).lineBase 0 (BitVec.ofNat 64 (ext 1 0)) 0)
        64).isNone,
      dueB { cmdOf 0x32 reducing with stop := some (0x14, 0) },
      [0, 1].all fun n => dueB { cmdOf 0x32 reducing with prog := 1 } && ({ stepOf (cmdOf 0x32 reducing) with merges :=
        if n = 0 then [] else [⟨0, 0x1800, [⟨0, 5, 2, 0, [], some (0, 9)⟩, ⟨0, 5, 2, 0, [], some (0, 1)⟩]⟩] } : State).partsWait 0 1 == (n == 1),
      (let s := windowed (cmdOf 0x32 reducing)
       let t := s.groupUse 0
       let va := s.lineBase 0 (BitVec.ofNat 64 (ext 1 0)) 0
       s.winOf 0 va 64 == some ⟨5, 0, 0x60000, 64, 0, 0, 0⟩ && s.groupReady 0 && t.rankOf 0 5 == some 0 &&
        !(t.fencedBy 0 90 fun _ _ => true) && gotB (t.aread 0 90 0x11000 0 64) fun v _ => !v.2),
      (windowed (cmdOf 0x32 reducing) 1).winOf 0 0x60000 64 == some ⟨5, 0, 0x60000, 64, 0, 1, 0⟩,
      !(({ windowed (cmdOf 0x32 reducing) with grptab := 2 ^ 30 } : State).groupReady 0),
      -- collectives: a rank; a module that is none; windows taken or free; before and after the contribution
      rankB (cmdOf 0x34 [(0x18, 0x60000), (0x20, 64)]) fun t => !(t.winClash 0 0x60000 64),
      (windowed (cmdOf 0x34 [(0x18, 0x60000), (0x20, 64)])).winClash 0 0x60000 64,
      (({ stepOf (cmdOf 0x34 []) with fnum := 7 } : State).groupUse 0).rankOf 0 7 == none,
      [0, 1].all fun op => rankB { cmdOf 0x34 [(0, op)] with prog := 1, answers := 1 } fun t => decide (t.groupN 0 ≤ 1 + 1),
      rankB (cmdOf 0x34 [(0, 2), (0x20, 64)]) fun t => !(t.collBehind 0 1 (cmdOf 0x34 [(0, 2), (0x20, 64)])),
      (stepOf (cmdOf 0x34 [(0, 2)]) [(2, { cmdOf 0x34 [(0, 2)] with issued := 80 })]).collBehind 0 1 (cmdOf 0x34 [(0, 2)]),
      rankB { cmdOf 0x34 [(0, 2), (0x20, 64)] with inst := some 0 } fun _ => ({ control with insts := [{ instance1 2 with ends := 0x14 }] } : State).inst 0 0 ==
        some { instance1 2 with ends := 0x14 },
      gotB ((stepOf (cmdOf 0x34 [])).cmdWrite 0 90 0x60000 (State.clean [1])) fun _ _ => true,
      ((instance1 2).todo.isEmpty && (instance1 2).ends == 0 && !(instance1 2).judged && (instance1 2).verdict == 0),
      -- multicasts
      rankB { cmdOf 0x35 [(0x20, 64)] with asked := 1 } fun t => decide (0 + 1 < t.groupN 0),
      rankB { cmdOf 0x35 [(0x20, 64)] with asked := 1, answers := 1 } fun t => decide (t.groupN 0 ≤ 1 + 1),
      rankB { cmdOf 0x35 [(0x20, 64)] with prog := 1 } fun t => !(t.fencedBy 0 90 fun _ sc => 4 ≤ sc),
      rankB (cmdOf 0x35 [(8, 0x11000), (0x20, 64)]) fun t => gotB (t.aread 0 90 0x11000 0 64) fun v _ => !v.2,
      rankB (cmdOf 0x35 [(8, 0x11000), (0x20, 64)]) fun t => gotB (({ t with marks := [(markKey (poolAt 0 0x11000), true)] } : State).aread 0 90 0x11000 0 64)
        fun v _ => v.2 ].all id = true := by
  decide +kernel

/-- A re-stripe of a page of 64 KiB that has a granule to copy, or none; it goes to a place apart. -/
def moving (todo : List Nat) (commits : Bool) (dirty : List Nat) : Move :=
  { own := some (0, 1), asid := 0, va := 0x60000, size := 65536, entryAt := (0x0001F000, 0x3000), entry := 0x0001F0000000002F,
    oldBase := 0x60000, oldPlace := 0x0001F000, newBase := 0x80000, newPlace := 0x0001F000, todo := todo, committing := commits, dirty := dirty }

/-- The control space with an entry of its second 2 MiB page. -/
def paged (e : Nat) : State := control |> put 0x3008 8 e

theorem test_witness_engine_moves :
    [ dueB (cmdOf 0x33 []) && (({ stepOf (cmdOf 0x33 []) with moves := [moving [0] false []] } : State).moves.find? fun m => m.own = some (0, 1)) ==
        some (moving [0] false []),
      !((stepOf (cmdOf 0x33 [(8, 0x60000)])).fencedBy 0 90 fun d sc => (stepOf (cmdOf 0x33 [(8, 0x60000)])).moveIn d sc (cmdOf 0x33 [(8, 0x60000)])),
      (stepOf (cmdOf 0x33 [(8, 0x60000)]) [(2, fenceCmd)]).fencedBy 0 90 fun d sc => (stepOf (cmdOf 0x33 [(8, 0x60000)]) [(2, fenceCmd)]).moveIn d sc
        (cmdOf 0x33 [(8, 0x60000)]),
      (match stripeOfStale control.geom 0x60000 0x0001F000, stripeOfStale control.geom 0x80000 0x0001F000 with
        | some a, some b => decide (a.flat + 256 ≤ b.flat ∨ b.flat + 256 ≤ a.flat)
        | _, _ => false),
      [true, false].all fun b => !(({ control with moves := [moving [] b []] } : State).moveHeld (moving [] b [])),
      decide ((moving [] false [3]).dirty ≠ [] ∧ (moving [] false [3]).pass < 4),
      (match control.walk 0 (2 ^ 30) with | .absent => true | _ => false),
      (match (paged 0x0001F0000000206F).walk 0 0x200000 with | .malformed => true | _ => false),
      (match (paged 0x010000000000003F).walk 0 0x200000 with | .leaf l => l.entry.testBit 4 | _ => false) ].all id = true := by decide +kernel

/-- A checkpoint of one row and one column to the pool; a programming of one cell, with a report or none. -/
def rowCmd (fs : List (Nat × Nat)) : List (Nat × Nat) := [(0x10, 0x11000)] ++ fs

theorem test_witness_engine_arrays :
    [ dueB { cmdOf 0x36 (rowCmd []) with prog := 512 } && decide ((cmdOf 0x36 (rowCmd [])).win.rows ≤ 512),
      decide (0 < (cmdOf 0x36 (rowCmd [])).win.rows),
      gotB ((stepOf (cmdOf 0x36 (rowCmd []))).awrite 0 90 0x11000 0 (State.clean [1, 2])) fun _ _ => true,
      dueB { cmdOf 0x37 (rowCmd []) with prog := 512 } && decide ((cmdOf 0x37 (rowCmd [])).win.rows ≤ 512),
      dueB { cmdOf 0x37 (rowCmd []) with count := some 3 } && (cmdOf 0x37 (rowCmd [])).f 0x28 8 == 0,
      (cmdOf 0x37 (rowCmd [(0x28, 0x12000)])).f 0x28 8 != 0 &&
        gotB ((stepOf (cmdOf 0x37 (rowCmd [(0x28, 0x12000)]))).awrite 0 90 0x12000 0 (State.clean (leBytes 2 3))) fun _ _ => true,
      bits ((cmdOf 0x37 (rowCmd [])).f 0 1) 4 2 != 1 && gotB ((stepOf (cmdOf 0x37 (rowCmd []))).aread 0 90 0x11000 0
        ((cmdOf 0x37 (rowCmd [])).win.cols * (cmdOf 0x37 (rowCmd [])).elem)) fun v _ => !v.2,
      gotB (({ stepOf (cmdOf 0x37 (rowCmd [])) with marks := [(markKey (poolAt 0 0x11000), true)] } : State).aread 0 90 0x11000 0
        ((cmdOf 0x37 (rowCmd [])).win.cols * (cmdOf 0x37 (rowCmd [])).elem)) fun v _ => v.2,
      [0x38, 0x39].all fun op => dueB (cmdOf op []),
      -- a RESULT that an earlier fence holds, and one that nothing holds
      (engine { cmdOf 0x31 [] with result := some (0x20, leBytes 8 5) } [(2, fenceCmd)]).endWaits 0 1 1,
      !((engine { cmdOf 0x31 [] with result := some (0x20, leBytes 8 5) }).endWaits 0 1 1) ].all id = true := by decide +kernel

/-- Places apart from which the bytes of memory keep their values. -/
theorem test_witness_command_frames :
    [ dueB (cmdOf 0x31 [(8, 0x12000)]) && atomB (cmdOf 0x31 [(8, 0x12000)]) fun p _ => decide (p.flat + 4 ≤ 0x12010),
      [0x3A, 0x3B, 0x3C].all fun op => atomB (cmdOf op [(8, 0x12000)]) fun p _ => decide (p.flat + 16 ≤ 0x12010),
      runsB (cmdOf 0x30 copying) fun l t => gotB (t.copySpots 0 (cmdOf 0x30 copying) 0 l.length) fun ps _ => ps.all fun y =>
        decide (y.1.flat + y.2 ≤ 0x12040),
      gotB (State.writePlaces 0 90 0x11000 ((stepOf (cmdOf 0x36 (rowCmd []))).lineBase 0 0x11000 0) 0 (State.pieces
        ((stepOf (cmdOf 0x36 (rowCmd []))).lineBase 0 0x11000 0) 4) (stepOf (cmdOf 0x36 (rowCmd [])))) fun ps _ => ps.all fun y =>
        decide (y.1.flat + y.2 ≤ 0x11010),
      (cmdOf 0x37 []).f 0x28 8 == 0 && [0x32, 0x35, 0x37, 0x38, 0x39, 0x3D].all fun op => dueB { cmdOf op [] with scope := 4 },
      decide (poolAt (tileOf 0) 0x10000 + 64 ≤ 0x10040),
      -- the host's accesses and a copy's line from another module
      gotB (State.vplaces 0 0 true (State.pieces 0x60000 2) { hosted [1, 0x60000, 2, 1, 2] with asker := .host }) fun ps _ => ps.all fun y =>
        decide (y.1.flat + y.2 ≤ hbmBase + 0x60010),
      gotB (({ hosted [0, 8, 0x60000, 1] with asker := .host } : State).xlate 0 0 0x60000 false) fun _ w =>
        gotB (w.xlate 0 0 0x60000 true) fun p _ => decide (p.flat + 8 ≤ hbmBase + 0x60010),
      gotB (received.message pieceIn) (fun _ _ => true) && gotB (State.vplaces 0 0 true (State.pieces 0x60000 64) received) fun ps _ =>
        ps.all fun y => decide (y.1.flat + y.2 ≤ hbmBase + 0x60040) ].all id = true := by decide +kernel

/-- Flits of the link's own; a page without SYSA in the second 2 MiB of the control space. -/
def linkWords (ws : List Nat) : Sent := { pieceIn with op := msgAck, words := ws }
def plainPage : State := { control |> put 0x3008 8 0x0001F0000000202F with asker := .host }

theorem test_witness_links_and_atomics :
    [ (let s : State := { received with asker := .flit 4 }
       received.rxDue { n := 4, flit := pieceIn } && gotB ((s.owe (State.vcKey pieceIn)).message pieceIn) fun _ _ => true),
      (let g : Sent := { pieceIn with port := 17, lseq := 5 }
       ({ control with unacked := [g] } : State).unacked.contains g && g.port == 17 && decide ((g.lseq + 2 ^ 32 - 3) % 2 ^ 32 < 2 ^ 31)),
      (linkWords [3, 1, 0]).words.getD 1 0 == 1 && (linkWords [3, 1, 0]).words.getD 2 0 != 1,
      (linkWords [3, 0, 1]).words.getD 1 0 != 1 && (linkWords [3, 0, 1]).words.getD 2 0 == 1,
      (flitIn 1 0 0).arrived.dfn != (flitIn 1 0 0).fnum.toNat && (flitIn 1 0 0).rxWait.isEmpty,
      ({ control with insts := [instance1 1] } : State).groupReady 0,
      [4, 8].all fun n => gotB (({ control with asker := .host } : State).xlate 0 0 0x60000 false) fun _ w => w.sysaOf 0 0 0x60000 &&
        gotB (w.xlate 0 0 0x60000 true) fun p t => decide (p.flat < hostBase) && t.through.isEmpty && !(t.marked p.flat n),
      gotB (plainPage.xlate 0 0 0x200000 false) fun _ w => !(w.sysaOf 0 0 0x200000),
      gotB (({ hosted [0, 0x60000, 8] with asker := .host } : State).vread 0 0 0x60000 8) fun _ _ => true,
      gotB (({ hosted [1, 0x60000, 2, 1, 2] with asker := .host } : State).vwrite 0 0 0x60000 (State.clean [1, 2])) fun _ _ => true,
      (faultB (({ hosted [0, 2 ^ 30, 8] with asker := .host } : State).vread 0 0 (2 ^ 30) 8)).isSome,
      (faultB (({ hosted [1, 2 ^ 30, 1, 1] with asker := .host } : State).vwrite 0 0 (2 ^ 30) (State.clean [1]))).isSome ].all id = true := by
  decide +kernel

/-! ### Values of every kind, for the statements about rounding and special functions -/

/-- What the encodings of FP32 and BF16 stand for: one, minus two, the zeros, the infinities, and NaNs quiet and signalling. -/
theorem test_kinds_of_values :
    (Ex.ofBits .fp32 0x3F800000 = .fin false 8388608 (-23) ∧ Ex.ofBits .fp32 0xC0000000 = .fin true 8388608 (-22) ∧
      Ex.ofBits .fp32 0 = .fin false 0 (-149) ∧ Ex.ofBits .fp32 0x80000000 = .fin true 0 (-149) ∧
      Ex.ofBits .fp32 0x7F800000 = .inf false ∧ Ex.ofBits .fp32 0xFF800000 = .inf true ∧
      Ex.ofBits .fp32 0x7FC00000 = .nan false ∧ Ex.ofBits .fp32 0x7F800001 = .nan true) ∧
    (Ex.ofBits .bf16 0x3F80 = .fin false 128 (-7) ∧ Ex.ofBits .bf16 0x8000 = .fin true 0 (-133) ∧ Ex.ofBits .bf16 0x7F80 = .inf false ∧
      Ex.ofBits .bf16 0xFFC0 = .nan false) ∧
    ((Ex.inf true).isZero = false ∧ (Ex.fin true 0 3).isZero = true ∧ (Ex.fin true 1 3).isNan = false) ∧
    ((2 : Nat), Fmt.fp32) ∈ [(2, Fmt.fp32), (3, Fmt.bf16)] ∧ (0xFFFF < 65536 ∧ 7 < 8) ∧ (Rnd.rne ≠ .rs ∧ (Rnd.rs = .rs → Fmt.bf16 = .bf16)) := by
  decide +kernel

/-- A probability below 1 and one of 1 or more. -/
theorem test_witness_probabilities :
    (ratVal false 1 (-1) * ratVal false 1 0 < 1 ∧ 1 ≤ ratVal false 1 1 * ratVal false 1 0) ∧ ratVal false 128 (-7) = 1 := by
  norm_num [ratVal]

/-- An operation of 512 rows and columns with all its elements, and one of a single row and column. -/
theorem test_witness_thresholds :
    4 * ((windowOf 0xFF803FE00).rows + (windowOf 0xFF803FE00).cols) = (List.replicate 4096 (0 : Byte)).length ∧
    4 * ((windowOf 0).rows + (windowOf 0).cols) ≤ (List.replicate 8 (0 : Byte)).length ∧
    (List.replicate 32 Ex.zero).length = 32 := by decide +kernel

/-- A wait staged, a trap staged, nothing landing at once. -/
def staged (u : Cursor) : State := { lone with cur := u }

theorem test_witness_bundle_ends :
    (State.collides lone.beat lone.me.lands = none ∧ lone.cur.wait = none ∧ lone.cur.trap = none) ∧
    ((staged { wait := some ⟨.rdv, 0, 0, 0, false, 0, 0⟩ }).cur.wait = some ⟨.rdv, 0, 0, 0, false, 0, 0⟩ ∧
      State.collides (staged { wait := some ⟨.rdv, 0, 0, 0, false, 0, 0⟩ }).beat (staged { wait := some ⟨.rdv, 0, 0, 0, false, 0, 0⟩ }).me.lands = none ∧
      (staged { wait := some ⟨.rdv, 0, 0, 0, false, 0, 0⟩ }).cur.trap = none) ∧
    ((staged { trap := some 7 }).cur.trap = some 7 ∧ State.collides (staged { trap := some 7 }).beat (staged { trap := some 7 }).me.lands = none) ∧
    (1 : Word) ≠ 0 ∧ 0 < 1 := by decide +kernel

/-! ### Scheduling, graphs, hoists -/

/-- A gang that is placed and not yet dispatched, whose member has ended at its last rendezvous, or which has failed. -/
def gangIn (g : Gang) (x : Ctx := busy) : State := { lone x with gangs := [(0, g)] }

def ended (f : Rdv) (e : Nat) : Ctx :=
  { busy with
    run := .waiting
    wait := some ⟨f, e, 0, 0, false, 0, 0⟩ }

/-- The same in an open interval. -/
def open448 (s : State) : State := { s with beat := 448 }

/-- A candidate whose descriptor is to be read, and a gang with a code page to be loaded. -/
def candidate (a : Nat) : State := (queued 1).enter 0 0 a none none
def feeding : State := { control with gangs := [(0, { loneGang 0 with slice := { feed := some { runs := [(0x70000, 4096)] } } })] }

theorem test_witness_SchedulingEvents :
    ((queued 1).admits 0 = true ∧ (queued 1).queueBad 0 = false) ∧ control.decideDue = true ∧
    (gangIn { loneGang 0 with slice := {} } { busy with run := .ready }).dispatchDue 0 = true ∧
    ((gangIn (loneGang 0) (ended .rdvfin 100)).sliceDone 0 = true ∧
      ∀ c ∈ ((gangIn (loneGang 0) (ended .rdvfin 100)).gang 0).members,
        (gangIn (loneGang 0) (ended .rdvfin 100)).completionFaults c (fun _ => true) = []) ∧
    (open448 (gangIn { loneGang 0 with fz := some ⟨100, .fail, none⟩ })).failDue 0 = true ∧
    ((queued 1).qField 0 0x1A 1 = 1 ∧ (queued 2).qField 0 0x1A 1 = 2 ∧ (queued 2).queueBad 0 = false ∧ (queued 2).qtab ≠ 0 ∧
      (queued 2).ctlReady [((queued 2).queueAt 0, 64)] = true ∧ (queued 2).restarting 0 = false ∧
      ({ queued 2 with restarts := [(0, 600)] }).restarting 0 = true ∧ lone.ctlReady [(0, 64)] = false) ∧
    lone.restarting 3 = false ∧ ({ lone with restarts := [(0, 100)] }).restartOver 0 = true ∧
    (lone.openNow = false ∧ ({ queued 1 with deferred := [⟨0, 1, 2, 0, 0, 0, 0⟩] }).pickDuty = some (.record ⟨0, 1, 2, 0, 0, 0, 0⟩) ∧
      ({ queued 1 with bells := [(0, 2)] }).pickDuty = some (.bell (0, 2)) ∧ ({ queued 2 with resumeQs := [0] }).pickDuty = some (.resume 0) ∧
      (candidate 0x70000).pickDuty.isSome = true ∧
      (feeding).pickDuty = some (.feed 0)) := by decide +kernel

/-- A graph at a node of a type, whose ADDR is a word of the control space. -/
def graph (st : GraphAt) (steps : Nat) : GraphRun :=
  { id := 0
    queue := 0
    order := 0
    tag := 0
    deadline := 0
    base := 0x60000
    steps := steps
    state := st }

def graphed (ty addr : Nat) (st : GraphAt := .node) (steps : Nat := 0) : State :=
  { control with graphs := [graph st steps] } |> put 0x60000 1 ty |> put 0x60008 8 addr

theorem test_witness_GraphEvents :
    (graphed 1 0x70000).graphById 0 = some (graph .node 0) ∧
    (graphed 1 0x70000).nodeDue 0 1 = true ∧
    ((graphed 1 0x70000 (.ended 1 0 5)).endedDue (graph (.ended 1 0 5) 0) = true ∧
      (graphed 1 0x70000 (.ended 0 2 0)).endedDue (graph (.ended 0 2 0) 0) = true ∧
      (graphed 1 0x70000 (.ended 0 2 0)).ctlGaps [(0x60000, 64)] = none) ∧
    ((graphed 2 0x70000).nodeDue 0 2 = true ∧ okB ((graphed 2 0x70000).vread 0 0 0x70000 8) = true) ∧
    ((graphed 3 0).nodeDue 0 3 = true ∧ (graphed 3 0).nodeField (graph .node 0) 8 8 = 0) ∧
    ((graphed 3 0x70000).nodeDue 0 3 = true ∧ okB ((graphed 3 0x70000).vread 0 0 0x70000 8) = true ∧
      (graphed 3 0x70000).nodeField (graph .node 0) 8 8 ≠ 0) ∧
    (graphed 4 0x70000).nodeDue 0 4 = true ∧
    ((graphed 5 0x70000).nodeDue 0 5 = true ∧ okB ((graphed 5 0x70000).vwrite 0 0 0x70000 (State.clean (leBytes 8 1))) = true) ∧
    ((graphed 4 0x70000 (.poll 0 0)).pollDue (graph (.poll 0 0) 0) = true ∧
      okB ((graphed 4 0x70000 (.poll 0 0)).vread 0 0 0x70000 8) = true) ∧
    ((graphed 4 0x70000 .node (2 ^ 24)).graphById 0 = some (graph .node (2 ^ 24)) ∧
      (graphed 4 0x70000 .node (2 ^ 24)).nodeReady (graph .node (2 ^ 24)) = true) ∧
    ((graphed 6 0x70000).nodeReady (graph .node 0) = true ∧ (graph .node 0).steps < 2 ^ 24 ∧ (graph .node 0).node ≤ 65535 ∧
      (graphed 6 0x70000).nodeBad (graph .node 0) = true ∧ (graphed 6 0x70000).ctlGap 0x60000 64 = none) ∧
    ((graphed 5 0x70004).nodeBad (graph .node 0) = true ∧ (graphed 1 0x70004).nodeBad (graph .node 0) = false) ∧
    (graph .node 0).parent = none := by decide +kernel

/-! ### Hoists, freezes, platform and management -/

/-- A slice saved from bank 0 of tile 1. -/
def savedFrame : SavedCtx :=
  { addr := 0x80000, ffl := 0, beatz := 90, hz := 0, charge := 0, recseq := 0, ctx := { busy with gang := 5 }, cid := 2, pairs := [],
    pool := [], marks := [], code := [] }
/-- Its header stands in memory. -/
def headed : State :=
  control |> put 0x80000 4 0x4D524643 |> put 0x80004 2 1 |> put 0x80008 2 1 |> put 0x80010 4 lonePart.toNat |> put 0x8001A 2 5
def savedSlice : Saved := { gid := 5, gang := loneGang 2, frames := [savedFrame] }

/-- Two gangs on tile 0: one at `swapctx`, the other switched out in the other bank. -/
def swapping : State :=
  { lone (ended .swapctx 99) with
    ctxs := [(0, ended .swapctx 99), (1, { busy with run := .ready, gang := 1 })]
    gangs := [(0, { loneGang 0 with entry := some 100 }), (1, { loneGang 1 with off := true })] }

/-- An item on the way to another die, retried so often; its event names it by its place. -/
def crossing (n : Nat) (l : List Nat) : State :=
  lone { busy with items := [{ item (.flit true 256 0 [] []) with tries := n }, { item (.lost 0 (.vldHalf 0 0)) with tries := 3 }] } l

theorem test_witness_HoistAndFreezeEvents :
    ((gangIn (loneGang 0) (ended .rdv 101)).entryDue 0 = true ∧ (gangIn (loneGang 0) (ended .rdv 101)).formsOf 0 = some [.rdv] ∧
      (loneGang 0).entry = none) ∧
    ((gangIn { loneGang 0 with entry := some 100 } (ended .rdv 99)).entryDue 0 = true ∧
      (gangIn { loneGang 0 with entry := some 100 } (ended .rdv 99)).formsOf 0 = some [.rdv] ∧
      (gangIn { loneGang 0 with entry := some 100 } (ended .rdv 99)).swapWaits 0 [.rdv] = false ∧
      (∀ c ∈ [0], (gangIn { loneGang 0 with entry := some 100 } (ended .rdv 99)).rdvFaults 0 c [.rdv] = []) ∧ Rdv.swapctx ∉ [Rdv.rdv]) ∧
    (swapping.entryDue 0 = true ∧ swapping.formsOf 0 = some [.swapctx] ∧ swapping.swapWaits 0 [.swapctx] = false ∧
      swapping.rdvFaults 0 0 [.swapctx] = [] ∧ (swapping.runnable 0).head? = some 1) ∧
    ((gangIn { loneGang 0 with entry := some 100 } { ended .swapctx 99 with hoists := [⟨0, true, true, 0, []⟩] }).swapWaits 0 [.swapctx] =
      true ∧ (gangIn { loneGang 0 with entry := some 100 } { ended .swapctx 99 with hoists := [⟨0, true, true, 0, []⟩] }).entryDue 0 = true) ∧
    (mixedForms [.rdv, .rdvfin] = true ∧ mixedForms [.swapctx, .waitk] = true ∧ mixedForms [.rdv, .waitk] = false) ∧
    (gangIn { loneGang 0 with resume := some 100 } { busy with run := .ready }).switchDue 0 = true ∧
    ((gangIn { loneGang 0 with
        resume := some 100
        fz := some ⟨50, .preempt, none⟩ }).switchDue 0 = true) ∧
    ((gangIn (loneGang 0)).gangLive 0 = true ∧ (loneGang 0).preempt = none) ∧
    ((gangIn { loneGang 0 with preempt := some (100, 2) }).freezeDue 0 = true ∧ ({ gangIn { loneGang 0 with hot := some 100 } with trip := true } : State).freezeDue 0 = true) ∧
    ((∀ n, (gangIn { loneGang 0 with
      preempt := some (50, 2)
      reset := some (100, n) }).watchDue 0 = true) ∧
      ((gangIn { loneGang 0 with reset := some (100, 1) }).before 0).gang = 0 ∧
      (gangIn { loneGang 0 with reset := some (100, 1) }).faultNow (tileOf 0) = none) ∧
    ((gangIn { loneGang 0 with
      preempt := some (50, 2)
      watch := 99 } { busy with ops := [(0, { kind := 2, pid := 0, first := 90, last := 150, win := 0, begun := true })] }).watchDue 0 =
        true ∧
      100 < (gangIn { loneGang 0 with preempt := some (50, 2) }
        { busy with ops := [(0, { kind := 2, pid := 0, first := 90, last := 150, win := 0, begun := true })] }).trainEnd 0) ∧
    (open448 (gangIn { loneGang 0 with
      fz := some ⟨90, .preempt, none⟩
      action := 2 })).saveDue 0 = true ∧
    (({ control with saved := [savedSlice] }).saved.find? (fun w => w.gid = 5) = some savedSlice ∧
      ({ control with saved := [savedSlice] }).restoreFits savedSlice 0 = true ∧
      ({ control with saved := [savedSlice], restarts := [(0, 600)] }).restoreFits savedSlice 0 = false ∧
      control.ctlReady [(0x80000, 256)] = true ∧ lone.ctlReady [(0x80000, 256)] = false ∧
      headersOk savedSlice ((control.ctlUse [(0x80000, 256)]).ctlRd 0x80000 256) = false ∧
      headersOk savedSlice ((headed.ctlUse [(0x80000, 256)]).ctlRd 0x80000 256) = true ∧
      (savedSlice.frames.map fun f : SavedCtx => tileOf f.cid).Nodup) ∧
    ((lone.ctx 0).run ≠ .empty ∧ (lone.ctx 0).run ≠ .done ∧ (lone.gang 0).off = false ∧ (lone.gang 0).slice.noprot = false) ∧
    ((gangIn { loneGang 0 with fz := some ⟨100, .trap, none⟩ }).gang 0).fz = some ⟨100, .trap, none⟩ ∧
    (∀ n ∈ [0, 1, 2], ((crossing n [0, 1]).ctx 0).items[1 - 1]? = some { item (.flit true 256 0 [] []) with tries := n } ∧
      (Act.flit true 256 0 [] []).onRing 0 = true) ∧
    (((crossing 0 [0, 0, 1]).ctx 0).items[1]? = some { item (.lost 0 (.vldHalf 0 0)) with tries := 3 } ∧
      (crossing 0 [0, 0, 1]).itemDue 0 { item (.lost 0 (.vldHalf 0 0)) with tries := 3 } = true) := by
  refine ⟨by decide +kernel, by decide +kernel, by decide +kernel, by decide +kernel, by decide +kernel, by decide +kernel,
    by decide +kernel, by decide +kernel, by decide +kernel, ⟨fun n => rfl, by decide +kernel, by decide +kernel⟩, by decide +kernel,
    by decide +kernel, by decide +kernel, by decide +kernel, by decide +kernel, by decide +kernel, by decide +kernel⟩

/-- A module at a boot step, in an open interval. -/
def booting (n f : Nat) : State := { lone with beat := 448, boot := .step n 100 f }

theorem test_witness_PlatformEvents :
    (lone.trip = false ∧ lone.ttrip.toNat ≤ ({ lone with ev := [0x69] }).arg 0 % 256) ∧
    (({ lone with trip := true }).trip = true ∧ ({ lone with ev := [0x5F] }).arg 0 % 256 + 10 ≤ lone.ttrip.toNat) ∧
    (({ lone with ev := [0x68] }).arg 0 % 256 < lone.ttrip.toNat ∧ lone.ttrip.toNat < ({ lone with ev := [0x60] }).arg 0 % 256 + 10) ∧
    ((lone { busy with xgrant := 0 } [0, 1]).arg 1 ≠ 0 ∧ ((lone { busy with xgrant := 0 } [0, 1]).pair 0).pstate = 0 ∧
      (lone { busy with xgrant := 0 } [0, 1]).grantRuns 0 = false) ∧
    ((granting 0 2 []).arg 1 = 0 ∧ ((granting 0 2 []).pair 0).pstate = 2) ∧
    (lone.geom.pairs.getLsbD 0 = true ∧ (({ parF := BitVec.allOnes 128 } : Pair).ok = false) ∧ (granting 0 0 []).granted? 0 = false ∧
      ((granting 0 0 []).pair 0).pstate ≠ 1) ∧
    (lone.geo = .idle ∧ ({ lone with geo := .regen }).geo = .regen ∧ ({ lone with geo := .drain {} }).geo = .drain {}) ∧
    (({ lone with ev := [0x40000] }).arg 0).testBit 18 = true ∧ lone.tilesOut = [] ∧ lone.drainHeld {} = false ∧
    (control.hstat.getLsbD 0 = true ∧ control.calAt ≤ control.beat) ∧ lone.arg 0 ≠ 1 ∧
    (∀ v ∈ [true, false], ({ lone with staged := some ⟨[], v⟩ }).staged = some ⟨[], v⟩) ∧
    ((∀ n ∈ [1, 2, 3, 4], ({ lone with boot := .step n 100 n }).bootDue = true) ∧ (booting 5 5).bootDue = true ∧ lone.image.valid = true ∧
      ({ lone with image := ⟨[], false⟩ }).image.valid = false ∧ lone.slotA.valid = true ∧ lone.slotB.valid = false ∧
      ({ lone with slotA := lone.slotB }).slotA.valid = false) ∧
    (lone.slotAInForce = true ∧ ({ lone with slotB := lone.slotA, slotA := lone.slotB }).slotAInForce = false) := by decide +kernel

theorem test_witness_graph_pages :
    [ (let s : State := { graphed 2 0x70000 with asker := .graph 0 }
       gotB ((s.ctlUse [(0x60000, 64)]).vread 0 0 0x70000 8) (fun _ _ => true) && (s.ctlGaps [(0x60000, 64)]).isNone &&
         (s.ctlUse [(0x60000, 64)]).nodeField (graph .node 0) 8 8 == 0x70000),
      (let s : State := { graphed 5 0x70000 with asker := .graph 0 }
       gotB ((s.ctlUse [(0x60000, 64)]).vwrite 0 0 0x70000 (State.clean (leBytes 8 1))) fun _ _ => true),
      (let g : GraphRun := { graph (.poll 0 0) 0 with base := 2 ^ 30 }
       let s : State := { control with graphs := [g] }
       s.graphById 0 == some g && s.pollDue g && ({ s with asker := .graph 0 } : State).ctlGaps [(2 ^ 30, 64)] == some (2 ^ 30)),
      (let g : GraphRun := { graph (.ended 0 2 0) 0 with base := 2 ^ 30 }
       let s : State := { control with graphs := [g] }
       s.endedDue g && ({ s with asker := .graph 0 } : State).ctlGaps [(2 ^ 30, 64)] == some (2 ^ 30)) ].all id = true := by decide +kernel

/-- A gang of queue 0 whose RCB holds dispatch or does not, placed and still to be dispatched. -/
def holding (dhold : Nat) : State :=
  { rooted 1 |> put 0x40016 2 dhold with gangs := [(0, { loneGang 0 with slice := { chain := [0x40000] } })], ctxs := [(0, { busy with run := .ready })] }

/-- The context number of queue 0 is away: it is saved, and nothing of it is resident. -/
def awayNow : State :=
  { rooted 1 with ctxs := [], saved := [{ savedSlice with frames := [{ savedFrame with ctx := { busy with ctxid := BitVec.ofNat _ ((rooted 1).ctxnOf [0x40000]) } }] }] }

theorem test_witness_queues_and_holds :
    [ ((holding 4).gang 0).slice.chain.any fun a => (((holding 4).decisionView.onDie 0).ctlNat (a + 0x16) 2).testBit 2,
      (holding 0).dispatchDue 0 && !((holding 4).dispatchDue 0),
      ({ queued 1 with restarts := [(0, 600)] } : State).restarting 0 && ({ queued 1 with restarts := [(0, 600)] } : State).ctlReady
        [((queued 1).queueAt 0, 64)] && (queued 1).qField 0 0x1A 1 == 1 && (queued 1).qtab != 0,
      ({ queued 1 with restarts := [(0, 600)], beat := 100 } : State).restarting 0 && !(({ queued 1 with beat := 100 } : State).ctlReady
        [((queued 1).queueAt 0, 64)]),
      awayNow.isAway ((rooted 1).ctxnOf [0x40000]) && awayNow.ctlReady (awayNow.awayRuns 0) && awayNow.qField 0 0x1A 1 == 1 &&
        awayNow.queueOf ((rooted 1).ctxnOf [0x40000]) 0 && awayNow.qtab != 0,
      !(({ awayNow with beat := 100 } : State).ctlReady (awayNow.awayRuns 0)) && ({ awayNow with beat := 100 } : State).isAway
        ((rooted 1).ctxnOf [0x40000]),
      ({ control with dues := [(0, .park 0 [0])] } : State).pickDuty == some (.due (0, .park 0 [0])) ].all id = true := by decide +kernel

theorem test_witness_freezes_and_slices :
    [ (let s : State := { gangIn { loneGang 0 with preempt := some (100, 2), hot := some 100 } with trip := true }
       s.freezeDue 0 && s.hotNow 0 && (s.gang 0).reset.isNone),
      (let s : State := { gangIn { loneGang 0 with hot := some 100 } with trip := true }
       s.freezeDue 0 && (s.gang 0).preempt.isNone),
      (let s := gangIn { loneGang 0 with off := true, offAt := 99 }
       (s.gang (s.ctx 0).gang).off && decide (s.beat < (s.gang (s.ctx 0).gang).offAt + 2) && !(s.gang (s.ctx 0).gang).slice.noprot),
      lone.calTile 255 && (lone.calPairs 255).contains 15 && lone.calTile 1023 ].all id = true := by decide +kernel

theorem test_witness_RegisterWrites :
    (lone.arg 2 ≠ 1 ∧ ({ lone with ev := [0, 0, 1] }).arg 2 = 1) ∧
    (State.inMsix 0x100000 = true ∧ State.inMsix 0x010 = false ∧ State.inMsix 0x018 = false ∧ (0x100000 : Nat) % 16 = 0) := by decide

theorem test_witness_ManagementAnswers :
    (({ lone with ev := [0, 0x040] }).arg 0 = 0 ∧ 0x040 ≤ ({ lone with ev := [0, 0x040] }).arg 1) ∧
    (({ lone with ev := [1, 0x040, 600] }).arg 0 ≠ 0 ∧ ({ lone with ev := [1, 0x040, 600] }).arg 1 = 0x040) ∧
    (lone.stopped ≠ some 2 ∧ ({ lone with stopped := some 2 }).stopped = some 2) := by decide

/-! ### Single instructions on small states, with results worked by hand from the rules -/

/-- What an instruction puts in flight, by beats from now; and the fault it takes. -/
def puts (o : Host.Outcome State Fault Refusal) : List (Nat × Act) :=
  match o with
  | .next t => t.me.items.map fun it => (it.due - t.beat, it.act)
  | _ => []

def faultOf (o : Host.Outcome State Fault Refusal) : Option (Nat × Nat) :=
  match o with
  | .next t => (t.taken.head?).map fun r => (r.code, r.detail)
  | _ => none

/-- R99: signed saturation at 2^63 - 1; the 32-bit unsigned wrap of 0 - 1. -/
theorem test_arithmetic_modifiers :
    puts (exec (.add 0 3 1 2 3) (withG [(1, 0x7FFFFFFFFFFFFFFF), (2, 1)])) = [(1, .g 3 0x7FFFFFFFFFFFFFFF false)] ∧
    puts (exec (.sub 0 3 1 2 2) (withG [(2, 1)])) = [(1, .g 3 0xFFFFFFFF false)] ∧
    puts (exec (.mul 0 3 1 2 1) (withG [(1, 0x10000), (2, 0x8000)])) = [(3, .g 3 0xFFFFFFFF80000000 false)] := by decide +kernel

/-- R100: a shift takes six bits of its count; a write to g0 lands nothing (R20). -/
theorem test_shifts :
    puts (exec (.sar 0 3 1 2) (withG [(1, 0x8000000000000000), (2, 65)])) = [(1, .g 3 0xC000000000000000 false)] ∧
    puts (exec (.rotl 0 3 1 2) (withG [(1, 0x8000000000000001), (2, 4)])) = [(1, .g 3 0x18 false)] ∧
    puts (exec (.or 0 0 1 1) (withG [(1, 5)])) = [] := by decide +kernel

/-- R105: -7 = -2 x 3 - 1; by zero, all ones and the dividend. -/
theorem test_division :
    puts (exec (.div 0 3 1 2) (withG [(1, -7), (2, 3)])) = [(16, .g 3 (-2) false)] ∧
    puts (exec (.rem 0 3 1 2) (withG [(1, -7), (2, 3)])) = [(16, .g 3 (-1) false)] ∧
    puts (exec (.divn 0 3 1 2) (withG [(1, 9)])) = [(16, .g 3 0xFFFFFFFFFFFFFFFF false)] ∧
    puts (exec (.rem 0 3 1 2) (withG [(1, 9)])) = [(16, .g 3 9 false)] := by decide +kernel

/-- R106: -1 < 0 signed and not unsigned; R108: bits 1 to 15. -/
theorem test_predicates :
    puts (exec (.cmp 0 5 1 0 2) (withG [(1, -1)])) = [(1, .p 5 true false)] ∧
    puts (exec (.cmp 0 5 1 0 4) (withG [(1, -1)])) = [(1, .p 5 false false)] ∧
    puts (exec (.cmp 0 0 1 0 2) (withG [(1, -1)])) = [] ∧
    (puts (exec (.psetAll 0 1) (withG [(1, 0x8003)]))).map (·.2) =
      [.preds ((List.range' 1 15).map fun n => (n, n == 1 || n == 15))] := by decide +kernel

/-- R109: 1.0 + 1.0 = 2.0; R50: 1 / 0 is infinite with DZ, flag 1 of R22. -/
theorem test_scalar_float :
    puts (exec (.fadd 0 3 1 1 0) (withG [(1, 0x3F800000)])) = [(4, .g 3 0x40000000 false)] ∧
    puts (exec (.fdiv 0 3 1 0 0) (withG [(1, 0x3F800000)])) = [(16, .g 3 0x7F800000 false), (16, .flags 2)] := by decide +kernel

/-- R112: the link follows the two delay bundles; R114: a count of 0 skips the body. -/
theorem test_control :
    (nextOf (exec (.br 0 (.short 0x1F0)) { lone with cur := { pc := 0x40, len := 5 } })).map (fun t => t.me.delay) =
      some (some ⟨true, 0x30, 3⟩) ∧
    (nextOf (exec (.loopg 0 1 1 (.short 20)) { withG [(1, 3)] with cur := { pc := 0x40, len := 5 } })).map (fun t => t.regs.loops) =
      some [⟨0x45, 0x54, 3, true⟩] ∧
    faultOf (exec (.pin 0 (.short 99)) lone) = some (0x09, 0x01) := by decide +kernel

/-- R124: rotate left by five, then XOR, when the fold lands. -/
theorem test_burgee : (({ burg := 0x8000000000000001 } : Regs).land (.fold [1])).burg = 0x31 := by decide

/-- R128: only active lanes land; R171 lane sums; R165 slides stay within a cluster. -/
theorem test_vector :
    puts (exec (.vadd 0 3 1 1 1) (lone { busy with regs := { v := [(1, [(0, 5), (1, 0xFFFFFFFF)])], m := [(1, 2)] } })) =
      [(2, .lanes 3 [(1, 0xFFFFFFFE, false)])] ∧
    puts (exec (.vredsumi 0 3 1 0 1) (lone { busy with regs := { v := [(1, [(0, 5), (1, 0xFFFFFFFF)])], m := [(1, 3)] } })) =
      [(6, .g 3 4 false)] ∧
    puts (exec (.vslideup 0 3 1 1 1) { lone { busy with regs := { v := [(1, [(0, 5)])], m := [(1, 0x10003)] } } with cur := { slot := 1 } }) =
      [(3, .lanes 3 [(0, 5, false), (1, 5, false), (16, 0, false)]), (3, .m 6 0x2 false)] := by decide +kernel

/-- R219: the low byte of a stored register at the address; a misaligned access is detail 7, one past the scratchpad 6. -/
theorem test_store :
    puts (exec (.st 0 2 1 0 1 none) (withG [(1, 0x10000), (2, 0xABCD)])) = [(1, .pool 0 [(0x10000, [0xCD, 0xAB], false)])] ∧
    faultOf (exec (.st 0 2 1 0 1 none) (withG [(1, 0x10001)])) = some (0x04, 0x07) ∧
    faultOf (exec (.st 0 2 1 0 0 none) (withG [(1, 0x70000)])) = some (0x04, 0x06) ∧
    (nextOf (exec .storePerform (flying (.pool 0 [(0x10000, [0xCD, 0xAB], false)])))).map (fun t => t.rd 0x10000 2) =
      some [0xCD, 0xAB] := by decide +kernel

/-- R32: two lands on one register in one beat; R148: two reads of one bank in one beat. -/
theorem test_collisions :
    ((lone.landG 5 1 1).landG 5 2 1).finishBundle.taken.head?.map (fun r => r.code) = some 0x05 ∧
    ((nextOf (exec (.ld 0 3 1 0 0 none) ((lone.addClaim (.bank 0 0) 100).modMe fun x => { x with
      regs := { x.regs with g := [(1, 0x10000)] } }))).bind fun t => t.taken.head?.map fun r => r.code) = some 0x06 := by decide +kernel

/-- R123: TCODE and TBEAT are written at once, and the gang freezes from the next beat on. -/
theorem test_trap :
    (nextOf (exec (.trap 0 7) lone)).map (fun t => (t.regs.tcode, t.regs.tbeat, t.cur.trap, (t.finishBundle.gang 0).fz)) =
      some (7, 100, some 7, some ⟨101, .trap, none⟩) := by decide +kernel

/-- R384, R385: a slice fault's record names tile, slot, beat and PC, and the gang freezes at once. -/
theorem test_slice_fault :
    (((lone { busy with regs := { pc := 0x44 } }).raise 0x09 0x01).taken.map fun r => (r.code, r.cls, r.detail, r.beat, r.src, r.pc)) =
      [(0x09, 1, 0x01, 100, 0, 0x44)] ∧
    ((lone.raise 0x09 0x01).gang 0).fz = some ⟨100, .fail, none⟩ := by decide +kernel

/-- R388: the snapshot comes back and RPLY counts. -/
theorem test_rewind :
    (nextOf (exec .rewind (lone { busy with
      run := .rewinding
      rew := some 20
      rewAt := 20
      regs := { g := [(1, 9)] }
      snap := { g := [(1, 4)] } } [0]))).map (fun t => (t.regs.gr 1, t.me.rply, t.me.nextAt)) = some (4, 1, 100) := by decide +kernel

/-- R438: a power limit outside 600 to 2,400 is ignored. -/
theorem test_power_limit :
    (nextOf (exec .pwrlimWrite { lone with ev := [599] })).map (fun t => t.pwrlim) = some 0x960 ∧
    (nextOf (exec .pwrlimWrite { lone with ev := [600] })).map (fun t => t.pwrlim) = some 600 := by decide +kernel

end Sys2Proof.Tests
end

section
/-! PROOFS. Spec 04: where bundles begin and end in a fetch line (R75, R76), and `nop` (R87). -/

namespace Sys2Proof.Machine

/-! ### The bytes of a fetch line -/

theorem mread_succ (m : List Host.Cell) (a n : Nat) : mread m a (n + 1) = mget m a :: mread m (a + 1) n := by
  simp [mread, List.range_succ_eq_map, Function.comp_def, Nat.add_assoc, Nat.add_comm 1]

/-- A template past its line's end faults on its own byte: `rest` is arbitrary (R75). -/
theorem fetchBundle_pastLine (acc off : Nat) {t : Byte} (rest : List Byte) (ht : t ≠ 0) (h : 64 < off + bundleLen t) :
    fetchBundle acc off (t :: rest) = .bad ⟨0x01, 0x01, 0xFF⟩ := (if_neg ht).trans (if_pos h)

/-- A padding template faults at a line's start alone (R76). -/
theorem fetchBundle_padding (acc off : Nat) (rest : List Byte) :
    fetchBundle acc off (0 :: rest) = if off = 0 then .bad ⟨0x02, 0x02, 0xFF⟩ else .padding := rfl

namespace State

variable {s : State}

/-- What is fetched from a line begins with the byte at the program counter. -/
theorem lineFrom_cons (s : State) (tile pc : Nat) :
    s.lineFrom tile pc = s.code tile pc :: s.rd (storeAt tile pc + 1) (63 - pc % 64) := by
  have hlen : 64 - pc % 64 = (63 - pc % 64) + 1 := by omega
  rw [lineFrom, rd, hlen, mread_succ, code, rd]

theorem fetched_of_template {t : Byte} (ht : s.code (tileOf s.cur.ctx) s.regs.pc.toNat = t) :
    s.fetched = fetchBundle s.me.accs (s.regs.pc.toNat % 64)
      (t :: s.rd (storeAt (tileOf s.cur.ctx) s.regs.pc.toNat + 1) (63 - s.regs.pc.toNat % 64)) := by
  rw [fetched, lineFrom_cons, ht]

/-! ### The fetch -/

theorem exec_bundleFetch (s : State) : exec .bundleFetch s = execBundleFetch s := rfl

/-- From a valid frame and an unmarked byte, a decoding fault is the fetch's fault. -/
theorem bundleFetch_bad {f : DecFault} (hv : s.frameValid s.cur.ctx s.regs.pc.toNat = true)
    (hm : s.marked (storeAt (tileOf s.cur.ctx) s.regs.pc.toNat) 1 = false) (hf : s.fetched = .bad f) :
    exec .bundleFetch s = .next ((s.modCur fun c => { c with slot := f.slot }).raise f.code f.detail) := by
  simp [exec_bundleFetch, execBundleFetch, hv, hm, hf]

/-- From a valid frame and an unmarked byte, padding moves the program counter to the next line. -/
theorem bundleFetch_padding (hv : s.frameValid s.cur.ctx s.regs.pc.toNat = true)
    (hm : s.marked (storeAt (tileOf s.cur.ctx) s.regs.pc.toNat) 1 = false) (hf : s.fetched = .padding) :
    exec .bundleFetch s = .next ((s.modMe fun x => { x with
      regs := { x.regs with pc := BitVec.ofNat 16 (s.regs.pc.toNat - s.regs.pc.toNat % 64 + 64) } }).modCur
        fun c => { c with moved := true }) := by
  simp [exec_bundleFetch, execBundleFetch, hv, hm, hf]

/-! ### What a bundle of `nop` does -/

theorem exec_or (g : BitVec 4) (d a b : BitVec 6) (s : State) : exec (.or g d a b) s = execOr g d a b s := rfl

theorem alu2_of_reads2 {g : BitVec 4} {a b : BitVec 6} (h : s.reads2 g a b) (d : BitVec 6) (n : Nat)
    (f : Word → Word → Word) : s.alu2 g d a b n f = s.landG d (f (s.valG a) (s.valG b)) n := by
  obtain ⟨⟨hg, ha⟩, hb⟩ := h
  rw [alu2, guarded_of_runs hg, useG_clear ha, useG_clear hb]

/-- No rotation moves g0, and a write to it lands nowhere (R20, R133). -/
theorem landG_zero (s : State) (v : Word) (n : Nat) (mk : Bool) : s.landG 0 v n mk = s := by
  simp [landG, greg]

theorem nextBeat_plain (hi : s.cur.idle = none) (hp : s.cur.pin = none) (hd : s.cur.drain = false) :
    s.nextBeat = s.beat + 1 := by
  simp [nextBeat, hi, hp, hd]

end State

/-- Settles O4: each clause about a state is the clause about `fetchBundle` at the byte its program counter names. -/
theorem bundleBoundaries : Obligations.BundleBoundaries := by
  refine ⟨fun acc off t rest ht h => fetchBundle_pastLine acc off rest ht h, fun acc rest => fetchBundle_padding acc 0 rest,
    fun acc off rest h => (fetchBundle_padding acc off rest).trans (if_neg h), ?_⟩
  intro s pc t bad hv hm
  refine ⟨fun ht hlen => ?_, fun ht hoff => ?_, fun ht hoff => ?_⟩
  · have hf : s.fetched = .bad ⟨0x01, 0x01, 0xFF⟩ := by
      rw [State.fetched_of_template rfl, fetchBundle_pastLine _ _ _ ht hlen]
    exact State.bundleFetch_bad hv hm hf
  · have hf : s.fetched = .bad ⟨0x02, 0x02, 0xFF⟩ := by
      rw [State.fetched_of_template ht, fetchBundle_padding, if_pos hoff]
    exact State.bundleFetch_bad hv hm hf
  · have hf : s.fetched = .padding := by
      rw [State.fetched_of_template ht, fetchBundle_padding, if_neg hoff]
    exact State.bundleFetch_padding hv hm hf

/-- Settles O5: the operands are read, the result goes to g0, and nothing in the cursor delays the next bundle. -/
theorem nopLandsNothing : Obligations.NopLandsNothing := by
  refine ⟨by decide, fun s h => ?_, fun s hi hp hd => State.nextBeat_plain hi hp hd⟩
  rw [State.exec_or, execOr, State.alu2_of_reads2 h, State.landG_zero]

end Sys2Proof.Machine
end

section
/-! PROOFS. Spec 05: the arithmetic modifier (R99), division (R105) and `cmpi` (R107). -/

namespace Sys2Proof

/-! ### Decoding in slot S -/

theorem decodeSlot_S {w : Half} (h : assignedOp .S (w.extractLsb' 25 7).toNat = true) (acc : Nat) (x : Option Half) :
    decodeSlot acc 0 w x = decodeS acc w x := by
  simp only [decodeSlot, slotClass, slotForbidden, h, Bool.not_true, Bool.false_eq_true, if_false]

theorem finish_wellFormed {acc : Nat} {i : Instr} (h : i.wellFormed acc = true) : finish acc false false i = .ok i := by
  simp [finish, h]

theorem finish_not_wellFormed {acc : Nat} {i : Instr} (h : i.wellFormed acc = false) :
    finish acc false false i = .error 0x0B := by
  simp [finish, h]

/-- The three instructions with an arithmetic modifier, which share their operands and their checks (R99). -/
def modifierForms (g : BitVec 4) (d a b : BitVec 6) (m : BitVec 3) : List Instr :=
  [.add g d a b m, .sub g d a b m, .mul g d a b m]

theorem wellFormed_modifierForms {acc : Nat} {g : BitVec 4} {d a b : BitVec 6} {m : BitVec 3} {i : Instr}
    (h : i ∈ modifierForms g d a b m) :
    i.wellFormed acc = true ↔ d.toNat < 32 ∧ a.toNat < 32 ∧ b.toNat < 32 ∧ m ≠ 7 := by
  simp only [modifierForms, List.mem_cons, List.not_mem_nil, or_false] at h
  have hwf : i.wellFormed acc = (d.toNat < 32 && a.toNat < 32 && b.toNat < 32 && m != 7) := by
    rcases h with rfl | rfl | rfl <;> rfl
  simp [hwf, and_assoc]

theorem decodeSlot_modifierForms {w : Half} (h : (w.extractLsb' 25 7).toNat ∈ [0x00, 0x01, 0x20]) (acc : Nat) :
    ∃ i ∈ modifierForms (w.extractLsb' 21 4) (w.extractLsb' 15 6) (w.extractLsb' 9 6) (w.extractLsb' 3 6)
      (w.extractLsb' 0 3), decodeSlot acc 0 w none = finish acc false false i := by
  have hS : decodeSlot acc 0 w none = decodeS acc w none :=
    decodeSlot_S ((by decide : ∀ op ∈ [0x00, 0x01, 0x20], assignedOp .S op = true) _ h) acc none
  simp only [List.mem_cons, List.not_mem_nil, or_false] at h
  rcases h with h | h | h
  · exact ⟨_, .head _, hS.trans (by simp only [decodeS, h])⟩
  · exact ⟨_, .tail _ (.head _), hS.trans (by simp only [decodeS, h])⟩
  · exact ⟨_, .tail _ (.tail _ (.head _)), hS.trans (by simp only [decodeS, h])⟩

section cmpi

variable (acc : Nat) (g p : BitVec 4) (c : BitVec 2) {a : BitVec 6} (im : Imm 9)

/-- `cmpi` takes its condition from d[5:4] and its predicate from d[3:0] (R107). -/
theorem decodeS_cmpi :
    decodeS acc (layI 0x29#7 g (c ++ p) a im.low) im.x? = finish acc false false (.cmpi g c p a im) := by
  have hop : ((layI 0x29#7 g (c ++ p) a im.low).extractLsb' 25 7).toNat = 0x29 := by rw [layI_op]; rfl
  have hc : (c ++ p).extractLsb' 4 2 = c := BitVec.extractLsb'_append_eq_left
  have hp : (c ++ p).extractLsb' 0 4 = p := BitVec.extractLsb'_append_eq_right
  simp only [decodeS, hop]
  rw [layI_g, layI_d, layI_a, layI_i, hc, hp]
  cases im with
  | short v => rfl
  | ext v => rfl

theorem decodeSlot_cmpi (ha : a.toNat < 32) :
    decodeSlot acc 0 (layI 0x29#7 g (c ++ p) a im.low) im.x? = .ok (.cmpi g c p a im) := by
  have hwf : (Instr.cmpi g c p a im).wellFormed acc = true := decide_eq_true ha
  rw [decodeSlot_S (by rw [layI_op]; rfl), decodeS_cmpi, finish_wellFormed hwf]

end cmpi

namespace Machine

/-! ### Two's complement and clamping -/

theorem sextN_eq_toInt (n x : Nat) : sextN n x = (BitVec.ofNat n x).toInt := by
  cases n with
  | zero => simp [sextN, BitVec.toInt_zero_length]
  | succ n =>
    have hpow : 2 ^ (n + 1) = 2 * 2 ^ n := by omega
    rw [BitVec.toInt_eq_toNat_cond, BitVec.toNat_ofNat]
    simp only [sextN, Nat.add_sub_cancel, hpow]
    split <;> split <;> omega

/-- Wrapping to n bits and reading them as two's complement extends the sign. -/
theorem ofInt_sextN_emod (n : Nat) (y : Int) :
    Word.ofInt (sextN n (y % (2 ^ n : Nat)).toNat) = (BitVec.ofInt n y).signExtend 64 := by
  rw [← BitVec.toNat_ofInt, sextN_eq_toInt, BitVec.ofNat_toNat, BitVec.setWidth_eq]
  rfl

/-- Wrapping to n bits and reading them as a natural number extends with zeros. -/
theorem ofInt_emod (n : Nat) (y : Int) : Word.ofInt (y % (2 ^ n : Nat)) = (BitVec.ofInt n y).setWidth 64 := by
  have hpos : ((2 ^ n : Nat) : Int) ≠ 0 := by positivity
  rw [← Int.toNat_of_nonneg (Int.emod_nonneg y hpos), ← BitVec.toNat_ofInt, Word.ofInt, BitVec.ofInt_natCast,
    BitVec.ofNat_toNat]

theorem clampI_eq_max_min {lo hi : Int} (h : lo ≤ hi) (x : Int) : clampI x lo hi = max lo (min hi x) := by
  unfold clampI
  omega

/-! ### The arithmetic modifier (R99) -/

theorem amWidth_pos (m : Nat) : 0 < amWidth m := by
  unfold amWidth
  split <;> decide

theorem amWidth_le (m : Nat) : amWidth m ≤ 64 := by
  unfold amWidth
  split <;> decide

section modifier

variable {m : Nat}

theorem amIn_signed (h : amSigned m = true) (x : Word) : amIn m x = (x.setWidth (amWidth m)).toInt := by
  rw [amIn, if_pos h, sextN_eq_toInt, BitVec.ofNat_toNat]

theorem amIn_unsigned (h : amSigned m = false) (x : Word) : amIn m x = ((x.setWidth (amWidth m)).toNat : Int) := by
  simp [amIn, h, BitVec.toNat_setWidth]

theorem amOut_wrap_signed (h : amSigned m = true) (hm : m < 3) (v : Int) :
    amOut m v = (BitVec.ofInt (amWidth m) v).signExtend 64 := by
  simp only [amOut, h, hm, if_true, ofInt_sextN_emod]

theorem amOut_wrap_unsigned (h : amSigned m = false) (hm : m < 3) (v : Int) :
    amOut m v = (BitVec.ofInt (amWidth m) v).setWidth 64 := by
  simp only [amOut, h, hm, if_true, Bool.false_eq_true, if_false, ofInt_emod]

/-- A signed saturating modifier lands the nearest value of its width. -/
theorem toInt_amOut_saturate_signed (h : amSigned m = true) (hm : 3 ≤ m) (v : Int) :
    (amOut m v).toInt = max (-2 ^ (amWidth m - 1)) (min (2 ^ (amWidth m - 1) - 1) v) := by
  have hpow : (0 : Int) < 2 ^ (amWidth m - 1) := by positivity
  have hlt : ¬ m < 3 := by omega
  simp only [amOut, h, hlt, if_true, if_false, ofInt_sextN_emod]
  rw [clampI_eq_max_min (by push_cast; omega), BitVec.toInt_signExtend_of_le (amWidth_le m)]
  push_cast
  exact BitVec.toInt_ofInt_eq_self (amWidth_pos m) (by omega) (by omega)

/-- An unsigned saturating modifier lands the nearest natural number of its width. -/
theorem toNat_amOut_saturate_unsigned (h : amSigned m = false) (hm : 3 ≤ m) (v : Int) :
    ((amOut m v).toNat : Int) = max 0 (min (2 ^ amWidth m - 1) v) := by
  have hpow : (0 : Int) < 2 ^ amWidth m := by positivity
  have hlt : ¬ m < 3 := by omega
  simp only [amOut, h, hlt, if_false, Bool.false_eq_true, ofInt_emod]
  rw [clampI_eq_max_min (by push_cast; omega), BitVec.toNat_setWidth_of_le (amWidth_le m), BitVec.toNat_ofInt]
  push_cast
  rw [Int.emod_eq_of_lt (by omega) (by omega), Int.toNat_of_nonneg (by omega)]

end modifier

/-! ### Quotients and remainders (R105) -/

section division

variable {x y : Word}

theorem divS_eq_sdiv (h : y ≠ 0) : divS x y = x.sdiv y := by
  rw [divS, if_neg h]
  apply BitVec.eq_of_toInt_eq
  rw [Word.ofInt, BitVec.toInt_ofInt, BitVec.toInt_sdiv]

theorem remS_eq_srem (h : y ≠ 0) : remS x y = x.srem y := by
  rw [remS, if_neg h, ← BitVec.toInt_srem, Word.ofInt, BitVec.ofInt_toInt]

theorem toNat_divU (h : y ≠ 0) : (divU x y).toNat = x.toNat / y.toNat := by
  rw [divU, if_neg h, Word.ofNat, ← BitVec.toNat_udiv, BitVec.ofNat_toNat, BitVec.setWidth_eq]

theorem toNat_remU (h : y ≠ 0) : (remU x y).toNat = x.toNat % y.toNat := by
  rw [remU, if_neg h, Word.ofNat, ← BitVec.toNat_umod, BitVec.ofNat_toNat, BitVec.setWidth_eq]

theorem toInt_remS (h : y ≠ 0) : (remS x y).toInt = x.toInt.tmod y.toInt := by
  rw [remS_eq_srem h, BitVec.toInt_srem]

/-- Only −2^63 by −1 has a quotient that does not fit in 64 bits. -/
theorem toInt_divS (h : y ≠ 0) (ho : ¬ (x.toInt = -2 ^ 63 ∧ y.toInt = -1)) :
    (divS x y).toInt = x.toInt.tdiv y.toInt := by
  rw [divS_eq_sdiv h]
  apply BitVec.toInt_sdiv_of_ne_or_ne
  by_contra hxy
  push Not at hxy
  obtain ⟨rfl, rfl⟩ := hxy
  exact ho (by decide)

end division

/-! ### Immediates (R78, R101) -/

theorem toInt_immS_short (v : BitVec 9) : (immS (.short v)).toInt = v.toInt :=
  BitVec.toInt_signExtend_of_le (by decide)

theorem toInt_immS_ext {n : Nat} (x : Half) : (immS (.ext x : Imm n)).toInt = x.toInt :=
  BitVec.toInt_signExtend_of_le (by decide)

namespace State

/-! ### The instructions under their guard -/

variable {s : State} {g : BitVec 4} {a b : BitVec 6}

theorem exec_add_of_reads2 (h : s.reads2 g a b) (d : BitVec 6) (m : BitVec 3) :
    exec (.add g d a b m) s =
      .next (s.landG d (amOut m.toNat (amIn m.toNat (s.valG a) + amIn m.toNat (s.valG b))) Lat.alu) :=
  congrArg _ (alu2_of_reads2 h d _ _)

theorem exec_sub_of_reads2 (h : s.reads2 g a b) (d : BitVec 6) (m : BitVec 3) :
    exec (.sub g d a b m) s =
      .next (s.landG d (amOut m.toNat (amIn m.toNat (s.valG a) - amIn m.toNat (s.valG b))) Lat.alu) :=
  congrArg _ (alu2_of_reads2 h d _ _)

theorem exec_mul_of_reads2 (h : s.reads2 g a b) (d : BitVec 6) (m : BitVec 3) :
    exec (.mul g d a b m) s =
      .next (s.landG d (amOut m.toNat (amIn m.toNat (s.valG a) * amIn m.toNat (s.valG b))) Lat.mul) :=
  congrArg _ (alu2_of_reads2 h d _ _)

theorem exec_div_of_reads2 (h : s.reads2 g a b) (d : BitVec 6) :
    exec (.div g d a b) s = .next (s.landG d (divS (s.valG a) (s.valG b)) Lat.div) :=
  congrArg _ (alu2_of_reads2 h d _ _)

theorem exec_rem_of_reads2 (h : s.reads2 g a b) (d : BitVec 6) :
    exec (.rem g d a b) s = .next (s.landG d (remS (s.valG a) (s.valG b)) Lat.div) :=
  congrArg _ (alu2_of_reads2 h d _ _)

theorem exec_divn_of_reads2 (h : s.reads2 g a b) (d : BitVec 6) :
    exec (.divn g d a b) s = .next (s.landG d (divU (s.valG a) (s.valG b)) Lat.div) :=
  congrArg _ (alu2_of_reads2 h d _ _)

theorem exec_remn_of_reads2 (h : s.reads2 g a b) (d : BitVec 6) :
    exec (.remn g d a b) s = .next (s.landG d (remU (s.valG a) (s.valG b)) Lat.div) :=
  congrArg _ (alu2_of_reads2 h d _ _)

theorem guarded_useG_of_reads1 (h : s.reads1 g a) (k : Word → State) : s.guarded g (s.useG a k) = k (s.valG a) := by
  obtain ⟨hg, ha⟩ := h
  rw [guarded_of_runs hg, useG_clear ha]

theorem exec_cmpi_of_reads1 (h : s.reads1 g a) (c : BitVec 2) (p : BitVec 4) (im : Imm 9) :
    exec (.cmpi g c p a im) s = .next (s.landP p.toNat (cmpiCond c.toNat (s.valG a) (immS im)) Lat.cmp) :=
  congrArg _ (guarded_useG_of_reads1 h _)

end State

/-- Settles O12: each modifier is its width, its sign and its wrapping or saturation; `decodeSlot` refuses 7 as ill-formed. -/
theorem arithmeticModifier : Obligations.ArithmeticModifier := by
  refine ⟨fun x => ?_, fun v => ?_, fun s g d a b m h => ?_, fun acc w hop => ?_⟩
  · have h64 : x.setWidth 64 = x := BitVec.setWidth_eq x
    exact ⟨(amIn_signed rfl x).trans (congrArg _ h64), amIn_signed rfl x, amIn_unsigned rfl x,
      (amIn_signed rfl x).trans (congrArg _ h64), (amIn_unsigned rfl x).trans (by rw [show amWidth 4 = 64 from rfl, h64]),
      amIn_signed rfl x, amIn_unsigned rfl x⟩
  · exact ⟨(amOut_wrap_signed rfl (by decide) v).trans (BitVec.signExtend_eq _), amOut_wrap_signed rfl (by decide) v,
      amOut_wrap_unsigned rfl (by decide) v, toInt_amOut_saturate_signed rfl (by decide) v,
      toNat_amOut_saturate_unsigned rfl (by decide) v, toInt_amOut_saturate_signed rfl (by decide) v,
      toNat_amOut_saturate_unsigned rfl (by decide) v⟩
  · exact ⟨State.exec_add_of_reads2 h d m, State.exec_sub_of_reads2 h d m, State.exec_mul_of_reads2 h d m⟩
  · obtain ⟨i, hi, hdec⟩ := decodeSlot_modifierForms hop acc
    have hwf := wellFormed_modifierForms (acc := acc) hi
    refine ⟨fun h7 => ?_, fun h7 hd ha hb => ⟨w.extractLsb' 21 4, w.extractLsb' 15 6, w.extractLsb' 9 6, w.extractLsb' 3 6,
      w.extractLsb' 0 3, rfl, ?_⟩⟩
    · have hbad : i.wellFormed acc = false := by
        rw [Bool.eq_false_iff, ne_eq, hwf]
        exact fun ⟨_, _, _, hm⟩ => hm h7
      rw [hdec, finish_not_wellFormed hbad]
    · rw [hdec, finish_wellFormed (hwf.mpr ⟨hd, ha, hb, h7⟩)]
      simpa only [modifierForms, List.mem_cons, List.not_mem_nil, or_false, Except.ok.injEq] using hi

/-- Settles O14: the quotient and remainder are those of truncating integer division, where the quotient fits. -/
theorem divisionRule : Obligations.DivisionRule := by
  refine ⟨fun x y hy ho => ?_, fun x y hy => ?_, fun x => ⟨rfl, rfl, rfl, rfl⟩, fun x y hx hy => ?_, fun s g d a b h => ?_⟩
  · have hy' : 0 < y.toInt.natAbs := Int.natAbs_pos.mpr fun h => hy (BitVec.eq_of_toInt_eq h)
    rw [toInt_divS hy ho, toInt_remS hy]
    refine ⟨(Int.tdiv_mul_add_tmod _ _).symm, ?_, Int.tmod_nonneg _, fun hx => ?_⟩
    · rw [Int.natAbs_tmod]
      exact Nat.mod_lt _ hy'
    · have hneg := Int.tmod_nonneg y.toInt (Int.neg_nonneg.mpr hx)
      rwa [Int.neg_tmod, Int.neg_nonneg] at hneg
  · have hy' : 0 < y.toNat := BitVec.toNat_pos_of_ne_zero hy
    rw [toNat_divU hy, toNat_remU hy]
    exact ⟨(Nat.div_add_mod' _ _).symm, Nat.mod_lt _ hy'⟩
  · have hx' : x = BitVec.intMin 64 := BitVec.eq_of_toInt_eq hx
    have hy' : y = -1#64 := BitVec.eq_of_toInt_eq hy
    subst hx' hy'
    exact ⟨by decide, by decide⟩
  · exact ⟨State.exec_div_of_reads2 h d, State.exec_rem_of_reads2 h d, State.exec_divn_of_reads2 h d,
      State.exec_remn_of_reads2 h d⟩

/-- Settles O16: the conditions are those of `cmpiCond`, and the encoded fields read back as they were laid out. -/
theorem compareImmediateRule : Obligations.CompareImmediateRule := by
  refine ⟨fun s g p a im h => ?_, fun v x => ⟨toInt_immS_short v, toInt_immS_ext x⟩, fun acc g p c a v x ha => ?_⟩
  · exact ⟨State.exec_cmpi_of_reads1 h 0 p im, State.exec_cmpi_of_reads1 h 1 p im, State.exec_cmpi_of_reads1 h 2 p im,
      State.exec_cmpi_of_reads1 h 3 p im⟩
  · exact ⟨decodeSlot_cmpi acc g p c (.short v) ha, decodeSlot_cmpi acc g p c (.ext x) ha⟩

end Machine

end Sys2Proof
end
